-- ==== Sys2Proof/Word.lean ====
section
/-! DEFINITION. The words of the machine and the one sparse table type every indexed piece of state uses. -/

namespace Sys2Proof

/-- A control-core register, an address, a system register (R123). -/
abbrev Word := BitVec 64

/-- A 512-bit operand, latch or lane value (R49, R54). -/
abbrev Vec := BitVec 512

abbrev Byte := BitVec 8

/-- A table indexed by numbers: only the entries that differ from the default are listed, keys strictly rising,
so that equal tables are equal data. -/
abbrev Tab (α : Type) := List (Nat × α)

/-- The entry of key `n`; `d` is what an unlisted key holds. -/
def tget {α : Type} (d : α) : Tab α → Nat → α
  | [], _ => d
  | (k, v) :: t, n => if n = k then v else if n < k then d else tget d t n

/-- The table with entry `n` set to `x`; setting the default removes the entry. What a disordered list would hide behind the
entry goes too, so that the entry read afterwards is `x`, and a second write forgets the first, in every list. -/
def tset {α : Type} [DecidableEq α] (d : α) : Tab α → Nat → α → Tab α
  | [], n, x => if x = d then [] else [(n, x)]
  | (k, v) :: t, n, x =>
    if k < n then (k, v) :: tset d t n x
    else
      let r := ((k, v) :: t).dropWhile (fun e => decide (e.1 ≤ n))
      if x = d then r else (n, x) :: r

/-- Every key of the table lies above `lo`, keys rise strictly and no entry is the default. -/
def twfFrom {α : Type} [DecidableEq α] (d : α) : Nat → Tab α → Bool
  | _, [] => true
  | lo, (k, v) :: t => decide (lo ≤ k) && decide (v ≠ d) && twfFrom d (k + 1) t

/-- The canonical form of a table. -/
def twf {α : Type} [DecidableEq α] (d : α) (t : Tab α) : Bool := twfFrom d 0 t

end Sys2Proof
end

