-- ==== Sys2Proof/Config.lean ====
section
/-! DEFINITION. What an implementation fixes and the spec leaves open: opaque constants without a body, so that no proof
can see their value. Each is named in the assumption log. -/

namespace Sys2Proof

/-- Configuration of one CE as block kind 0x04 gives it (R134): 32 rows, 32 stage tags, FCFG, z0 to z5.
`named` says that a block of the load names the unit, `zset` which constants CFGP has replaced since (R265). Unlisted rows are NOP (`0x01FFFC00`). -/
structure CeCfg where
  rows : Tab (BitVec 32) := []
  stages : Tab (BitVec 6) := []
  fcfg : BitVec 32 := 0
  z : Tab (BitVec 32) := []
  zset : BitVec 6 := 0
  named : Bool := false
  deriving DecidableEq, Repr

/-- Configuration of one MN (block kind 0x05): entries, stage tags, NCFG, ag0 to ag3, shelf descriptors. -/
structure MnCfg where
  rows : Tab Word := []
  stages : Tab (BitVec 6) := []
  ncfg : BitVec 32 := 0
  ag : Tab (BitVec 128) := []
  shelf : Tab Word := []
  named : Bool := false
  deriving DecidableEq, Repr

/-- Configuration of one XN (block kind 0x06): entries, stage tags, FCFG. -/
structure XnCfg where
  rows : Tab Word := []
  stages : Tab (BitVec 6) := []
  fcfg : BitVec 32 := 0
  named : Bool := false
  deriving DecidableEq, Repr

/-- One circuit record (R32): the two shelves, the circuit number and the hops. -/
structure CircuitRec where
  sdie : Nat
  sring : Nat
  snode : Nat
  ssh : Nat
  ddie : Nat
  dring : Nat
  dnode : Nat
  dsh : Nat
  cnum : Nat
  slot0 : Nat
  nslots : Nat
  hops : List (BitVec 32)
  deriving DecidableEq, Repr

/-- One byte range of the declared set (R111, R249): bytes `lo` up to `lo + len` of an MN. -/
structure DeclRange where
  ring : Nat
  node : Nat
  lo : Nat
  len : Nat
  rd : Bool
  wr : Bool
  deriving DecidableEq, Repr

/-- What one record of a configuration block says, read in the layouts of the rules that R134 cites. A table load holds the
offset of its record in TABLES and the record itself; a derived declaration and a binding hold their octet record. -/
inductive CfgItem where
  | region (idx : Nat) (desc : Word)
  | cell (idx : Nat) (w0 w1 : Word)
  | lut (idx : Nat) (w : Word)
  | ce (ring slot : Nat) (c : CeCfg)
  | mn (ring slot : Nat) (c : MnCfg)
  | xn (ring slot : Nat) (c : XnCfg)
  | view (idx : Nat) (w : List Word)
  | circuit (c : CircuitRec)
  | declared (r : DeclRange)
  | bind (port : Nat) (rec : List Word)
  | derive (rec : List Word)
  | table (kind ring slot idx off : Nat) (rec : BitVec 8320)
  | shelf (ring node shelf buf : Nat) (bytes : List Byte)
  deriving DecidableEq, Repr

/-- An item with the fabric load it belongs to and its place: the byte offset of its block in the native section (R134,
R145). -/
structure CfgBlock where
  load : Nat
  place : Nat
  item : CfgItem
  deriving DecidableEq, Repr

/-- What a start-up comes to and what firmware takes from outside: `fail` is 0 when every step succeeds, else the BOOTERR code
of the step that fails, 7 for the CXL link; `noLink` says that the link does not come up; then the package's place in the
mesh, the mesh's extents and the enrolled key hashes (log 25). -/
structure BootInput where
  fail : Nat
  noLink : Bool
  px : Nat
  py : Nat
  mw : Nat
  mh : Nat
  hashes : List (BitVec 256)
  deriving DecidableEq, Repr

/-- Where the placer has put a Hexnum record: fabric load, ring, slot and the index of its row or entry (R136). -/
structure HexSite where
  load : Nat
  ring : Nat
  slot : Nat
  row : Nat
  deriving DecidableEq, Repr

/-- What the placer answers for a Hexnum section: the record of a failing loop and the code of what failed, or the blocks,
and where each node record went (R136, R137). -/
inductive Placed where
  | refused (record code : Nat)
  | done (blocks : List CfgBlock) (sites : Tab (Option HexSite))
  deriving DecidableEq, Repr, Inhabited

namespace Config

/-- The firmware vector of R234; the spec gives no address (log 3). -/
opaque firmwareVector : Word

/-- Free choices: whether an asynchronous event happens in this cycle, whether a cached line is still held (log 4, 6, 7). -/
opaque freeBit : Nat → Bool

/-- Free numbers: which permitted prefix a derived read returns, which poisoned or remote byte arrives (log 19). -/
opaque freeNat : Nat → Nat

/-- A free 64-bit value (log 19). -/
opaque freeWord : Nat → Word

/-- Which of the values that R61 and R290 permit the profile `g2` gives for built-in `op` (0 FRCP, 1 FRSQ, 2 FEXP2,
3 FLOG2) of an FP32 input: an index among the candidates, or a whole FP32 pattern where the spec bounds nothing. For 4
FTANH and 5 FSIG, which never step backward, it is the threshold of an FP32 result: the magnitude of the input from which
on, or up to which, the function gives at least that result (log 11). -/
opaque builtin (g2 : Bool) (op : Nat) (x : BitVec 32) : Nat

/-- Whether a built-in result sets UNF (bit 0) or OVF (bit 1) where R61, R72 and R290 leave it open (log 11). -/
opaque builtinFlags (g2 : Bool) (op : Nat) (x : BitVec 32) : BitVec 2

/-- Which of the two Q16 levels nearest to zero QENC gives an exact zero: they tie and have one magnitude, so the rule of
R336 does not choose (log 11). -/
opaque q16ZeroUp : Bool

/-- The bank that port 1 of a node touches in cycle `k` of an XN operation: the tile pattern is fixed, but the spec does
not give it beat by beat (log 17). -/
opaque portBank (entry : Word) (east : Bool) (k : Nat) : Nat

/-- Which of the `m` values that are left the G2 profile takes as the first (`k` 0) and the second (`k` 1) of its next
combination of `n` operand lanes of an AMO.U: the order is fixed for the profile, and the spec does not give it (R84, R256;
log 11). -/
opaque g2AmoPick (n m k : Nat) : Nat

/-- What a 64 B granule written under key `wr` (none: never written) reads as under another key `rd` (R242; log 8). -/
opaque misdecrypt (wr : Option (BitVec 512)) (rd : BitVec 512) (granule : Nat) : BitVec 512

/-- The RFC 3394 unwrap of a 72 B key wrapping under the fused key-encryption key (R242; log 8). -/
opaque keyUnwrap (wrapped : List Byte) : Option (BitVec 512)

/-- The fresh key firmware loads into slot 0 (R20, R244), by a counter (log 8). -/
opaque slot0Key : Nat → BitVec 512

/-- Byte `i` of the XMSS signature of a digest under the device identity key with a signature index (R245; log 8). -/
opaque xmssByte (digest : BitVec 256) (index i : Nat) : Byte

/-- An XMSS signature: 2,820 bytes (R245). -/
def xmssSign (digest : BitVec 256) (index : Nat) : List Byte := (List.range 2820).map (xmssByte digest index)

/-- The SHAKE256 digest of the management and base-die firmware (R245; log 8). -/
opaque firmwareDigest : BitVec 256

/-- The bytes of the fuses (R245; log 8). -/
opaque fuses : List Byte

/-- Bit of a payload at which a field begins, in the order in which R134 lists the fields of a block kind: the spec gives
the widths of the fields of kinds 0x04, 0x05, 0x06, 0x09, 0x0A, 0x0C and 0x0D, not how they are packed (log 9). -/
opaque fieldBit (kind i : Nat) : Nat

/-- Bytes of one payload of kinds 0x04, 0x05 and 0x06, and of one record of kinds 0x09, 0x0A and 0x0C (log 9). -/
opaque recordBytes (kind : Nat) : Nat

/-- The placer for G3 (R136 to R138): a function of the rectangle's shape and the Hexnum records alone (log 10). -/
opaque placement (w h : Nat) (recs : List (Word × Word)) : Placed

/-- The pieces of a DATA section with the GEN addresses they go to: the spec gives no layout (R132; log 9). -/
opaque dataPieces (sec : List Byte) : List (Word × List Byte)

/-- The latency of a hop over a die boundary, or over a mesh link of another package, from training: global coordinates
of the die it leaves, direction, channel (R30; log 13). -/
opaque hopDelay (gx gy dirn chan : Nat) : Nat

/-- Which global frame of every eight is the frozen one under throttling (R21; log 23). -/
opaque throttleFrame : Nat

/-- Whether the parties of a launch in other packages have done their part of a barrier, a collective, a token, a save or
an end by a cycle (log 13). -/
opaque remoteReady : Nat → Nat → Bool

/-- Whether, by a cycle, the cores of a launch in other packages have halted short of a barrier or collective (log 13). -/
opaque remoteHalted : Nat → Nat → Bool

/-- Bytes that another package's memory, or a die in another package, returns (log 13). -/
opaque remoteByte : Nat → Nat → Byte

end Config

end Sys2Proof
end

