-- ==== Sys2Proof/Machine/Num.lean ====
section
/-! DEFINITION. Number formats and rounding (R67 to R83): values are exact rationals with the IEEE specials; precision is
lost only in the rounding functions, each of which also gives the flags of R72. Flag bits: 0 INV, 1 DZ, 2 OVF, 3 UNF,
4 INX, 5 SAT. -/

namespace Sys2Proof.Machine

abbrev Flags := BitVec 6

def fINV : Flags := 1
def fDZ : Flags := 2
def fOVF : Flags := 4
def fUNF : Flags := 8
def fINX : Flags := 16
def fSAT : Flags := 32

/-- The flag `f` when `c` holds. -/
def flagIf (c : Bool) (f : Flags) : Flags := if c then f else 0

/-- An exact value: `fin` is never zero. `true` signs are negative. -/
inductive FVal where
  | nan
  | inf (neg : Bool)
  | zero (neg : Bool)
  | fin (q : Rat)
  deriving DecidableEq, Repr

/-- The value of a rational, an exact zero with sign `neg`. -/
def FVal.ofRat (q : Rat) (neg : Bool := false) : FVal := if q = 0 then .zero neg else .fin q

/-- The rational of a finite value, 0 otherwise. -/
def FVal.toRat : FVal → Rat
  | .fin q => q
  | _ => 0

def FVal.isNan : FVal → Bool
  | .nan => true
  | _ => false

def FVal.isZero : FVal → Bool
  | .zero _ => true
  | _ => false

def FVal.isInf : FVal → Bool
  | .inf _ => true
  | _ => false

/-- The sign of a value; NaN counts positive. -/
def FVal.neg : FVal → Bool
  | .nan => false
  | .inf s => s
  | .zero s => s
  | .fin q => decide (q < 0)

/-- 2^e. -/
def pow2 (e : Int) : Rat := if 0 ≤ e then ((2 ^ e.toNat : Nat) : Rat) else mkRat 1 (2 ^ (-e).toNat)

/-- ⌊log2 q⌋ of a positive rational. -/
def ilog2 (q : Rat) : Int :=
  let e : Int := (Nat.log2 q.num.toNat : Int) - (Nat.log2 q.den : Int)
  if pow2 e ≤ q then e else e - 1

def rabs (q : Rat) : Rat := if q < 0 then -q else q

/-- Rounding of a non-negative rational to an integer; `neg` is the sign of the value it belongs to. Modes 0 RNE, 1 RTZ,
2 RDN, 3 RUP (R50). -/
def roundNat (rm : Nat) (neg : Bool) (q : Rat) : Nat :=
  let n := q.num.toNat / q.den
  let r := q.num.toNat % q.den
  if r = 0 then n
  else match rm with
    | 0 => if 2 * r > q.den then n + 1 else if 2 * r < q.den then n else if n % 2 = 0 then n else n + 1
    | 1 => n
    | 2 => if neg then n + 1 else n
    | _ => if neg then n else n + 1

/-- Rounding of a rational to an integer. -/
def roundInt (rm : Nat) (q : Rat) : Int :=
  if q < 0 then -(roundNat rm true (-q) : Int) else roundNat rm false q

/-! ### Scalar formats -/

/-- A floating-point format of R67. `nans`: 0 none, 1 E all ones with F ≠ 0, 2 E and F all ones. `ieee`: overflow goes
to infinity; otherwise results saturate (R71). -/
structure FFmt where
  bits : Nat
  ebits : Nat
  mbits : Nat
  bias : Nat
  inf : Bool
  nans : Nat
  ieee : Bool
  deriving DecidableEq, Repr

/-- The floating-point format of a code 0x00 to 0x07 (R67); other codes read as FP32. -/
def ffmt (code : Nat) : FFmt :=
  match code with
  | 1 => ⟨16, 5, 10, 15, true, 1, true⟩
  | 2 => ⟨16, 8, 7, 127, true, 1, true⟩
  | 3 => ⟨8, 4, 3, 7, false, 2, false⟩
  | 4 => ⟨8, 5, 2, 15, true, 1, false⟩
  | 5 => ⟨6, 3, 2, 3, false, 0, false⟩
  | 6 => ⟨6, 2, 3, 1, false, 0, false⟩
  | 7 => ⟨4, 2, 1, 1, false, 0, false⟩
  | _ => ⟨32, 8, 23, 127, true, 1, true⟩

/-- Width of an integer code 0x08 to 0x0B (R68). -/
def ibits (code : Nat) : Nat :=
  match code with
  | 8 => 8
  | 9 => 4
  | 10 => 32
  | _ => 16

def isFloat (code : Nat) : Bool := decide (code ≤ 7)
def isInteger (code : Nat) : Bool := decide (8 ≤ code ∧ code ≤ 11)
def isScalar (code : Nat) : Bool := decide (code ≤ 11)
def isBlock (code : Nat) : Bool := decide (12 ≤ code ∧ code ≤ 20)

/-- The lane width of a code (R51); 0 for a reserved code. -/
def laneWidth (code : Nat) : Nat :=
  match code with
  | 0 | 10 => 32
  | 1 | 2 | 11 => 16
  | 7 | 9 | 16 | 19 | 20 => 4
  | 3 | 4 | 5 | 6 | 8 | 12 | 13 | 14 | 15 | 17 | 18 => 8
  | _ => 0

/-- The largest finite magnitude of a format. -/
def FFmt.maxMag (f : FFmt) : Nat :=
  let all := 2 ^ (f.ebits + f.mbits) - 1
  if f.nans = 1 then all - 2 ^ f.mbits else if f.nans = 2 then all - 1 else all

/-- The magnitude of a pattern below the sign bit. -/
def FFmt.mag (f : FFmt) (x : Nat) : Rat :=
  let e := x / 2 ^ f.mbits
  let m := x % 2 ^ f.mbits
  if e = 0 then (m : Rat) * pow2 (1 - (f.bias : Int) - f.mbits)
  else ((2 ^ f.mbits + m : Nat) : Rat) * pow2 ((e : Int) - f.bias - f.mbits)

/-- The canonical NaN pattern (R67); +0 where the format has none (R71). -/
def FFmt.canon (f : FFmt) : Nat :=
  match f.nans with
  | 1 => 2 ^ (f.ebits + f.mbits) - 2 ^ (f.mbits - 1)
  | 2 => 2 ^ (f.ebits + f.mbits) - 1
  | _ => 0

/-- The value of a pattern. -/
def FFmt.decode (f : FFmt) (x : Nat) : FVal :=
  let neg := decide (x / 2 ^ (f.bits - 1) % 2 = 1)
  let y := x % 2 ^ (f.bits - 1)
  let top := y / 2 ^ f.mbits
  let fr := y % 2 ^ f.mbits
  if f.nans = 1 ∧ top = 2 ^ f.ebits - 1 then (if fr = 0 then .inf neg else .nan)
  else if f.nans = 2 ∧ y = 2 ^ (f.ebits + f.mbits) - 1 then .nan
  else if y = 0 then .zero neg
  else .fin (if neg then -(f.mag y) else f.mag y)

def signBit (f : FFmt) (neg : Bool) : Nat := if neg then 2 ^ (f.bits - 1) else 0

/-- The pattern of a representable magnitude. -/
def FFmt.encodeMag (f : FFmt) (q : Rat) : Nat :=
  let emin : Int := 1 - (f.bias : Int)
  let e := ilog2 q
  if e < emin then (q / pow2 (emin - f.mbits)).num.toNat
  else (e + f.bias).toNat * 2 ^ f.mbits + (q / pow2 (e - f.mbits)).num.toNat - 2 ^ f.mbits

/-- Rounding of a nonzero rational with the format's precision: `emin` bounds the exponent from below. -/
def roundPrec (mbits : Nat) (emin : Option Int) (rm : Nat) (q : Rat) : Rat :=
  let a := rabs q
  let e := match emin with
    | some m => max (ilog2 a) m
    | none => ilog2 a
  (roundNat rm (decide (q < 0)) (a / pow2 (e - mbits)) : Rat) * pow2 (e - mbits)

/-- The pattern and flags of a finite result beyond the largest magnitude (R71). -/
def FFmt.beyond (f : FFmt) (rm : Nat) (neg : Bool) : Nat × Flags :=
  let mx := f.maxMag + signBit f neg
  if f.ieee then
    let toInf := match rm with
      | 0 => true
      | 1 => false
      | 2 => neg
      | _ => !neg
    (if toInf then f.maxMag + 1 + signBit f neg else mx, fOVF ||| fINX)
  else (mx, fSAT)

/-- Rounding of an exact value into a floating-point format (R70 to R72). -/
def FFmt.round (f : FFmt) (rm : Nat) (v : FVal) : Nat × Flags :=
  match v with
  | .nan => (f.canon, flagIf (decide (f.nans = 0)) fINV)
  | .inf s =>
    if f.inf then (2 ^ (f.ebits + f.mbits) - 2 ^ f.mbits + signBit f s, 0)
    else (f.maxMag + signBit f s, fSAT)
  | .zero s => (signBit f s, 0)
  | .fin q =>
    let neg := decide (q < 0)
    let emin : Int := 1 - (f.bias : Int)
    let r := roundPrec f.mbits (some emin) rm q
    if r > f.mag f.maxMag then f.beyond rm neg
    else
      let inx := decide (r ≠ rabs q)
      let tiny := decide (roundPrec f.mbits none rm q < pow2 emin)
      ((if r = 0 then 0 else f.encodeMag r) + signBit f neg, flagIf inx fINX ||| flagIf (inx && tiny) fUNF)

/-- Two's complement pattern of an integer. -/
def ipat (w : Nat) (k : Int) : Nat := (k % (2 ^ w : Int)).toNat

/-- The signed reading of a pattern. -/
def ival (w : Nat) (x : Nat) : Int := if x < 2 ^ (w - 1) then x else (x : Int) - 2 ^ w

/-- Clamp with the flag that says it changed the value. -/
def clamp (k lo hi : Int) : Int × Bool := if k < lo then (lo, true) else if hi < k then (hi, true) else (k, false)

/-- Rounding of an exact value into a `w`-bit integer (R71). -/
def roundIntTo (w rm : Nat) (v : FVal) : Nat × Flags :=
  match v with
  | .nan => (0, fINV)
  | .inf s => (ipat w (if s then -(2 ^ (w - 1)) else 2 ^ (w - 1) - 1), fSAT)
  | .zero _ => (0, 0)
  | .fin q =>
    let k := roundInt rm q
    let (c, sat) := clamp k (-(2 ^ (w - 1))) (2 ^ (w - 1) - 1)
    (ipat w c, if sat then fSAT else flagIf (decide ((k : Rat) ≠ q)) fINX)

/-- Rounding into any scalar code (R67, R68, R71). -/
def roundTo (code rm : Nat) (v : FVal) : Nat × Flags :=
  if isInteger code then roundIntTo (ibits code) rm v else (ffmt code).round rm v

/-- The exact value of a scalar element, and whether its pattern is a format error (R73). -/
def decodeScalar (code x : Nat) : FVal × Bool :=
  if isInteger code then (FVal.ofRat ((ival (ibits code) x : Int) : Rat), false)
  else if (code = 5 ∨ code = 6) ∧ x ≥ 64 then (.nan, true)
  else ((ffmt code).decode x, false)

/-- The pattern of a NaN result in a scalar code and its flags (R71). -/
def nanOf (code : Nat) : Nat × Flags := roundTo code 0 .nan

/-- The largest and the most negative finite pattern of a destination (R80). -/
def extreme (code : Nat) (neg : Bool) : Nat :=
  if isInteger code then ipat (ibits code) (if neg then -(2 ^ (ibits code - 1)) else 2 ^ (ibits code - 1) - 1)
  else (ffmt code).maxMag + signBit (ffmt code) neg

/-! ### Exact arithmetic with specials -/

/-- Exact sum; the flag is an invalid operation. The sign of an exact zero follows R70. -/
def addNum (rm : Nat) (a b : FVal) : FVal × Bool :=
  match a, b with
  | .nan, _ => (.nan, false)
  | _, .nan => (.nan, false)
  | .inf s, .inf t => if s = t then (.inf s, false) else (.nan, true)
  | .inf s, _ => (.inf s, false)
  | _, .inf t => (.inf t, false)
  | .zero s, .zero t => (.zero (if s = t then s else decide (rm = 2)), false)
  | .zero _, .fin q => (.fin q, false)
  | .fin q, .zero _ => (.fin q, false)
  | .fin p, .fin q => (FVal.ofRat (p + q) (decide (rm = 2)), false)

/-- Exact product; the flag is 0 × Inf. -/
def mulNum (a b : FVal) : FVal × Bool :=
  match a, b with
  | .nan, _ => (.nan, false)
  | _, .nan => (.nan, false)
  | .inf _, .zero _ => (.nan, true)
  | .zero _, .inf _ => (.nan, true)
  | .inf s, b => (.inf (s != b.neg), false)
  | a, .inf t => (.inf (a.neg != t), false)
  | .zero s, b => (.zero (s != b.neg), false)
  | a, .zero t => (.zero (a.neg != t), false)
  | .fin p, .fin q => (.fin (p * q), false)

def negNum : FVal → FVal
  | .nan => .nan
  | .inf s => .inf !s
  | .zero s => .zero !s
  | .fin q => .fin (-q)

def absNum : FVal → FVal
  | .nan => .nan
  | .inf _ => .inf false
  | .zero _ => .zero false
  | .fin q => .fin (rabs q)

/-- `a < b` in the order −Inf < … < Inf with the zeros equal; false when either is NaN. -/
def ltNum (a b : FVal) : Bool :=
  match a, b with
  | .nan, _ => false
  | _, .nan => false
  | .inf s, .inf t => s && !t
  | .inf s, _ => s
  | _, .inf t => !t
  | a, b => decide (a.toRat < b.toRat)

def eqNum (a b : FVal) : Bool :=
  match a, b with
  | .nan, _ => false
  | _, .nan => false
  | .inf s, .inf t => s == t
  | .inf _, _ => false
  | _, .inf _ => false
  | a, b => decide (a.toRat = b.toRat)

/-- `a` below `b` with −0 below +0 (R284, R291). -/
def belowNum (a b : FVal) : Bool :=
  ltNum a b || (match a, b with
    | .zero s, .zero t => s && !t
    | _, _ => false)

/-- `b` orders above `a` when NaN orders above +Inf and the zeros are equal (R155, R247, R256). -/
def aboveNum (b a : FVal) : Bool :=
  match b, a with
  | .nan, .nan => false
  | .nan, _ => true
  | _, .nan => false
  | b, a => ltNum a b

/-- Sum rounded into a floating-point code, with flags. -/
def addRound (code rm : Nat) (a b : FVal) : Nat × Flags :=
  let (s, inv) := addNum rm a b
  let (x, f) := roundTo code rm s
  (x, f ||| flagIf inv fINV)

/-! ### Block scales -/

/-- An SB20 word (R75): `none` a format error. -/
def sb20 (w : Nat) : Option Rat :=
  let e := w / 4096 % 256
  if w ≥ 2 ^ 20 ∨ e = 255 then none
  else if e = 0 then some 0
  else some (((4096 + w % 4096 : Nat) : Rat) * pow2 ((e : Int) - 127 - 12))

/-- An E8M0 byte (R74): `none` is the NaN scale. -/
def e8m0 (b : Nat) : Option Rat := if b = 255 then none else some (pow2 ((b : Int) - 127))

/-- The scalar code of a block format's elements (R74); Q16 codes read as code 0x14. -/
def blockElem (code : Nat) : Nat :=
  match code with
  | 12 | 18 => 3
  | 13 => 4
  | 14 => 5
  | 15 => 6
  | 16 | 19 => 7
  | 17 => 8
  | c => c

/-- A block format whose scale is SB20. -/
def isSx (code : Nat) : Bool := decide (code = 18 ∨ code = 19)

/-- The level of a Q16 code (R76). -/
def q16Level (c : Nat) : Rat :=
  let pat := match c % 16 with
    | 0 => 0xBC00 | 1 => 0xB9A9 | 2 => 0xB856 | 3 => 0xB6AB | 4 => 0xB4F9 | 5 => 0xB2E9 | 6 => 0xB013 | 7 => 0xA963
    | 8 => 0x2963 | 9 => 0x3013 | 10 => 0x32E9 | 11 => 0x34F9 | 12 => 0x36AB | 13 => 0x3856 | 14 => 0x39A9 | _ => 0x3C00
  ((ffmt 1).decode pat).toRat

/-- The value of a block element before its scale: MXINT8 counts 2^−6 (R74). The flag is a format error. -/
def blockElemValue (code x : Nat) : FVal × Bool :=
  let (v, e) := decodeScalar (blockElem code) x
  if code = 17 then ((mulNum v (.fin (pow2 (-6)))).1, e) else (v, e)

/-- The exact value of a block element under its scale word, and whether INV applies (R73 to R76). `s` is the SB20 word,
the E8M0 byte or s8; `sup` the super-scale pattern of Q16. -/
def decodeBlock (code x s sup : Nat) : FVal × Bool :=
  if code = 20 then
    match (ffmt 0).decode sup with
    | .nan => (.nan, true)
    | .inf _ => (.nan, true)
    | v => (FVal.ofRat (q16Level x * ((s % 256 : Nat) : Rat) * v.toRat), false)
  else if isSx code then
    match sb20 s with
    | none => (.nan, true)
    | some q => if q = 0 then (.zero false, false) else
        let (v, e) := blockElemValue code x
        ((mulNum v (.fin q)).1, e)
  else
    match e8m0 (s % 256) with
    | none => (.nan, false)
    | some q =>
      let (v, e) := blockElemValue code x
      ((mulNum v (.fin q)).1, e)

/-- Rounding of a scaled element into a block's element format; MXINT8 rounds onto multiples of 2^−6 (R81, R336). -/
def roundElem (code rm : Nat) (v : FVal) : Nat × Flags :=
  if code = 17 then roundIntTo 8 rm (mulNum v (.fin 64)).1 else roundTo (blockElem code) rm v

/-- fmax and emax of an element format (R82). -/
def fmaxOf (elem : Nat) : Rat := (ffmt elem).mag (ffmt elem).maxMag
def emaxOf (code : Nat) : Int := if code = 17 then 0 else ilog2 (fmaxOf (blockElem code))

/-- SB20 word of `q` rounded upward, and whether it was clamped (R82). -/
def sb20Up (q : Rat) : Nat × Bool :=
  if q = 0 then (0, false)
  else if q < pow2 (-126) then (0x1000, false)
  else
    let e := ilog2 q
    let k := roundNat 3 false (q / pow2 (e - 12))
    let w := ((e + 127).toNat) * 4096 + (k - 4096)
    if q > pow2 127 * (mkRat 8191 4096) ∨ w > 0xFEFFF then (0xFEFFF, true) else (w, false)

/-- The block scale of an absolute maximum (R82): word and flags. -/
def blockScale (code : Nat) (bad : Bool) (a : Rat) : Nat × Flags :=
  if isSx code then
    if bad then (0xFEFFF, fINV) else
      let (w, c) := sb20Up (a / fmaxOf (blockElem code))
      (w, flagIf c fSAT)
  else if bad then (0xFF, fINV)
  else if a = 0 then (0, 0)
  else
    let e := ilog2 a - emaxOf code + 127
    if e < 0 then (0, 0) else if e > 254 then (254, fSAT) else (e.toNat, 0)

/-- The absolute maximum of a block: whether it holds a NaN or an infinity, and the maximum of the finite values. -/
def absMax : List FVal → Bool × Rat
  | [] => (false, 0)
  | v :: t =>
    let (b, m) := absMax t
    match v with
    | .nan => (true, m)
    | .inf _ => (true, m)
    | v => (b, max m (rabs v.toRat))

/-! ### A128 accumulators (R77 to R80) -/

/-- RoundOntoGrid(p, ANCH) / 2^ANCH: RNE to a multiple of the grid. -/
def onGrid (q : Rat) (anch : Int) : Int := roundInt 0 (q / pow2 anch)

/-- An accumulator step adds `q` grid steps to `x`, modulo 2^128; the flag is R78's overflow. -/
def accAdd (x : BitVec 128) (q : Int) : BitVec 128 × Bool :=
  let s := x.toInt + q
  (BitVec.ofInt 128 s, decide (q.natAbs ≥ 2 ^ 126 ∨ s.natAbs ≥ 2 ^ 126))

/-- Combine of special states: 0 finite, 1 +Inf, 2 −Inf, 3 NaN; the flag is +Inf with −Inf (R77). -/
def combine (st : BitVec 2) (neg : Bool) : BitVec 2 × Bool :=
  let n : BitVec 2 := if neg then 2 else 1
  if st = 3 then (3, false) else if st = 0 ∨ st = n then (n, false) else (3, true)

/-! ### Sums in an order -/

/-- One level of the pairwise tree of R197: neighbours are combined, an odd last value is carried. -/
def pairUp {α : Type} (f : α → α → α) : List α → List α
  | a :: b :: t => f a b :: pairUp f t
  | l => l

/-- The pairwise tree of R197 and R286; `fuel` bounds the number of levels. -/
def treeFold {α : Type} (f : α → α → α) : Nat → List α → List α
  | 0, l => l
  | n + 1, l => if l.length ≤ 1 then l else treeFold f n (pairUp f l)

/-- A value with the flags met on the way. -/
abbrev Val := FVal × Flags

/-- Rounded addition of values into a floating-point code, flags accumulated. -/
def addVal (code rm : Nat) (a b : Val) : Val :=
  let (x, f) := addRound code rm a.1 b.1
  ((decodeScalar code x).1, a.2 ||| b.2 ||| f)

end Sys2Proof.Machine
end

