-- ==== Sys2Proof/Syntax.lean ====
section
/-! DEFINITION. The instructions and steps of the Glefeong G3: one constructor per row of the opcode table.
Element rows (R115, R116): `a`, `b`, `c` are the operand sources SA, SB, SC, `d` is DIR, `p` is PG, the rest are the parts of MOD.
MN entries (R117 to R119) and XN entries (R121, R122) name the fields their opcode uses; control-core instructions (R123) likewise.
The last group are the device's own steps: they have no encoding. -/

namespace Sys2Proof

inductive Instr where
  /-- NOP (R324); element row. -/
  | nop
  /-- COPY (R270); element row. -/
  | copy (a : BitVec 5) (d : BitVec 4) (p : BitVec 2)
  /-- XPT (R376); element row. -/
  | xpt (a c : BitVec 5) (d : BitVec 4) (p : BitVec 2)
  /-- SEL (R347); element row. -/
  | sel (a b : BitVec 5) (d : BitVec 4) (v : BitVec 1)
  /-- BCST (R260); element row. -/
  | bcst (a c : BitVec 5) (d : BitVec 4) (p m : BitVec 2)
  /-- SHUF (R351); element row. -/
  | shuf (a b : BitVec 5) (d : BitVec 4) (p : BitVec 2)
  /-- ZIP (R362); element row. -/
  | zip (a b : BitVec 5) (d : BitVec 4) (p : BitVec 2) (h : BitVec 1)
  /-- UNZ (R362); element row. -/
  | unz (a b : BitVec 5) (d : BitVec 4) (p : BitVec 2) (h : BitVec 1)
  /-- PMOV (R333); element row. -/
  | pmov (a : BitVec 5)
  /-- PGET (R331); element row. -/
  | pget (d : BitVec 4) (p : BitVec 2)
  /-- PAND (R329); element row. -/
  | pand (a : BitVec 5) (v : BitVec 1)
  /-- POR (R329); element row. -/
  | por (a : BitVec 5) (v : BitVec 1)
  /-- PXOR (R329); element row. -/
  | pxor (a : BitVec 5) (v : BitVec 1)
  /-- FADD (R283); element row. -/
  | fadd (a b : BitVec 5) (d : BitVec 4) (p : BitVec 2) (m : BitVec 4)
  /-- FSUB (R283); element row. -/
  | fsub (a b : BitVec 5) (d : BitVec 4) (p : BitVec 2) (m : BitVec 4)
  /-- FMUL (R283); element row. -/
  | fmul (a b : BitVec 5) (d : BitVec 4) (p : BitVec 2) (m : BitVec 4)
  /-- FMA (R283); element row. -/
  | fma (a b c : BitVec 5) (d : BitVec 4) (p : BitVec 2) (m : BitVec 4)
  /-- FMAX (R291); element row. -/
  | fmax (a b : BitVec 5) (d : BitVec 4) (p : BitVec 2)
  /-- FMIN (R291); element row. -/
  | fmin (a b : BitVec 5) (d : BitVec 4) (p : BitVec 2)
  /-- FABS (R282); element row. -/
  | fabs (a : BitVec 5) (d : BitVec 4) (p : BitVec 2)
  /-- FNEG (R282); element row. -/
  | fneg (a : BitVec 5) (d : BitVec 4) (p : BitVec 2)
  /-- FCMP (R285); element row. -/
  | fcmp (a b : BitVec 5) (d : BitVec 4) (p : BitVec 2) (m : BitVec 4)
  /-- FCLIP (R284); element row. -/
  | fclip (a b c : BitVec 5) (d : BitVec 4) (p : BitVec 2)
  /-- FSCL (R293); element row. -/
  | fscl (a b : BitVec 5) (d : BitVec 4) (p : BitVec 2) (m : BitVec 4)
  /-- FRCP (R290); element row. -/
  | frcp (a : BitVec 5) (d : BitVec 4) (p : BitVec 2) (m : BitVec 4)
  /-- FRSQ (R290); element row. -/
  | frsq (a : BitVec 5) (d : BitVec 4) (p : BitVec 2) (m : BitVec 4)
  /-- FEXP2 (R290); element row. -/
  | fexp2 (a : BitVec 5) (d : BitVec 4) (p : BitVec 2) (m : BitVec 4)
  /-- FLOG2 (R290); element row. -/
  | flog2 (a : BitVec 5) (d : BitVec 4) (p : BitVec 2) (m : BitVec 4)
  /-- FTANH (R290); element row. -/
  | ftanh (a : BitVec 5) (d : BitVec 4) (p : BitVec 2) (m : BitVec 4)
  /-- FSIG (R290); element row. -/
  | fsig (a : BitVec 5) (d : BitVec 4) (p : BitVec 2) (m : BitVec 4)
  /-- FTAB (R294); element row. -/
  | ftab (a : BitVec 5) (d : BitVec 4) (p : BitVec 2) (v : BitVec 1) (s : BitVec 2)
  /-- FSUM_O (R286); element row. -/
  | fsumO (a : BitVec 5) (d m : BitVec 4)
  /-- FSUM_U (R286); element row. -/
  | fsumU (a : BitVec 5) (d m : BitVec 4)
  /-- FMAXR (R292); element row. -/
  | fmaxr (a : BitVec 5) (d : BitVec 4)
  /-- FDOT_O (R286); element row. -/
  | fdotO (a b : BitVec 5) (d m : BitVec 4)
  /-- FDOT_U (R286); element row. -/
  | fdotU (a b : BitVec 5) (d m : BitVec 4)
  /-- IADD (R299); element row. -/
  | iadd (a b : BitVec 5) (d : BitVec 4) (p : BitVec 2) (m : BitVec 4)
  /-- ISUB (R299); element row. -/
  | isub (a b : BitVec 5) (d : BitVec 4) (p : BitVec 2) (m : BitVec 4)
  /-- IMUL (R301); element row. -/
  | imul (a b : BitVec 5) (d : BitVec 4) (p : BitVec 2) (m : BitVec 4)
  /-- IMAD (R301); element row. -/
  | imad (a b c : BitVec 5) (d : BitVec 4) (p : BitVec 2) (m : BitVec 4)
  /-- IMIN (R302); element row. -/
  | imin (a b : BitVec 5) (d : BitVec 4) (p : BitVec 2) (u : BitVec 1)
  /-- IMAX (R302); element row. -/
  | imax (a b : BitVec 5) (d : BitVec 4) (p : BitVec 2) (u : BitVec 1)
  /-- VAND (R363); element row. -/
  | vand (a b : BitVec 5) (d : BitVec 4) (p : BitVec 2)
  /-- VOR (R363); element row. -/
  | vor (a b : BitVec 5) (d : BitVec 4) (p : BitVec 2)
  /-- VXOR (R363); element row. -/
  | vxor (a b : BitVec 5) (d : BitVec 4) (p : BitVec 2)
  /-- VANDN (R363); element row. -/
  | vandn (a b : BitVec 5) (d : BitVec 4) (p : BitVec 2)
  /-- VSHL (R364); element row. -/
  | vshl (a b c : BitVec 5) (d : BitVec 4) (p : BitVec 2) (m : BitVec 1)
  /-- VSHR (R364); element row. -/
  | vshr (a b c : BitVec 5) (d : BitVec 4) (p : BitVec 2) (m : BitVec 1)
  /-- VSAR (R364); element row. -/
  | vsar (a b c : BitVec 5) (d : BitVec 4) (p : BitVec 2) (m : BitVec 1)
  /-- ICMP (R300); element row. -/
  | icmp (a b : BitVec 5) (d : BitVec 4) (p : BitVec 2) (m : BitVec 4)
  /-- POPC (R334); element row. -/
  | popc (a : BitVec 5) (d : BitVec 4) (p : BitVec 2)
  /-- CLZ (R266); element row. -/
  | clz (a : BitVec 5) (d : BitVec 4) (p : BitVec 2)
  /-- ISUM (R304); element row. -/
  | isum (a : BitVec 5) (d m : BitVec 4)
  /-- IABS (R298); element row. -/
  | iabs (a : BitVec 5) (d : BitVec 4) (p : BitVec 2) (m : BitVec 1)
  /-- ISAT (R303); element row. -/
  | isat (a c : BitVec 5) (d : BitVec 4) (p : BitVec 2) (u : BitVec 1)
  /-- CVT (R272); element row. -/
  | cvt (a c : BitVec 5) (d : BitVec 4) (p : BitVec 2) (m : BitVec 4)
  /-- REQ (R341); element row. -/
  | req (a b : BitVec 5) (d m : BitVec 4)
  /-- BSCL (R262); element row. -/
  | bscl (a b : BitVec 5) (d m : BitVec 4)
  /-- PACK (R328); element row. -/
  | pack (a b : BitVec 5) (d : BitVec 4)
  /-- UNPK (R361); element row. -/
  | unpk (a : BitVec 5) (d : BitVec 4) (m : BitVec 1)
  /-- QDEC (R335); element row. -/
  | qdec (a c : BitVec 5) (d : BitVec 4) (p : BitVec 2)
  /-- QENC (R336); element row. -/
  | qenc (a b c : BitVec 5) (d m : BitVec 4)
  /-- ITER (R305); element row. -/
  | iter (d : BitVec 4) (p m : BitVec 2)
  /-- DONE (R276); element row. -/
  | done
  /-- MNOP (R315); MN entry. -/
  | mnop
  /-- LDS (R310); MN entry. -/
  | lds (lane : BitVec 5) (pred ag : BitVec 2) (chk : BitVec 1) (shelf : BitVec 8)
  /-- STS (R356); MN entry. -/
  | sts (lane : BitVec 5) (pred ag : BitVec 2) (shelf : BitVec 8)
  /-- LDX (R311); MN entry. -/
  | ldx (lane : BitVec 5) (pred : BitVec 2) (mode : BitVec 3) (ag : BitVec 2) (chk : BitVec 1) (shelf : BitVec 8) (imm : BitVec 32)
  /-- STX (R357); MN entry. -/
  | stx (lane : BitVec 5) (pred : BitVec 2) (mode : BitVec 3) (ag : BitVec 2) (shelf : BitVec 8) (imm : BitVec 32)
  /-- AMO_O (R256); MN entry. -/
  | amoO (lane : BitVec 5) (pred : BitVec 2) (mode : BitVec 3) (ag : BitVec 2) (shelf : BitVec 8) (imm : BitVec 32)
  /-- AMO_U (R256); MN entry. -/
  | amoU (lane : BitVec 5) (pred : BitVec 2) (mode : BitVec 3) (ag : BitVec 2) (shelf : BitVec 8) (imm : BitVec 32)
  /-- DRD (R278); MN entry. -/
  | drd (lane : BitVec 5) (pred : BitVec 2) (dix : BitVec 4) (imm : BitVec 32)
  /-- SHPUB (R350); MN entry. -/
  | shpub (shelf : BitVec 8)
  /-- SHREL (R350); MN entry. -/
  | shrel (shelf : BitVec 8)
  /-- MFENCE (R314); MN entry. -/
  | mfence (dix : BitVec 4) (imm : BitVec 32)
  /-- XNOP (R315); XN entry. -/
  | xnop
  /-- XMM (R374); XN entry. -/
  | xmm (acc : BitVec 2) (ver ash bsh kst anch : BitVec 8)
  /-- XCLR (R368); XN entry. -/
  | xclr (acc : BitVec 2) (ver anch : BitVec 8)
  /-- XWB (R379); XN entry. -/
  | xwb (acc : BitVec 2) (ver ash bsh kst : BitVec 8) (sfmt clip scale dside : BitVec 1)
  /-- XDND (R372); XN entry. -/
  | xdnd (ver ash bsh kst anch : BitVec 8) (map : BitVec 3) (lb : BitVec 2)
  /-- XDFIN (R371); XN entry. -/
  | xdfin (ver ash anch : BitVec 8) (map : BitVec 3) (lb : BitVec 2) (tap : BitVec 1)
  /-- XDBX (R370); XN entry. -/
  | xdbx (ver ash bsh kst anch : BitVec 8) (map : BitVec 3) (lb : BitVec 2)
  /-- XDBW (R370); XN entry. -/
  | xdbw (ver ash bsh kst anch : BitVec 8) (map : BitVec 3) (lb : BitVec 2)
  /-- XTRQ (R377); XN entry. -/
  | xtrq (ash bsh : BitVec 8)
  /-- XSTA (R373); XN entry. -/
  | xsta (acc : BitVec 2) (ver ash bsh : BitVec 8) (dside : BitVec 1)
  /-- XLDA (R373); XN entry. -/
  | xlda (acc : BitVec 2) (ver ash bsh : BitVec 8) (dside : BitVec 1)
  /-- CNOP (R268); control core. -/
  | cnop (g : BitVec 4)
  /-- ADD (R254); control core. -/
  | add (d s t : BitVec 6) (g : BitVec 4)
  /-- ADDI (R254); control core. -/
  | addi (d s : BitVec 6) (i : BitVec 10)
  /-- SUB (R358); control core. -/
  | sub (d s t : BitVec 6) (g : BitVec 4)
  /-- MUL (R319); control core. -/
  | mul (d s t : BitVec 6) (g : BitVec 4)
  /-- MULH (R319); control core. -/
  | mulh (d s t : BitVec 6) (g : BitVec 4)
  /-- DIVU (R275); control core. -/
  | divu (d s t : BitVec 6) (g : BitVec 4)
  /-- DIVS (R275); control core. -/
  | divs (d s t : BitVec 6) (g : BitVec 4)
  /-- AND (R258); control core. -/
  | and (d s t : BitVec 6) (g : BitVec 4)
  /-- ANDI (R258); control core. -/
  | andi (d s : BitVec 6) (i : BitVec 10)
  /-- OR (R326); control core. -/
  | or (d s t : BitVec 6) (g : BitVec 4)
  /-- ORI (R326); control core. -/
  | ori (d s : BitVec 6) (i : BitVec 10)
  /-- XOR (R375); control core. -/
  | xor (d s t : BitVec 6) (g : BitVec 4)
  /-- XORI (R375); control core. -/
  | xori (d s : BitVec 6) (i : BitVec 10)
  /-- SHL (R344); control core. -/
  | shl (d s t : BitVec 6) (g : BitVec 4)
  /-- SHLI (R344); control core. -/
  | shli (d s : BitVec 6) (i : BitVec 10)
  /-- SHR (R344); control core. -/
  | shr (d s t : BitVec 6) (g : BitVec 4)
  /-- SHRI (R344); control core. -/
  | shri (d s : BitVec 6) (i : BitVec 10)
  /-- SAR (R344); control core. -/
  | sar (d s t : BitVec 6) (g : BitVec 4)
  /-- SARI (R344); control core. -/
  | sari (d s : BitVec 6) (i : BitVec 10)
  /-- MIN (R313); control core. -/
  | min (d s t : BitVec 6) (g : BitVec 4)
  /-- MAX (R313); control core. -/
  | max (d s t : BitVec 6) (g : BitVec 4)
  /-- CSEL (R271); control core. -/
  | csel (d s t : BitVec 6) (g : BitVec 4)
  /-- MOV (R316); control core. -/
  | mov (w : BitVec 2) (d s : BitVec 6) (g : BitVec 4)
  /-- MOVI (R318); control core. -/
  | movi (d : BitVec 6) (i : BitVec 10)
  /-- MOVL (R317); control core. -/
  | movl (d : BitVec 6) (g : BitVec 4) (imm : BitVec 32)
  /-- MOVH (R317); control core. -/
  | movh (d : BitVec 6) (g : BitVec 4) (imm : BitVec 32)
  /-- CMP (R267); control core. -/
  | cmp (pd cond : BitVec 3) (s t : BitVec 6) (g : BitVec 4)
  /-- CMPI (R267); control core. -/
  | cmpi (pd cond : BitVec 3) (s : BitVec 6) (i : BitVec 10)
  /-- PLOG (R332); control core. -/
  | plog (pd cond pa pb : BitVec 3) (g : BitVec 4)
  /-- BR (R261); control core. -/
  | br (g : BitVec 4) (off : BitVec 20)
  /-- CALL (R263); control core. -/
  | call (g : BitVec 4) (off : BitVec 20)
  /-- RET (R342); control core. -/
  | ret (g : BitVec 4)
  /-- JMPR (R306); control core. -/
  | jmpr (s : BitVec 6) (g : BitVec 4)
  /-- LOOP (R312); control core. -/
  | loop (c : BitVec 6) (off : BitVec 18)
  /-- LD (R308); control core. -/
  | ld (w : BitVec 2) (d base : BitVec 6) (sz : BitVec 2) (off g : BitVec 4)
  /-- ST (R355); control core. -/
  | st (w : BitVec 2) (d base : BitVec 6) (sz : BitVec 2) (off g : BitVec 4)
  /-- AMADD (R255); control core. -/
  | amadd (z : BitVec 2) (d s t : BitVec 6) (g : BitVec 4)
  /-- AMAND (R255); control core. -/
  | amand (z : BitVec 2) (d s t : BitVec 6) (g : BitVec 4)
  /-- AMOR (R255); control core. -/
  | amor (z : BitVec 2) (d s t : BitVec 6) (g : BitVec 4)
  /-- AMMIN (R255); control core. -/
  | ammin (z : BitVec 2) (d s t : BitVec 6) (g : BitVec 4)
  /-- AMMAX (R255); control core. -/
  | ammax (z : BitVec 2) (d s t : BitVec 6) (g : BitVec 4)
  /-- AMXCH (R255); control core. -/
  | amxch (z : BitVec 2) (d s t : BitVec 6) (g : BitVec 4)
  /-- AMCAS (R255); control core. -/
  | amcas (z : BitVec 2) (d s t : BitVec 6) (g : BitVec 4)
  /-- FENCE (R208); control core. -/
  | fence (pset sset : BitVec 8) (scope : BitVec 3)
  /-- WAITV (R366); control core. -/
  | waitv (z : BitVec 2) (d s t : BitVec 6) (g : BitVec 4)
  /-- SBIND (R345); control core. -/
  | sbind (d s t : BitVec 6) (g : BitVec 4)
  /-- SSTG (R354); control core. -/
  | sstg (d s t : BitVec 6) (g : BitVec 4)
  /-- SEVC (R349); control core. -/
  | sevc (d s t : BitVec 6) (g : BitVec 4)
  /-- SCPY (R346); control core. -/
  | scpy (d s t : BitVec 6) (g : BitVec 4)
  /-- SWAIT (R352); control core. -/
  | swait (d s : BitVec 6) (g : BitVec 4)
  /-- SSTAT (R352); control core. -/
  | sstat (d s : BitVec 6) (g : BitVec 4)
  /-- CFGL (R264); control core. -/
  | cfgl (d s : BitVec 6) (g : BitVec 4)
  /-- CFGP (R265); control core. -/
  | cfgp (d s : BitVec 6) (g : BitVec 4)
  /-- GO (R295); control core. -/
  | go (s : BitVec 6) (g : BitVec 4)
  /-- DRAIN (R277); control core. -/
  | drain (d : BitVec 6) (g : BitVec 4)
  /-- PBAR (R330); control core. -/
  | pbar (g : BitVec 4)
  /-- XCMD (R369); control core. -/
  | xcmd (d s : BitVec 6) (g : BitVec 4)
  /-- XWAIT (R378); control core. -/
  | xwait (s : BitVec 6) (g : BitVec 4)
  /-- COLL (R247); control core. -/
  | coll (d s t : BitVec 6) (g : BitVec 4)
  /-- DDECL (R273); control core. -/
  | ddecl (d s : BitVec 6) (g : BitVec 4)
  /-- DDROP (R274); control core. -/
  | ddrop (d s : BitVec 6) (g : BitVec 4)
  /-- DWAIT (R279); control core. -/
  | dwait (s : BitVec 6) (g : BitVec 4)
  /-- ROPEN (R343); control core. -/
  | ropen (d s t : BitVec 6) (g : BitVec 4)
  /-- RCLOSE (R338); control core. -/
  | rclose (s : BitVec 6) (g : BitVec 4)
  /-- NBOP (R321); control core. -/
  | nbop (d s : BitVec 6) (g : BitVec 4)
  /-- NBRED (R322); control core. -/
  | nbred (d s : BitVec 6) (g : BitVec 4)
  /-- OPTM (R325); control core. -/
  | optm (d s : BitVec 6) (g : BitVec 4)
  /-- NBSTAT (R323); control core. -/
  | nbstat (d s : BitVec 6) (g : BitVec 4)
  /-- TLOAD (R359); control core. -/
  | tload (d s : BitVec 6) (g : BitVec 4)
  /-- RDIG (R339); control core. -/
  | rdig (d s t : BitVec 6) (g : BitVec 4)
  /-- QFEAT (R337); control core. -/
  | qfeat (d : BitVec 6) (i : BitVec 10)
  /-- RDSYS (R340); control core. -/
  | rdsys (d : BitVec 6) (i : BitVec 10)
  /-- WRSYS (R340); control core. -/
  | wrsys (s : BitVec 6) (i : BitVec 10)
  /-- TRAP (R360); control core. -/
  | trap (i : BitVec 10)
  /-- ERET (R280); control core. -/
  | eret (g : BitVec 4)
  /-- HALT (R296); control core. -/
  | halt (g : BitVec 4)
  /-- WAITE (R365); control core. -/
  | waite (d s : BitVec 6) (g : BitVec 4)
  /-- SENDT (R348); control core. -/
  | sendt (d s t : BitVec 6) (g : BitVec 4)
  /-- KEYLD (R307); control core. -/
  | keyld (d s t : BitVec 6) (g : BitVec 4)
  /-- ATTQ (R259); control core. -/
  | attq (d s t : BitVec 6) (g : BitVec 4)
  /-- ALARMP_WRITE (R235); device step: a write of `v` to ALARMP. -/
  | alarmpWrite (v : Word)
  /-- ALARMS_CLEAR (R235); device step: a write of `v` to ALARMS. -/
  | alarmsClear (v : Word)
  /-- AGE_LIMIT_WRITE (R340); device step: a write of `v` to AGE_LIMIT. -/
  | ageLimitWrite (v : Word)
  /-- HTAB_WRITE (R340); device step: a write of `v` to HTAB of a die's core. -/
  | htabWrite (die : Nat) (v : Word)
  /-- START_UP (R20); device step: start-up, with what it comes to. -/
  | startUp (u : BootInput)
  /-- HOST_ACCESS (R12); device step: a host access of `n` bytes at an HDM offset. -/
  | hostAccess (wr : Bool) (off : Nat) (n : Nat) (data : List Byte)
  /-- LAUNCH_RECORD_ACCEPTANCE (R14); device step: queue `q` polls its slot. -/
  | launchRecordAcceptance (q : Nat)
  /-- LAUNCH_RECORD_CHECK (R16); device step: the check of launch `l`. -/
  | launchRecordCheck (l : Nat)
  /-- SCHEDULER_PASS (R42); device step: one pass of the launch scheduler. -/
  | schedulerPass
  /-- PRIORITY_AGING (R43); device step: the ageing of launch `l`. -/
  | priorityAging (l : Nat)
  /-- GANG_DIE_REQUEST (R47); device step: another package asks for a rectangle of this package's dies. -/
  | gangDieRequest (pkg : Nat) (prio : Nat) (x : Nat) (y : Nat) (wd : Nat) (ht : Nat)
  /-- LAUNCH_START (R31); device step: routing, loading and start of launch `l`. -/
  | launchStart (l : Nat)
  /-- LAUNCH_SAVE (R45); device step: the save of victim `l`. -/
  | launchSave (l : Nat)
  /-- LAUNCH_END (R296); device step: the end of launch `l` once every core has halted. -/
  | launchEnd (l : Nat)
  /-- POWER_THROTTLE (R21); device step: the 1 µs power average crossed its limit. -/
  | powerThrottle (above_ : Bool)
  /-- THERMAL_THROTTLE (R22); device step: a die reached 95 °C, or all have cooled. -/
  | thermalThrottle (hot : Bool)
  /-- THERMAL_SHUTDOWN (R22); device step: a die reached 110 °C. -/
  | thermalShutdown
  /-- LINK_LOSS (R19); device step: mesh link `k` loses lock. -/
  | linkLoss (k : Nat)
  /-- LINK_RETRAIN (R19); device step: mesh link `k` retrains with a measured delay. -/
  | linkRetrain (k : Nat) (delay : Nat)
  /-- SECURITY_ALARM (R244); device step: alarm source `src`. -/
  | securityAlarm (src : Nat)
  /-- PER_BANK_REFRESH (R191); device step: a per-bank refresh. -/
  | perBankRefresh (st : Nat) (pch : Nat) (bank : Nat)
  /-- REFRESH_HEARTBEAT (R193); device step: the management core's heartbeat. -/
  | refreshHeartbeat (st : Nat)
  /-- REFRESH_TAKEOVER (R193); device step: the hardware sequencer takes over. -/
  | refreshTakeover (st : Nat)
  /-- REFRESH_HANDBACK (R193); device step: refresh is handed back. -/
  | refreshHandback (st : Nat)
  /-- REMOTE_READ_REQUEST (R199); device step: a remote read of `n` bytes. -/
  | remoteReadRequest (st : Nat) (pkg : Nat) (off : Nat) (n : Nat)
  /-- ACT_WINDOW_EXPIRY (R199); device step: the end of a 1 ms window. -/
  | actWindowExpiry (st : Nat)
  /-- ACT_WRITE (R199); device step: firmware writes an ACT entry. -/
  | actWrite (st : Nat) (idx : Nat) (w0 : Word) (w1 : Word)
  /-- TILE_TASK_BEGIN (R27); device step: a region begins its enabled tile task. -/
  | tileTaskBegin (die : Nat) (rg : Nat)
  /-- CONTROLLER_CHILD_START (R34); device step: a cell starts a child. -/
  | controllerChildStart (die : Nat) (cell : Nat) (child : Nat)
  /-- REGION_UNFREEZE (R38); device step: a region's freeze ends. -/
  | regionUnfreeze (die : Nat) (rg : Nat)
  /-- REGION_WDOG (R39); device step: a freeze of 2^26 cycles faults. -/
  | regionWdog (die : Nat) (rg : Nat)
  /-- RECONFIG_STEP (R40); device step: the token advances a step. -/
  | reconfigStep (die : Nat)
  /-- RECONFIG_SWAP (R40); device step: step 6 of the token. -/
  | reconfigSwap (die : Nat)
  /-- PREFETCH_COMPLETE (R41); device step: the prefetcher finishes. -/
  | prefetchComplete (die : Nat)
  /-- CIRCUIT_TRANSFER_START (R32); device step: circuit `c` of launch `l` claims both buffers. -/
  | circuitTransferStart (l : Nat) (c : Nat)
  /-- CIRCUIT_PUBLISH (R32); device step: circuit `c` of launch `l` publishes. -/
  | circuitPublish (l : Nat) (c : Nat)
  /-- STREAM_COMMAND_START (R108); device step: an engine starts its `k`-th outstanding command. -/
  | streamCommandStart (die : Nat) (eng : Nat) (k : Nat)
  /-- STREAM_COMPLETION (R110); device step: an engine finishes its `k`-th outstanding command. -/
  | streamCompletion (die : Nat) (eng : Nat) (k : Nat)
  /-- XN_COMMAND_START (R175); device step: an XN's head command starts. -/
  | xnCommandStart (die : Nat) (ring : Nat) (slot : Nat)
  /-- XN_COMPLETION (R173); device step: an XN's `k`-th operation in flight completes. -/
  | xnCompletion (die : Nat) (ring : Nat) (slot : Nat) (k : Nat)
  /-- NODE_STORE_ARRIVAL (R152); device step: the `k`-th store in flight from a die's core arrives. -/
  | nodeStoreArrival (die : Nat) (k : Nat)
  /-- CABINET_OPERATION (R196); device step: a cabinet performs one granule. -/
  | cabinetOperation (st : Nat) (pch : Nat)
  /-- REDUCTION_OPERATION (R197); device step: the reduction engine performs one granule, or releases its flag. -/
  | reductionOperation (st : Nat)
  /-- OPTIMISER_UPDATE (R198); device step: the optimiser unit performs one granule, or releases its flag. -/
  | optimiserUpdate (st : Nat)
  /-- TOKEN_ARRIVAL (R237); device step: the oldest token on its way to a die arrives. -/
  | tokenArrival (die : Nat)
  /-- FAULT_STOP (R229); device step: the rings of a faulting region that are due stop. -/
  | faultStop (die : Nat) (rg : Nat)
  /-- REGION_FAULT_FREEZE (R230); device step: the other regions of a faulting launch stop. -/
  | regionFaultFreeze (l : Nat)
  /-- FAULT_RECORD_WRITE (R231); device step: firmware writes the fault records and ends the launch. -/
  | faultRecordWrite (l : Nat)
  /-- COLLECTIVE_COMPLETION (R247); device step: the collective of launch `l` finishes. -/
  | collectiveCompletion (l : Nat)
  /-- DERIVED_BUILD_DONE (R151); device step: a derived region's build finishes. -/
  | derivedBuildDone (die : Nat) (node : Nat) (dix : Nat)
  /-- GANG_GRANT (R47); device step: another package's answer for launch `l`. -/
  | gangGrant (l : Nat) (pkg : Nat) (ok : Bool)
  /-- ECC_ERROR (R246); device step: a bit error arises in the granule of a location. -/
  | eccError (loc : Nat) (fixed : Bool)
  deriving DecidableEq, Repr

end Sys2Proof
end

