-- ==== Sys2Proof/Machine/State.lean ====
section
/-! DEFINITION. The state of one Glefeong G3 package as plain data, and its value at reset. INVENTORY.md lists every
piece with the rule that names it. Tables (`Tab`) list only the entries that differ from the default. -/

namespace Sys2Proof.Machine

/-- Whose turn it is inside a cycle (the model's own, log 4). -/
inductive Turn where
  /-- the control core of a die issues one instruction -/
  | core (die : Nat)
  /-- an element or node executes the row that MC (or XS) selects -/
  | unit (die ring slot : Nat)
  /-- the freeze lines of a die are formed and the turns of its regions' units are listed (R38) -/
  | issue (die : Nat)
  /-- a device step of the opcode table -/
  | event (i : Instr)
  /-- store `k` in flight from a core, to no node, is performed (R205) -/
  | perform (die k : Nat)
  /-- a core performs a load before the accesses that stand ahead of it in its program (R205) -/
  | early (die : Nat)
  /-- a core puts off a load or an atomic, or performs the one it has put off (R205) -/
  | late (die : Nat)
  /-- store `k` performed for some parties alone is performed for more of them (R207) -/
  | spread (k : Nat)
  deriving DecidableEq, Repr

/-! ### Compute elements, nodes, matrix nodes -/

/-- CE state of R49 outside the configuration. -/
structure Ce where
  k : Tab Vec := []
  l : Vec := 0
  p : BitVec 64 := BitVec.allOnes 64
  flags : BitVec 6 := 0
  deriving DecidableEq, Repr

/-- MN state of R88 outside the configuration; `recent` holds (RC from which the node's own store is visible to its reads,
offset, old byte) for R309,
`chk` the consumer count + 1 at which each TAGCHK entry last checked (R95). -/
structure Mn where
  agpos : Tab Nat := []
  latch : Vec := 0
  recent : List (Nat × Nat × Byte) := []
  chk : Tab Nat := []
  deriving DecidableEq, Repr

/-- One A128 cell (R77): `st` 0 finite, 1 +Inf, 2 −Inf, 3 NaN. -/
structure Cell where
  x : BitVec 128 := 0
  st : BitVec 2 := 0
  deriving DecidableEq, Repr

/-- The cycles of port 1 of one MN that an XN operation uses, counted from its firing (R173). Where the operation moves
one run of 64 B beats, `base` is the node offset of the first. -/
structure XPort where
  east : Bool
  first : Nat
  last : Nat
  write : Bool
  base : Option Nat
  deriving DecidableEq, Repr

/-- An XN operation in flight (R173). `left` counts to the version advance, `busy` to the release of unit and ports; its
unit (0 none, 1 array, 2 output) and ports stand from its firing on. The bases are node offsets of the buffers it reads on
the west and the east side and of the one it writes. -/
structure XFlight where
  entry : Word
  slotj : Nat
  expect : Byte
  rc : Nat
  total : Nat
  left : Nat
  busy : Nat
  cmd : Option Word
  baseA : Nat
  baseB : Nat
  baseD : Nat
  gc : Nat
  applied : Bool
  /-- the parameter words of an XWB, read at firing (R122) -/
  par : List (BitVec 32)
  unit : Nat
  ports : List XPort
  /-- what it has read so far on the west and the east side; of an XSTA from its completion on, the image (R373) -/
  dataA : List Byte
  dataB : List Byte
  /-- the bytes it writes beat by beat, once they are formed (R173) -/
  out : List Byte := []
  /-- the number of its command, 0 for an entry -/
  cn : Nat := 0
  deriving DecidableEq, Repr

/-- XN state of R168 outside the configuration. Accumulator cells have key `1024 * acc + 32 * m + n`. -/
structure Xn where
  ev : Tab Byte := []
  acc : Tab Cell := []
  anch : Tab Byte := []
  v : Tab Byte := []
  ovf : BitVec 4 := 0
  gc : BitVec 12 := 0
  flags : BitVec 6 := 0
  cursW : BitVec 16 := 0
  cursE : BitVec 16 := 0
  latch : Vec := 0
  cmds : List (Word × Word) := []
  /-- commands accepted so far, by which fences know the earlier ones (R208) -/
  ncmd : Nat := 0
  flight : List XFlight := []
  /-- null completions (accumulator, version) that wait for the counter to reach them (R174) -/
  nulls : List (Nat × Byte) := []
  deriving DecidableEq, Repr

/-! ### Regions and the control fabric -/

/-- A result on its way to visibility (R55, R58). -/
inductive Eff where
  /-- L of a CE merged under `mask`, then the drive named by DIR; `fpx` the flags that trap -/
  | result (val mask : Vec) (dir : Nat) (fpx : BitVec 6)
  /-- a rotating-file entry merged under `mask`, then the drive -/
  | rot (entry : Nat) (val mask : Vec) (dir : Nat)
  /-- P of a CE -/
  | pred (p : BitVec 64)
  /-- the read-data latch of an MN merged under `mask`, then the lane of LANE 1 to 12 -/
  | latch (val mask : Vec) (lane : Nat)
  /-- SHPUB with its tag -/
  | pub (shelf : Nat) (tag : BitVec 16)
  /-- SHREL -/
  | rel (shelf : Nat)
  deriving DecidableEq, Repr

structure Pend where
  left : Nat
  ring : Nat
  slot : Nat
  row : Nat
  stage : Nat
  eff : Eff
  deriving DecidableEq, Repr

/-- An asserted freeze line (R37 to R39): since which cycle, in which cycle its cause cleared, whose cause, and whether
throttling alone asserts it. -/
structure Frz where
  since : Nat
  clear : Option Nat
  ring : Nat
  slot : Nat
  thr : Bool
  deriving DecidableEq, Repr

/-- A fault stop in progress or complete (R229 to R231). -/
structure FStop where
  wall : Nat
  f : Nat
  src : Nat
  code : Nat
  ring : Nat
  slot : Nat
  row : Nat
  stage : Nat
  faddr : Word
  detail : Word
  stops : Tab Nat
  sup : List (Nat × Nat × Nat)
  step : Nat
  deriving DecidableEq, Repr

/-- The running state of a region (R25 to R27). `rc` counts unfrozen cycles without bound; RC is `rc mod 2^32`. -/
structure Region where
  run : Bool := false
  hold : Bool := false
  goAt : Option Nat := none
  rc : Nat := 0
  trip : Nat := 0
  tasks : List (Nat × Nat) := []
  enables : Nat := 0
  done : Bool := false
  frz : Option Frz := none
  fstop : Option FStop := none
  halted : Bool := false
  /-- throttling freezes the region in this global frame (R21, R22) -/
  thr : Bool := false
  pipe : List Pend := []
  deriving DecidableEq, Repr

/-- The running state of a controller cell (R34). -/
structure CellRun where
  active : Bool := false
  done : Bool := false
  iter : Nat := 0
  n : Nat := 0
  started : Tab Nat := []
  completed : Tab Nat := []
  deriving DecidableEq, Repr

/-- The buffer states of one shelf (R88, R94): FULL bits, tags, producer and consumer counts. -/
structure ShelfSt where
  full : BitVec 8 := 0
  tags : Tab (BitVec 16) := []
  pc : Nat := 0
  cc : Nat := 0
  deriving DecidableEq, Repr

/-- One set of every double-banked item of a die (R40). Unit keys are `48 * ring + slot`. -/
structure Bank where
  load : Nat := 0
  /-- the outgoing tables of the last swap, which no load has replaced yet -/
  stale : Bool := false
  rdesc : Tab (Option Word) := []
  cells : Tab (Word × Word) := []
  luts : Tab Word := []
  views : Tab (List Word) := []
  ce : Tab CeCfg := []
  mn : Tab MnCfg := []
  xn : Tab XnCfg := []
  ftabs : Tab (Option (BitVec 8320)) := []
  maps : Tab (Option (BitVec 8320)) := []
  curves : Tab (Option (BitVec 8320)) := []
  bufs : Tab ShelfSt := []
  declared : List DeclRange := []
  /-- bindings, declarations and shelf contents of the load, to be used when it becomes active -/
  binds : List CfgBlock := []
  derivs : List CfgBlock := []
  shelfInit : List CfgBlock := []
  deriving DecidableEq, Repr

/-! ### Streams, tokens, derived regions -/

/-- A stream command an engine holds (R106 to R111, R345 to R354). `kind` 0 SCPY, 1 SSTG, 2 SEVC, 3 bound by SBIND, 4 bound
by the loader. `next`: it belongs to the load that is still shadow; `stage`: the GO of its load waits for it; `side`: the
fabric side of a bound command is its source; `pins` the translations a binding took once (page, leaf, level); `smode` the
mode its core issued it in. -/
structure SCmd where
  words : List Word
  kind : Nat
  ticket : Nat
  launch : Nat
  port : Option Nat
  next : Bool
  stage : Bool
  side : Bool
  pins : List (Nat × Word × Nat)
  started : Bool
  claim : Option Nat
  reject : Option (Nat × Word)
  smode : Bool
  deriving DecidableEq, Repr

structure Engine where
  cmds : List SCmd := []
  count : Nat := 0
  hist : List (Nat × Byte × Byte) := []
  tlb : Tab (Option (Word × Nat)) := []
  deriving DecidableEq, Repr

/-- A reconfiguration token (R40): the step it is in, since which cycle. -/
structure Token where
  step : Nat
  since : Nat
  deriving DecidableEq, Repr

/-- A store that a region's results may not reflect yet (R159): its arrival cycle, the bytes it replaced, DOVF before it, and
whether later reads must reflect it (R161). -/
structure Undo where
  arrived : Nat
  old : List (Nat × Byte)
  dovf : Bool
  must : Bool
  deriving DecidableEq, Repr

/-- A derived region (R147): its record, whether its build runs, DOVF, and the stores its results may not reflect yet,
oldest first (R159). `dropAt`: a DDROP has asked for it, and from this cycle on no update of the region is pending; what
it shows stands until then (R151, R274). -/
structure Derived where
  words : List Word
  building : Bool
  dovf : Bool
  undo : List Undo
  dropAt : Option Nat := none
  deriving DecidableEq, Repr

/-- Where an access lands. `tgt`: 0 stacks, 1 capacity tier, 2 SRAM, 3 host, 4 MMIO (R103), 9 another package. -/
structure Loc where
  tgt : Nat
  key : Nat
  slot : Option Nat := none
  die : Nat := 0
  ring : Nat := 0
  node : Nat := 0
  off : Nat := 0
  /-- the translation used: page number, leaf entry, level -/
  pte : Option (Nat × Word × Nat) := none
  deriving DecidableEq, Repr

/-- A store of a core in flight (R152, R205, log 5): where it lands, the bytes, the store's address. `core`: a fence has
performed it at CORE scope, so that the core's own reads see it on every path. `seq` numbers the core's store instructions,
`whole` says that its instruction writes an ECC granule whole (R246). -/
structure PendSt where
  loc : Loc
  bytes : List Byte
  addr : Word
  core : Bool
  seq : Nat := 0
  whole : Bool := false
  deriving DecidableEq, Repr

/-- A store that is performed for its own die, but that others may not see yet (R207, log 5): the die whose core made it, its
number, the bytes before and after it. `host`: every die sees it, the host alone may not. -/
structure Stale where
  die : Nat
  seq : Nat
  key : Nat
  slot : Option Nat
  old : List Byte
  new : List Byte
  host : Bool
  deriving DecidableEq, Repr

/-- A token on its way (R237): the word, the die of this package whose core sent it, its number among that core's stores. -/
structure Tok where
  word : Word
  src : Nat
  seq : Nat
  deriving DecidableEq, Repr

/-- A fence that has issued and is not complete (R208, R289): its sets and scope, and what it waits for: stores and tokens
numbered below `upto`, stream commands (engine, ticket), XN commands (unit key, number) and base-die commands (stack, engine,
count). `since`: the cycle in which its stores were performed, from which the wait for derived regions counts (R161). -/
structure Fence where
  pset : BitVec 8
  sset : BitVec 8
  scope : Nat
  upto : Nat
  strm : List (Nat × Nat)
  xmat : List (Nat × Nat)
  nb : List (Nat × Nat × Nat)
  since : Option Nat
  deriving DecidableEq, Repr

/-- A load or an atomic that has issued and is performed later than accesses behind it (R205, R210, log 5): the instruction,
its address and mode, the registers it read, where it writes its result, what a load has read at issue, and the bytes it
touches. -/
structure Deferred where
  instr : Instr
  pc : Word
  smode : Bool
  a : Vector Word 64
  dest : BitVec 6
  vals : List Word
  path : Nat
  loc : Loc
  len : Nat
  deriving DecidableEq, Repr

/-- 64 bytes that a load of the core returned before its place in the program (R205, log 5): the path, the place that the
path names, the bytes. -/
structure Early where
  path : Nat
  place : Nat
  bytes : BitVec 512
  deriving DecidableEq, Repr

/-! ### Control cores -/

/-- What a stalled instruction has already done (R241, log 22). -/
inductive Wait where
  | none
  /-- DRAIN has issued its token -/
  | drain
  /-- step 6 has completed with this flag summary -/
  | drained (flags : BitVec 6)
  /-- PBAR has been counted; it completes with the barrier -/
  | pbar
  /-- COLL has been counted -/
  | coll
  | collDone (status : Byte)
  /-- DWAIT has asked in this cycle (R161) -/
  | dwait (since : Nat)
  /-- DDECL has reserved its region and waits for the build -/
  | ddecl
  /-- DDROP has asked for its region and waits for the pending updates (R274) -/
  | ddrop
  /-- XWAIT's mask still to be seen set (R378) -/
  | xwait (mask : Byte)
  deriving DecidableEq, Repr

/-- A control core (R123, R125, R234 to R237). -/
structure Core where
  a : Vector Word 64 := Vector.replicate 64 0
  /-- bit n is pn; bit 0 is always read as 1 -/
  p : BitVec 8 := 1
  pc : Word := 0
  smode : Bool := false
  trapc : Word := 0
  trappc : Word := 0
  trapval : Word := 0
  htab : Word := 0
  ptbase : Word := 0
  diex : Word := 0
  diey : Word := 0
  dien : Word := 0
  running : Bool := false
  halted : Bool := false
  wait : Wait := .none
  evq : List (Word × Word) := []
  tokIn : List Tok := []
  slots : Byte := 0xFF
  pbars : Nat := 0
  colls : Nat := 0
  /-- the buffer and the descriptor of the COLL the core waits in -/
  collArgs : Word × Word := (0, 0)
  cfgl : Bool := false
  dcache : Tab (Option (BitVec 512)) := []
  ccache : Tab (Option (BitVec 512)) := []
  stq : List PendSt := []
  /-- store instructions and tokens issued so far -/
  stSeq : Nat := 0
  early : List Early := []
  fences : List Fence := []
  deferred : Option Deferred := none
  /-- the address of an instruction that has issued and stalls (R149) -/
  stallAt : Option Word := none
  deriving DecidableEq, Repr

/-- A compute die. Lane keys are `(12 * ring + lane) * 48 + slot`, unit keys `48 * ring + slot`. -/
structure Die where
  launch : Option Nat := none
  lastKeydom : Nat := 0
  g2 : Bool := false
  core : Core := {}
  act : Bank := {}
  shd : Bank := {}
  ces : Tab Ce := []
  mns : Tab Mn := []
  xns : Tab Xn := []
  regs : Tab Region := []
  cellRuns : Tab CellRun := []
  lanes : Tab Vec := []
  wports : Tab (Option Vec) := []
  xports : Tab (Option Vec) := []
  engines : Tab Engine := []
  token : Option Token := none
  /-- the fabric load the configuration prefetcher writes into the shadow set -/
  prefetch : Option Nat := none
  /-- reconfiguration tokens of the launch that have completed on the die (R183) -/
  kth : Nat := 0
  phase : Bool := false
  derivs : Tab (Option Derived) := []
  vcache : Tab (Option (BitVec 512)) := []
  tlb : Tab (Option (Word × Nat)) := []
  deriving DecidableEq, Repr

/-! ### Stacks -/

/-- One drawer slot (R188 to R192): the row it holds or, when `resv`, the row that a saved launch will hold in it again;
`evicted` after a takeover. -/
structure Drawer where
  gen : BitVec 4 := 0
  row : Option Nat := none
  owner : Nat := 0
  key : Nat := 0
  keep : Bool := false
  evicted : Bool := false
  resv : Bool := false
  deriving DecidableEq, Repr

/-- A base-die command (R194 to R198). `ops` holds the operands' first bytes as (memory key, key slot). The granules below
`pos` are done but for `skipped`; `carry` holds bytes of an element that straddles into a granule still to come. -/
structure BCmd where
  kind : Nat
  blk : List Word
  launch : Nat
  die : Nat
  count : Nat
  ops : List (Nat × Nat)
  pos : Nat
  flags : BitVec 6
  skipped : List Nat
  carry : List (Nat × Nat × Byte)
  deriving DecidableEq, Repr

/-- An engine of a base die; `hist` holds (count, state, trap, flags) of its last 64 commands. -/
structure BEng where
  q : List BCmd := []
  count : Nat := 0
  hist : List (Nat × Byte × Byte × BitVec 6) := []
  deriving DecidableEq, Repr

structure Stack where
  /-- key `(16 * pch + bank) * 4 + slot` -/
  drawers : Tab Drawer := []
  cabs : Tab BEng := []
  red : BEng := {}
  opt : BEng := {}
  lastBeat : Nat := 0
  /-- since when no heartbeat had come for 8 µs, for a takeover that a later heartbeat does not stop (R193) -/
  lapsed : Option Nat := none
  resumed : Option Nat := none
  takenOver : Bool := false
  takeovers : Nat := 0
  act : Tab (Word × Word) := []
  denials : Nat := 0
  deriving DecidableEq, Repr

/-! ### Launches and the management processor -/

inductive Phase where
  /-- accepted, not yet checked (R14, R16) -/
  | accepted
  /-- in its queue -/
  | queued
  /-- admitted: the rectangle is reserved, R31 has not run -/
  | admitted
  /-- a gang launch waits for the answers of other packages (R47) -/
  | asking
  | running
  /-- a victim that stops admitting tile tasks (R45) -/
  | stopping
  | saved
  | ended
  deriving DecidableEq, Repr

/-- One fault of a launch (R230, R231); `step` is the step its die's reconfiguration token had reached (R41), `unit` the ring
and slot of a unit that faults while no region owns it. -/
structure FaultInfo where
  src : Nat
  code : Nat
  die : Nat
  region : Option Nat
  faddr : Word
  detail : Word
  wall : Nat
  step : Nat
  unit : Option (Nat × Nat)
  deriving DecidableEq, Repr

/-- What a save keeps of a launch (R240): its dies with their launch die indices, the bytes of its declared sets (the
die index in place of the physical die) and the rows of its KEEP drawers as (stack, drawer key, row). -/
structure Saved where
  dies : List (Nat × Die)
  bytes : List (Nat × Byte)
  poison : List Nat
  rows : List (Nat × Nat × Nat)
  deriving DecidableEq, Repr

structure Launch where
  words : List Word := []
  queue : Nat := 0
  prio : Nat := 0
  aged : Bool := false
  since : Nat := 0
  phase : Phase := .accepted
  gx : Nat := 0
  gy : Nat := 0
  /-- the launch (if any) that reserved this launch's rectangle by pre-emption -/
  preemptor : Option Nat := none
  /-- its rectangle at (gx, gy) is reserved while victims are saved (R45) -/
  resv : Bool := false
  grants : List (Nat × Bool) := []
  lcyc : Word := 0
  precnt : Nat := 0
  cls : Nat := 0
  g2 : Bool := false
  /-- it runs a placement of its Hexnum section: a place of its blocks is a record index (R145) -/
  hex : Bool := false
  w : Nat := 0
  h : Nat := 0
  entry : Word := 0
  textva : Word := 0
  htab : Word := 0
  items : List CfgBlock := []
  circuits : List CircuitRec := []
  /-- circuit index to (source buffer, destination buffer) in transit -/
  transit : Tab (Option (Nat × Nat)) := []
  faults : List FaultInfo := []
  frec : Word := 0
  trap : Nat := 0
  status : Nat := 0
  saved : Option Saved := none
  deriving DecidableEq, Repr

/-- A submission queue (R13). -/
structure Queue where
  nextseq : Word := 1
  consumed : Word := 0
  qstate : BitVec 2 := 0
  booterr : Byte := 0
  items : List Nat := []
  deriving DecidableEq, Repr

/-- The management processor and what firmware keeps (R13, R16 to R22, R230, R235, R244 to R246). DESIGN CHOICE (log 25): the
package stands at (0, 0) of a 1 × 1 mesh until START_UP, an input, says where it stands, how large the mesh is and which key
hashes are enrolled. -/
structure Mgmt where
  queues : Tab Queue := []
  rr : Nat := 0
  passDue : Bool := false
  ageLimit : BitVec 32 := 0x1000000
  /-- the AGE_LIMIT of the last scheduler pass, which ageing uses (R340) -/
  ageInUse : BitVec 32 := 0x1000000
  alarmLevel : BitVec 2 := 2
  alarms : BitVec 7 := 0
  frzrec : Word := 0
  frzPos : Nat := 0
  linkUp : Bool := false
  powered : Bool := true
  thrPower : Bool := false
  thrHot : Bool := false
  meshUp : BitVec 16 := 0
  meshDelay : Tab Nat := []
  meshRetrain : BitVec 16 := 0
  pkgX : Nat := 0
  pkgY : Nat := 0
  meshW : Nat := 1
  meshH : Nat := 1
  /-- dies granted to other packages' launches: (requesting package, physical die) -/
  granted : List (Nat × Nat) := []
  /-- dies reserved for other packages' launches while the victims that hold them are saved (R45, R47) -/
  pending : List (Nat × List Nat) := []
  enrolled : List (BitVec 256) := []
  sigs : Nat := 0
  msix : List Nat := []
  corrected : Nat := 0
  deriving DecidableEq, Repr

/-- A key slot (R242): owning domain and XTS key; `none` is empty. -/
structure KeySlot where
  dom : Nat
  key : BitVec 512
  deriving DecidableEq, Repr

/-- The state of the package. -/
structure State where
  cur : Nat × Nat × Nat := (0, 0, 0)
  agenda : List Turn := []
  inputs : List Instr := []
  freeCtr : Nat := 0
  /-- bytes that the last host read, or the last remote request served, returned -/
  hostData : List Byte := []
  cycle : Nat := 0
  mem : Tab Byte := []
  poison : Tab Bool := []
  keyTag : Tab (Option (BitVec 512)) := []
  keys : Tab (Option KeySlot) := []
  /-- stores that some parties may not see yet, oldest first -/
  stale : List Stale := []
  mgmt : Mgmt := {}
  launches : Tab Launch := []
  nLaunch : Nat := 0
  dies : Tab Die := []
  stackTab : Tab Stack := []
  deriving DecidableEq, Repr

/-- Reset (R6, log 1): every table is empty, so every unit, register and byte has its default value. -/
def State.reset : State := {}

/-- Why the machine can stop. The spec turns every stop into a trap, a status, a freeze or a halt that the state holds;
so one reason is left. -/
inductive Fault where
  /-- raised by `step` when its turn names a unit that holds no schedule row (a slot that is no CE, MN or XN): no run
  reaches it. Safe: the machine stops. -/
  | noUnit
  deriving DecidableEq, Repr

inductive Refusal where
  /-- raised by `exec` for an instruction that has no meaning yet. Safe: nothing is claimed of it. -/
  | notModelled (mnemonic : String)
  deriving DecidableEq, Repr

abbrev Out := Host.Outcome State Fault Refusal

end Sys2Proof.Machine
end

