-- ==== Sys2Proof/Machine/Ops.lean ====
section
/-! DEFINITION. The named operations every meaning is written with: access to the parts of the state, bytes of memory,
registers of a control core, taking a trap and returning from one (R234), the fabric's fault (R229, R230). -/

namespace Sys2Proof.Machine

/-! ### Parts of the state -/

def State.die (s : State) (d : Nat) : Die := tget {} s.dies d
def State.setDie (s : State) (d : Nat) (x : Die) : State := { s with dies := tset {} s.dies d x }
def State.launch (s : State) (l : Nat) : Launch := tget {} s.launches l
def State.setLaunch (s : State) (l : Nat) (x : Launch) : State := { s with launches := tset {} s.launches l x }
def State.stack (s : State) (k : Nat) : Stack := tget {} s.stackTab k
def State.setStack (s : State) (k : Nat) (x : Stack) : State := { s with stackTab := tset {} s.stackTab k x }
def State.queue (s : State) (q : Nat) : Queue := tget {} s.mgmt.queues q
def State.setQueue (s : State) (q : Nat) (x : Queue) : State :=
  { s with mgmt := { s.mgmt with queues := tset {} s.mgmt.queues q x } }
def State.core (s : State) (d : Nat) : Core := (s.die d).core
def State.setCore (s : State) (d : Nat) (c : Core) : State := s.setDie d { s.die d with core := c }
def State.region (s : State) (d r : Nat) : Region := tget {} (s.die d).regs r
def State.setRegion (s : State) (d r : Nat) (x : Region) : State :=
  s.setDie d { s.die d with regs := tset {} (s.die d).regs r x }

/-- Key of the unit at a slot of a ring. -/
def ukey (ring slot : Nat) : Nat := 48 * ring + slot

def State.ce (s : State) (d r sl : Nat) : Ce := tget {} (s.die d).ces (ukey r sl)
def State.setCe (s : State) (d r sl : Nat) (x : Ce) : State :=
  s.setDie d { s.die d with ces := tset {} (s.die d).ces (ukey r sl) x }
def State.mn (s : State) (d r sl : Nat) : Mn := tget {} (s.die d).mns (ukey r sl)
def State.setMn (s : State) (d r sl : Nat) (x : Mn) : State :=
  s.setDie d { s.die d with mns := tset {} (s.die d).mns (ukey r sl) x }
def State.xn (s : State) (d r sl : Nat) : Xn := tget {} (s.die d).xns (ukey r sl)
def State.setXn (s : State) (d r sl : Nat) (x : Xn) : State :=
  s.setDie d { s.die d with xns := tset {} (s.die d).xns (ukey r sl) x }

/-- The bay pattern of R10: slots 6b + 0, 2, 4 are CEs, 6b + 1 and 6b + 5 MNs, 6b + 3 XNs. -/
def isCe (slot : Nat) : Bool := decide (slot < 48 ∧ slot % 2 = 0)
def isMn (slot : Nat) : Bool := decide (slot < 48 ∧ (slot % 6 = 1 ∨ slot % 6 = 5))
def isXn (slot : Nat) : Bool := decide (slot < 48 ∧ slot % 6 = 3)

/-- The slot of node n of a ring (R97), and back. -/
def slotOfNode (n : Nat) : Nat := 6 * (n / 2) + 1 + 4 * (n % 2)
def nodeOfSlot (slot : Nat) : Nat := 2 * (slot / 6) + (if slot % 6 = 5 then 1 else 0)

/-- The active configurations of units. Unlisted CE rows hold NOP (R134); DESIGN CHOICE (log 1): so do the rows of a CE before
any configuration. -/
def nopWord : BitVec 32 := 0x01FFFC00
def Bank.ceCfg (b : Bank) (r sl : Nat) : CeCfg := tget {} b.ce (ukey r sl)
def Bank.mnCfg (b : Bank) (r sl : Nat) : MnCfg := tget {} b.mn (ukey r sl)
def Bank.xnCfg (b : Bank) (r sl : Nat) : XnCfg := tget {} b.xn (ukey r sl)
def Bank.shelfDesc (b : Bank) (r sl sh : Nat) : Word := tget 0 (b.mnCfg r sl).shelf sh
def Bank.buf (b : Bank) (r sl sh : Nat) : ShelfSt := tget {} b.bufs (64 * ukey r sl + sh)
def Bank.setBuf (b : Bank) (r sl sh : Nat) (x : ShelfSt) : Bank :=
  { b with bufs := tset {} b.bufs (64 * ukey r sl + sh) x }

/-- Rings, slots and nodes of a ring in the running profile (R139), and bytes of a node. -/
def ringsOf (g2 : Bool) : Nat := if g2 then 40 else 64
def slotsOf (g2 : Bool) : Nat := if g2 then 32 else 48
def nodesOf (g2 : Bool) : Nat := if g2 then 11 else 16
def nodeSize (g2 : Bool) : Nat := if g2 then 0x100000 else 0x200000

/-- A fresh free number, and the state that has used it (log 19). -/
def State.free (s : State) : Nat × State := (s.freeCtr, { s with freeCtr := s.freeCtr + 1 })

/-! ### Bytes -/

/-- Memory keys: a space in the high part, an offset below (R97, R103, R112). -/
def sramKey (pd ring node off : Nat) : Nat := pd * 2 ^ 31 + ring * 2 ^ 25 + node * 2 ^ 21 + off
def stackKey (lin : Nat) : Nat := 2 ^ 60 + lin
def capKey (off : Nat) : Nat := 2 * 2 ^ 60 + off
def hostKey (off : Nat) : Nat := 3 * 2 ^ 60 + off
def mmioKey (off : Nat) : Nat := 4 * 2 ^ 60 + off
def spaceOf (k : Nat) : Nat := k / 2 ^ 60

def State.byte (s : State) (k : Nat) : Byte := tget 0 s.mem k
def State.setByte (s : State) (k : Nat) (b : Byte) : State := { s with mem := tset 0 s.mem k b }

/-- `n` bytes from key `k` upward. -/
def State.bytes (s : State) (k : Nat) : Nat → List Byte
  | 0 => []
  | n + 1 => s.byte k :: s.bytes (k + 1) n

def State.putBytes (s : State) (k : Nat) : List Byte → State
  | [] => s
  | b :: t => (s.setByte k b).putBytes (k + 1) t

/-- Little-endian reading and writing (R3). -/
def leNat : List Byte → Nat
  | [] => 0
  | b :: t => b.toNat + 256 * leNat t

def leBytes : Nat → Nat → List Byte
  | 0, _ => []
  | n + 1, v => BitVec.ofNat 8 v :: leBytes n (v / 256)

def leWord (l : List Byte) : Word := BitVec.ofNat 64 (leNat l)

/-- Consecutive pieces of `n` bytes. -/
def chunks (n : Nat) : Nat → List Byte → List (List Byte)
  | 0, _ => []
  | k + 1, l => l.take n :: chunks n k (l.drop n)

/-- The ECC granule of a byte: 8 B in SRAM, 64 B elsewhere (R246). -/
def granule (k : Nat) : Nat := if spaceOf k = 0 then k / 8 * 8 else k / 64 * 64

/-- Some byte of a range lies in a poisoned granule. -/
def State.poisoned (s : State) (k : Nat) : Nat → Bool
  | 0 => false
  | n + 1 => tget false s.poison (granule k) || s.poisoned (k + 1) n

/-- A granule written whole is no longer poisoned (R246). -/
def State.heal (s : State) (k n : Nat) : State :=
  { s with poison := s.poison.filter (fun e => !(decide (k ≤ e.1 ∧ e.1 + (if spaceOf e.1 = 0 then 8 else 64) ≤ k + n))) }

/-! ### Encryption (R242, log 8) -/

def State.keySlot (s : State) (n : Nat) : Option KeySlot := tget none s.keys n

/-- The key a slot decrypts with; an empty slot that no page may name counts as key 0. -/
def State.xts (s : State) (n : Nat) : BitVec 512 := ((s.keySlot n).map (·.key)).getD 0

/-- A byte as an access under a key slot reads it; SRAM, host and MMIO are not encrypted (slot none). -/
def State.plainByte (s : State) (k : Nat) (slot : Option Nat) : Byte :=
  match slot, tget none s.keyTag (k / 64) with
  | some n, some t =>
    if s.xts n = t then s.byte k
    else (Config.misdecrypt (some t) (s.xts n) (k / 64)).extractLsb' (8 * (k % 64)) 8
  | _, _ => s.byte k

def State.plainBytes (s : State) (k : Nat) (slot : Option Nat) : Nat → List Byte
  | 0 => []
  | n + 1 => s.plainByte k slot :: s.plainBytes (k + 1) slot n

/-- The granule of `k` re-encrypted under a key slot: bytes written under another key become what they decrypt to. -/
def State.rekey (s : State) (k : Nat) (slot : Option Nat) : State :=
  match slot with
  | none => s
  | some n =>
    let s := match tget none s.keyTag (k / 64) with
      | some t => if s.xts n = t then s else s.putBytes (k / 64 * 64) (s.plainBytes (k / 64 * 64) slot 64)
      | none => s
    { s with keyTag := tset none s.keyTag (k / 64) (some (s.xts n)) }

/-- Bytes of a range that some parties might not see yet: what replaces them is later for every party (R207). -/
def State.settleStale (s : State) (k n : Nat) : State :=
  { s with stale := s.stale.filter (fun e => !decide (e.key < k + n ∧ k < e.key + e.new.length)) }

/-- Bytes written at a key under a key slot, granule by granule; whole granules lose their poison. -/
def State.store (s : State) (k : Nat) (slot : Option Nat) (l : List Byte) : State :=
  let s := s.settleStale k l.length
  match slot with
  | none => (s.putBytes k l).heal k l.length
  | some _ =>
    let grans := (List.range ((k % 64 + l.length + 63) / 64)).map (fun i => k / 64 * 64 + 64 * i)
    ((grans.foldl (fun s g => s.rekey g slot) s).putBytes k l).heal k l.length

/-! ### Launches and their dies (R29) -/

/-- The launch that holds a die. -/
def State.launchOf (s : State) (d : Nat) : Option Nat := (s.die d).launch

/-- Number of dies of a launch. -/
def Launch.dieCount (l : Launch) : Nat := l.w * l.h

/-- The physical die of a launch die index: `none` outside the launch, `some none` in another package. -/
def State.physDie (s : State) (l : Launch) (i : Nat) : Option (Option Nat) :=
  if i < l.dieCount then
    let gx := l.gx + i % l.w
    let gy := l.gy + i / l.w
    if gx / 2 = s.mgmt.pkgX ∧ gy / 4 = s.mgmt.pkgY then some (some (2 * (gy % 4) + gx % 2)) else some none
  else none

/-- The physical dies of this package that a launch covers, with their launch die indices. -/
def State.localDies (s : State) (l : Launch) : List (Nat × Nat) :=
  (List.range l.dieCount).filterMap (fun i => match s.physDie l i with
    | some (some d) => some (i, d)
    | _ => none)

/-- A launch whose rectangle lies in this package alone. -/
def State.isLocal (s : State) (l : Launch) : Bool := decide ((s.localDies l).length = l.dieCount)

/-- Word `n` of a launch record. -/
def Launch.word (l : Launch) (n : Nat) : Word := (l.words[n]?).getD 0

/-- KEYDOM of a launch (R15). -/
def Launch.keydom (l : Launch) : Nat := (l.word 4).toNat / 2 ^ 24 % 1024

/-! ### Control-core registers (R123 to R125) -/

def Core.get (c : Core) (r : BitVec 6) : Word := c.a[r.toNat]'r.isLt
def Core.set (c : Core) (r : BitVec 6) (v : Word) : Core := { c with a := c.a.set r.toNat v r.isLt }

/-- A predicate; p0 is always true. -/
def Core.pred (c : Core) (n : BitVec 3) : Bool := n == 0 || c.p.getLsbD n.toNat

def Core.setPred (c : Core) (n : BitVec 3) (v : Bool) : Core :=
  if n = 0 then c
  else { c with p := if v then c.p ||| (1#8 <<< n.toNat) else c.p &&& ~~~(1#8 <<< n.toNat) }

/-- The guard (R125): bits 2:0 name a predicate, bit 3 negates it. -/
def Core.guard (c : Core) (g : BitVec 4) : Bool := c.pred (g.extractLsb' 0 3) != g.getLsbD 3

/-- The registers `r`, `r + 1`, … as a list of `n` words. -/
def Core.getN (c : Core) (r : BitVec 6) (n : Nat) : List Word :=
  (List.range n).map (fun j => c.get (r + BitVec.ofNat 6 j))

def Core.setN (c : Core) (r : BitVec 6) : List Word → Core
  | [] => c
  | v :: t => (c.set r v).setN (r + 1) t

/-- The core that executes: that of the current die. -/
def State.cdie (s : State) : Nat := s.cur.1
def State.cc (s : State) : Core := s.core s.cdie
def State.setCc (s : State) (c : Core) : State := s.setCore s.cdie c

/-- Continue `n` bytes further on. -/
def State.adv (s : State) (n : Nat := 4) : State := s.setCc { s.cc with pc := s.cc.pc + BitVec.ofNat 64 n }

/-- Write D and continue with the next instruction. -/
def State.ret (s : State) (d : BitVec 6) (v : Word) : State := (s.setCc (s.cc.set d v)).adv

/-! ### Traps (R233, R234) -/

structure Trap where
  code : Nat
  val : Word
  deriving DecidableEq, Repr

def tILL : Nat := 0x01
def tPRIV : Nat := 0x02
def tALIGN : Nat := 0x03
def tPAGE : Nat := 0x04
def tACCESS : Nat := 0x05
def tBANK : Nat := 0x06
def tSCHED : Nat := 0x07
def tVERSION : Nat := 0x08
def tHANDLER : Nat := 0x09
def tTABLE : Nat := 0x0A
def tLINE : Nat := 0x0B
def tNBREJ : Nat := 0x0C
def tLINK : Nat := 0x0D
def tECC : Nat := 0x0E
def tWDOG : Nat := 0x0F
def tALARM : Nat := 0x10
def tFPX : Nat := 0x11
def tDIV0 : Nat := 0x12
def tOVF : Nat := 0x13
def tSOFT : Nat := 0x14

/-- Precise traps (R233). -/
def precise (code : Nat) : Bool := !([tHANDLER, tLINK, tWDOG, tALARM, tFPX, tOVF].contains code)

/-- The core's registers after a trap: TRAPC, TRAPPC, TRAPVAL written, mode S, at the firmware vector. -/
def Core.trapEntry (c : Core) (src code : Nat) (tpc val : Word) : Core :=
  { c with
    trapc := BitVec.ofNat 64 ((if c.smode then 2 ^ 12 else 0) + src * 2 ^ 8 + code)
    trappc := tpc
    trapval := val
    smode := true
    wait := .none
    pc := Config.firmwareVector }

/-- The reconfiguration-token step that a fault record states; 0 without a token (R231). -/
def Die.tokenStep (x : Die) : Nat := match x.token with
  | some t => t.step
  | none => 0

/-- The token after a fault of the die: one that has not reached step 6 is abandoned (R41). -/
def Die.tokenLeft (x : Die) : Option Token := x.token.filter (fun t => decide (6 ≤ t.step))

/-- FADDR of a trap: its TRAPVAL where R233 gives an address there, else 0 (R231). PRIV has an address when a path raises
it; a register number lies below 1,024. -/
def Trap.faddr (t : Trap) : Word :=
  if [tALIGN, tPAGE, tACCESS, tLINE, tNBREJ, tECC].contains t.code then t.val
  else if t.code = tPRIV ∧ 1024 ≤ t.val.toNat then t.val
  else 0

/-- Record a fault of a launch for the firmware that ends it (R230); a die's first fault is kept. -/
def State.noteFault (s : State) (l : Nat) (f : FaultInfo) : State :=
  let x := s.launch l
  if x.phase = .ended ∨ x.faults.any (fun g => g.die == f.die) then s
  else s.setLaunch l { x with faults := x.faults ++ [f] }

/-- The token step that the die 0 of a launch has reached. -/
def State.launchStep (s : State) (l : Nat) : Nat :=
  let x := s.launch l
  if x.phase = .running ∨ x.phase = .stopping then match s.physDie x 0 with
    | some (some d) => (s.die d).tokenStep
    | _ => 0
  else 0

/-- Every launch that holds dies faults with a code (R22, R234). -/
def State.stopLaunches (s : State) (code : Nat) : State :=
  s.launches.foldl (fun s e =>
    if e.2.phase = .running ∨ e.2.phase = .stopping ∨ e.2.phase = .admitted then
      s.noteFault e.1
        { src := 8, code, die := 0, region := none, faddr := 0, detail := 0, wall := s.cycle, step := s.launchStep e.1, unit := none }
    else s) s

/-- A trap on the core of a die: `own` when the core's own instruction raises it. A trap of code in S mode stops the
package's launches with WDOG; any other is recorded for its launch (R234). -/
def State.takeTrap (s : State) (d src : Nat) (own : Bool) (t : Trap) (tpc : Word) (region : Option Nat := none)
    (detail : Word := 0) (unit : Option (Nat × Nat) := none) (faddr : Word := t.faddr) : State :=
  let c := s.core d
  let x := s.die d
  let s' := s.setDie d { x with core := c.trapEntry src t.code tpc t.val, token := x.tokenLeft }
  if c.smode && own then s'.stopLaunches tWDOG
  else match s.launchOf d with
    | none => s'
    | some l => s'.noteFault l
        { src, code := t.code, die := c.dien.toNat, region, faddr, detail, wall := s.cycle, step := x.tokenStep, unit }

/-- A precise trap of the executing instruction: TRAPPC is its own address. -/
def State.trapHere (s : State) (t : Trap) : State := s.takeTrap s.cdie 3 true t s.cc.pc

/-- The outcome of an instruction that either has an effect or traps. -/
def orTrap (s : State) (r : Except Trap State) : Out :=
  match r with
  | .ok s' => .next s'
  | .error t => .next (s.trapHere t)

/-- ERET (R280) in S mode: the mode of TRAPC.PMODE, at TRAPPC. -/
def Core.eret (c : Core) : Core :=
  { c with smode := c.trapc.getLsbD 12, pc := c.trappc }

/-- An instruction under its guard: a false guard only goes on (R125). -/
def guarded (s : State) (g : BitVec 4) (f : State → Out) : Out :=
  if s.cc.guard g then f s else .next s.adv

/-! ### The fabric's fault (R229, R230) -/

def regionTrips (desc : Word) : Nat := desc.toNat % 2 ^ 32
def rFirst (desc : Word) : Nat := desc.toNat / 2 ^ 58
def rLast (desc : Word) : Nat := desc.toNat / 2 ^ 52 % 64
def rII (desc : Word) : Nat := desc.toNat / 2 ^ 47 % 32 + 1
def rNS (desc : Word) : Nat := desc.toNat / 2 ^ 41 % 64 + 1

/-- MC and the wrap counter of a region, from RC (R25). -/
def Region.mc (x : Region) (desc : Word) : Nat := x.rc % 2 ^ 32 % rII desc
def Region.wrap (x : Region) (desc : Word) : Nat := x.rc % 2 ^ 32 / rII desc
def rTripReg (desc : Word) : Bool := desc.getLsbD 40

/-- The region a ring belongs to in the active configuration, with its descriptor (R23). -/
def Bank.regionAt (b : Bank) (ring : Nat) : Option (Nat × Word) :=
  b.rdesc.findSome? (fun e => match e.2 with
    | some w => if rFirst w ≤ ring ∧ ring ≤ rLast w then some (e.1, w) else none
    | none => none)

/-- The trap of a region's fault becomes that of another unit that faults in the same cycle (R230): TRAPC keeps PMODE, and
the launch's fault follows. -/
def State.retrap (s : State) (d r : Nat) (o : FStop) (src : Nat) (t : Trap) (detail : Word) : State :=
  let c := s.core d
  let s := if c.trapc.toNat % 2 ^ 12 = o.src * 2 ^ 8 + o.code then
      s.setCore d { c with
        trapc := BitVec.ofNat 64 (c.trapc.toNat / 2 ^ 12 % 2 * 2 ^ 12 + src * 2 ^ 8 + t.code)
        trapval := t.val }
    else s
  match s.launchOf d with
  | none => s
  | some l =>
    let x := s.launch l
    s.setLaunch l { x with faults := x.faults.map (fun g =>
      if g.die = c.dien.toNat ∧ g.region = some r ∧ g.wall = s.cycle then
        { g with src, code := t.code, faddr := t.faddr, detail } else g) }

/-- A unit of a region raises a fault in this cycle. The first fault of the region starts the fault stop; of several in
one cycle the one in the lowest ring, then slot, is the faulting one; a precise one of the skid is listed as suppressed
(R230). -/
def State.raiseFault (s : State) (d r ring slot src : Nat) (code : Nat) (row stage : Nat)
    (tval faddr detail : Word) : State :=
  let x := s.region d r
  let f := x.rc % 2 ^ 32
  let st (sup : List (Nat × Nat × Nat)) (step : Nat) : FStop :=
    ⟨s.cycle, f, src, code, ring, slot, row, stage, faddr, detail, [], sup, step⟩
  match x.fstop with
  | none =>
    (s.setRegion d r { x with fstop := some (st [] (s.die d).tokenStep) }).takeTrap d src false ⟨code, tval⟩ (s.core d).pc
      (some r) detail
  | some o =>
    if o.wall = s.cycle ∧ (ring < o.ring ∨ ring = o.ring ∧ slot < o.slot) then
      let sup := o.sup ++ (if precise o.code then [(o.ring, o.slot, f)] else [])
      (s.setRegion d r { x with fstop := some (st sup o.step) }).retrap d r o src ⟨code, tval⟩ detail
    else if precise code then
      s.setRegion d r { x with fstop := some { o with sup := o.sup ++ [(ring, slot, f)] } }
    else s

end Sys2Proof.Machine
end

