-- ==== Sys2Proof/Machine/Derived.lean ====
section
/-! DEFINITION. Derived regions (R147 to R163). A region keeps no stored shadow: its results are a function of the base's
bytes after a permitted prefix of the stores that arrived (R159), so the model keeps, per region, the stores its result
may still leave out, and the sticky DOVF. Every store into a node goes through `nodeStore` (R152). -/

namespace Sys2Proof.Machine

/-! ### The record (R147) -/

def bitsOf (w : Word) (lo n : Nat) : Nat := w.toNat / 2 ^ lo % 2 ^ n

def Derived.word (x : Derived) (n : Nat) : Word := (x.words[n]?).getD 0
def Derived.base (x : Derived) : Nat := bitsOf (x.word 0) 0 21
def Derived.rows (x : Derived) : Nat := bitsOf (x.word 1) 32 32
def Derived.cols (x : Derived) : Nat := bitsOf (x.word 1) 0 32
def Derived.rstr (x : Derived) : Nat := bitsOf (x.word 2) 21 21
def Derived.shBase (x : Derived) : Nat := bitsOf (x.word 2) 0 21
def Derived.anch (x : Derived) : Int := ival 8 (bitsOf (x.word 3) 24 8)
def Derived.dix (x : Derived) : Nat := bitsOf (x.word 3) 20 3
def Derived.kind (x : Derived) : Nat := bitsOf (x.word 3) 16 3
def Derived.rfmt (x : Derived) : Nat := bitsOf (x.word 3) 8 5
def Derived.efmt (x : Derived) : Nat := bitsOf (x.word 3) 0 5
def Derived.lo (x : Derived) : FVal := (ffmt 0).decode (bitsOf (x.word 4) 32 32)
def Derived.hi (x : Derived) : FVal := (ffmt 0).decode (bitsOf (x.word 4) 0 32)
def Derived.bins (x : Derived) : Nat := bitsOf (x.word 5) 8 8 + 1
def Derived.blk (x : Derived) : Nat := if (x.word 5).getLsbD 1 then 64 else 32
def Derived.hclamp (x : Derived) : Bool := (x.word 5).getLsbD 0

/-- Bytes of one row of the base. -/
def Derived.rowBytes (x : Derived) : Nat := (x.cols * laneWidth x.efmt + 7) / 8

/-- P(n) = 2^⌈log2 n⌉ (R148). -/
def ceilPow2 (n : Nat) : Nat := if n ≤ 1 then 1 else 2 ^ (Nat.log2 (n - 1) + 1)

def up64 (n : Nat) : Nat := (n + 63) / 64 * 64

/-- Shadow storage (R148). -/
def Derived.shSize (x : Derived) : Nat :=
  up64 (match x.kind with
    | 0 => 32 * x.rows
    | 1 => 32 * x.cols
    | 2 => 2 * ceilPow2 x.cols * x.rows
    | 3 => 2 * ceilPow2 x.rows * x.cols
    | 4 => 2 * ceilPow2 x.cols * x.rows
    | 5 => 32 * x.rows
    | 6 => 4 * x.bins
    | _ => 2 * x.blk * (x.rows * x.cols / x.blk))

/-- The derived-update latency D (R158). -/
def Derived.latency (g2 : Bool) (x : Derived) : Nat :=
  match x.kind with
  | 0 => if g2 then 8 else 6
  | 1 => if g2 then 8 else 6
  | 2 => (if g2 then 6 else 4) + Nat.log2 (ceilPow2 x.cols)
  | 3 => (if g2 then 6 else 4) + Nat.log2 (ceilPow2 x.rows)
  | 4 => (if g2 then 6 else 4) + Nat.log2 (ceilPow2 x.cols)
  | 5 => if g2 then 8 else 6
  | 6 => 6
  | _ => 8 + Nat.log2 x.blk

/-! ### Elements and results -/

/-- The value of base element (i, j) of bytes given by `rd`; a format error counts as NaN (R152). -/
def Derived.elem (x : Derived) (rd : Nat → Byte) (i j : Nat) : FVal :=
  let w := laneWidth x.efmt
  let o := x.base + i * x.rstr + j * w / 8
  let v := leNat ((List.range ((w + 7) / 8)).map (fun k => rd (o + k)))
  (decodeScalar x.efmt (if w = 4 then (if j % 2 = 0 then v % 16 else v / 16) else v)).1

/-- The exact sum of rounded contributions with its three counts (R153): grid steps, NaN, +Inf, −Inf, and whether a
contribution leaves the range of R154. -/
structure SumSt where
  x : Int := 0
  nan : Nat := 0
  pos : Nat := 0
  neg : Nat := 0
  ovf : Bool := false

def Derived.contrib (x : Derived) (t : SumSt) (v : FVal) : SumSt :=
  match v with
  | .nan => { t with nan := t.nan + 1 }
  | .inf s => if x.kind = 5 ∨ !s then { t with pos := t.pos + 1 } else { t with neg := t.neg + 1 }
  | v =>
    let q := onGrid (if x.kind = 5 then v.toRat * v.toRat else v.toRat) x.anch
    { t with x := t.x + q, ovf := t.ovf || decide (q.natAbs ≥ 2 ^ 126) }

/-- The elements that result `e` is formed from. -/
def Derived.members (x : Derived) (rd : Nat → Byte) (e : Nat) : List FVal :=
  match x.kind with
  | 1 => (List.range x.rows).map (fun i => x.elem rd i e)
  | 3 => (List.range x.rows).map (fun i => x.elem rd i e)
  | 6 => (List.range (x.rows * x.cols)).map (fun k => x.elem rd (k / x.cols) (k % x.cols))
  | 7 => (List.range x.blk).map (fun k =>
      let p := e * x.blk + k
      x.elem rd (p / x.cols) (p % x.cols))
  | _ => (List.range x.cols).map (fun j => x.elem rd e j)

/-- Number of result elements, and bits of one. -/
def Derived.count (x : Derived) : Nat :=
  match x.kind with
  | 1 => x.cols
  | 3 => x.cols
  | 6 => x.bins
  | 7 => x.rows * x.cols / x.blk
  | _ => x.rows

def Derived.rbits (x : Derived) : Nat := if x.kind = 7 then 32 else laneWidth x.rfmt

/-- Bytes of the result array. -/
def Derived.arrayLen (x : Derived) : Nat := (x.count * x.rbits + 7) / 8

/-- The winner of a tournament (R155): NaN above +Inf, the earlier of equal keys. -/
def winner : List FVal → FVal
  | [] => .zero false
  | v :: t => t.foldl (fun b a => if aboveNum a b then a else b) v

/-- The bin of an element (R156). -/
def Derived.bin (x : Derived) (v : FVal) : Option Nat :=
  match v with
  | .nan => none
  | v =>
    if ltNum v x.lo then (if x.hclamp then some 0 else none)
    else if !(ltNum v x.hi) then (if x.hclamp then some (x.bins - 1) else none)
    else some ((v.toRat - x.lo.toRat) * (x.bins : Rat) / (x.hi.toRat - x.lo.toRat)).floor.toNat

/-- Result element `e` as a pattern (R157). -/
def Derived.result (x : Derived) (rd : Nat → Byte) (e : Nat) : Nat :=
  let m := x.members rd e
  match x.kind with
  | 6 => (m.filter (fun v => x.bin v == some e)).length % 2 ^ 32
  | 7 =>
    let (bad, a) := absMax m
    if bad then 0xFEFFF else (sb20Up (a / fmaxOf x.rfmt)).1
  | k =>
    if k = 2 ∨ k = 3 ∨ k = 4 then
      (roundTo x.rfmt 0 (winner (if k = 4 then m.map absNum else m))).1
    else
      let t := m.foldl x.contrib {}
      let v : FVal :=
        if x.dovf then .nan
        else if t.nan > 0 ∨ (t.pos > 0 ∧ t.neg > 0) then .nan
        else if t.pos > 0 then .inf false
        else if t.neg > 0 then .inf true
        else FVal.ofRat ((t.x : Rat) * pow2 x.anch)
      (roundTo x.rfmt 0 v).1

/-- Byte `b` of the result array; bytes beyond its end read as zero (R148, R160). -/
def Derived.resultByte (x : Derived) (rd : Nat → Byte) (b : Nat) : Byte :=
  if b < x.arrayLen then
    if x.rbits = 4 then
      BitVec.ofNat 8 (x.result rd (2 * b) + (if 2 * b + 1 < x.count then 16 * x.result rd (2 * b + 1) else 0))
    else
      let sz := x.rbits / 8
      BitVec.ofNat 8 (x.result rd (b / sz) / 256 ^ (b % sz))
  else 0

/-- Some sum of the region leaves the range of R154. -/
def Derived.overflows (x : Derived) (rd : Nat → Byte) : Bool :=
  if x.kind = 0 ∨ x.kind = 1 ∨ x.kind = 5 then
    (List.range x.count).any (fun e =>
      let t := (x.members rd e).foldl x.contrib {}
      t.ovf || decide (t.x.natAbs ≥ 2 ^ 126))
  else false

/-- A node byte belongs to the base. -/
def Derived.covers (x : Derived) (o : Nat) : Bool :=
  decide (x.base ≤ o ∧ (o - x.base) / x.rstr < x.rows ∧ (o - x.base) % x.rstr < x.rowBytes)

/-! ### Regions of a node -/

def derivKey (ring node dix : Nat) : Nat := (ring * 16 + node) * 8 + dix

def State.deriv (s : State) (d ring node dix : Nat) : Option Derived := tget none (s.die d).derivs (derivKey ring node dix)
def State.setDeriv (s : State) (d ring node dix : Nat) (x : Option Derived) : State :=
  s.setDie d { s.die d with derivs := tset none (s.die d).derivs (derivKey ring node dix) x }

/-- The derived regions of a node, with their indices. -/
def State.derivsOf (s : State) (d ring node : Nat) : List (Nat × Derived) :=
  (List.range 8).filterMap (fun i => (s.deriv d ring node i).map (fun x => (i, x)))

/-- A byte range of a node touches shadow storage (R149). -/
def State.inShadow (s : State) (d ring node off n : Nat) : Bool :=
  (s.derivsOf d ring node).any (fun e => decide (off < e.2.shBase + e.2.shSize ∧ e.2.shBase < off + n))

/-- The bytes of a node with a list of old bytes laid over them. -/
def State.nodeView (s : State) (d ring node : Nat) (old : List (Nat × Byte)) (o : Nat) : Byte :=
  match old.find? (fun e => e.1 == o) with
  | some e => e.2
  | none => s.byte (sramKey d ring node o)

/-- Stores of the region's window that every later read must reflect are forgotten (R159, R161). What a region shows that a
DDROP has asked for no longer changes (R274). -/
def Derived.settle (g2 : Bool) (now : Nat) (x : Derived) : Derived :=
  if x.dropAt.isSome then x
  else { x with undo := x.undo.filter (fun e =>
    decide (now < e.arrived + x.latency g2) && !(e.must && decide (e.arrived < now))) }

/-- No update of the region is pending (R151). -/
def Derived.quiet (g2 : Bool) (now : Nat) (x : Derived) : Bool :=
  match x.dropAt with
  | some t => decide (t ≤ now)
  | none => (x.settle g2 now).undo.isEmpty

/-- The region shows a store exactly its latency after the arrival: where G2's latency is longer than G3's (R139). -/
def Derived.exact (g2 : Bool) (x : Derived) : Bool := g2 && x.kind != 6

/-- The bytes still old after each step of a store that replaced `old`: one step for each element it touches, in the order
of their places (R152; the order is DEDUCED, log 23). `now` gives the new bytes. -/
def Derived.steps (x : Derived) (old : List (Nat × Byte)) (now : Nat → Byte) : List (List (Nat × Byte)) :=
  let touched := old.filter (fun e => x.covers e.1)
  let w := laneWidth x.efmt
  if w = 4 then
    (touched.foldl (fun (t : List (List (Nat × Byte)) × List (Nat × Byte)) e =>
      let low := t.2.map (fun f => if f.1 = e.1 then (f.1, (f.2 &&& 0xF0) ||| (now f.1 &&& 0x0F)) else f)
      let high := t.2.filter (fun f => f.1 != e.1)
      (t.1 ++ [low, high], high)) ([], old)).1
  else
    let start (o : Nat) : Nat := o - (o - x.base) % x.rstr % (w / 8)
    (touched.foldl (fun (t : List (List (Nat × Byte)) × List (Nat × Byte)) e =>
      if t.2.any (fun f => f.1 == e.1) then
        let rest := t.2.filter (fun f => !(decide (start e.1 ≤ f.1 ∧ f.1 < start e.1 + w / 8)))
        (t.1 ++ [rest], rest)
      else t) ([], old)).1

/-- Bytes put at given keys. -/
def State.putAt (s : State) : List (Nat × Byte) → State
  | [] => s
  | (k, b) :: t => (s.setByte k b).putAt t

/-- One store into a node, in its arrival order and in cycle `t`, of bytes at given offsets: the bytes; poisoned granules written whole;
own stores still hidden from the node's reads, which a later store supersedes (R309); and each derived region whose base
it touches (R152, R153). -/
def State.nodeStoreAt (s : State) (d ring node : Nat) (l : List (Nat × Byte)) (t : Nat := s.cycle) : State :=
  let old := l.map (fun e => (e.1, s.byte (sramKey d ring node e.1)))
  let s := s.putAt (l.map (fun e => (sramKey d ring node e.1, e.2)))
  let hit (o : Nat) : Bool := l.any (fun e => e.1 == o)
  let s := { s with poison := s.poison.filter (fun e =>
    !(decide (sramKey d ring node 0 ≤ e.1) && (List.range 8).all (fun i => hit (e.1 + i - sramKey d ring node 0)))) }
  let m := s.mn d ring (slotOfNode node)
  let s := if m.recent.isEmpty then s
    else s.setMn d ring (slotOfNode node) { m with recent := m.recent.filter (fun e => !hit e.2.1) }
  (s.derivsOf d ring node).foldl (fun s e =>
    let x := e.2
    if old.any (fun b => x.covers b.1) then
      if x.building then s
      else
        let y := x.settle (s.die d).g2 s.cycle
        let bad := (y.steps old (s.nodeView d ring node [])).any (fun l => y.overflows (s.nodeView d ring node l))
        s.setDeriv d ring node e.1 (some { y with
          undo := y.undo ++ [⟨t, old, y.dovf, false⟩], dovf := y.dovf || (bad && y.dropAt.isNone) })
    else s) s

/-- One store of consecutive bytes. -/
def State.nodeStore (s : State) (d ring node off : Nat) (l : List Byte) (t : Nat := s.cycle) : State :=
  s.nodeStoreAt d ring node (l.mapIdx (fun i b => (off + i, b))) t

/-- The stores that an access arriving in this cycle finds reflected: a prefix of the arrived ones, chosen within R159. -/
def State.prefixOf (s : State) (g2 : Bool) (x : Derived) : Derived × State :=
  if x.dropAt.isSome then (x, s)
  else
    let y := x.settle g2 s.cycle
    let arrived := (y.undo.filter (fun e => decide (e.arrived < s.cycle))).length
    let (c, s) := s.free
    ({ y with undo := y.undo.drop (if y.exact g2 then 0 else Config.freeNat c % (arrived + 1)) }, s)

/-- A derived read of `n` bytes at offset `off` of the result array, arriving in this cycle: of a prefix of the arrived
stores, with the DOVF it leaves, which becomes the least prefix of later reads. -/
def State.derivRead (s : State) (d ring node dix off n : Nat) (x : Derived) : List Byte × State :=
  let (y, s) := s.prefixOf (s.die d).g2 x
  let old := (y.undo.map (·.old)).flatten
  let seen : Derived := { y with dovf := match y.undo with
    | e :: _ => e.dovf
    | [] => y.dovf }
  let rd := s.nodeView d ring node old
  ((List.range n).map (fun i => seen.resultByte rd (off + i)), s.setDeriv d ring node dix (some y))

/-- Shadow storage of one result element (R148). -/
def Derived.shEach (x : Derived) : Nat :=
  match x.kind with
  | 2 => 2 * ceilPow2 x.cols
  | 3 => 2 * ceilPow2 x.rows
  | 4 => 2 * ceilPow2 x.cols
  | 6 => 4
  | 7 => 2 * x.blk
  | _ => 32

/-- An uncorrectable error in the shadow storage that a derived read of `n` bytes at an offset consumes: that of the elements
it reads, which lies in element order (R148, R246; DEDUCED, log 23). -/
def State.shadowPoison (s : State) (d ring node off n : Nat) (x : Derived) : Bool :=
  let w := max x.rbits 1
  let lo := x.shBase + off * 8 / w * x.shEach
  let hi := x.shBase + min x.shSize (((off + n) * 8 + w - 1) / w * x.shEach)
  s.poison.any (fun e => e.2 && decide (sramKey d ring node lo < e.1 + 8 ∧ e.1 < sramKey d ring node hi))

/-- Later reads reflect every store that has arrived; a region with an exact latency keeps its own time (R139, R161). -/
def Derived.reflect (g2 : Bool) (now : Nat) (x : Derived) : Derived :=
  if x.exact g2 || x.dropAt.isSome then x
  else { x with undo := (x.undo.filter (fun e => decide (now ≤ e.arrived))).map (fun e => { e with must := true }) }

/-- Every store that has arrived at a node is reflected in its regions (R161, the drain of R40). -/
def State.reflectAll (s : State) (d ring node : Nat) : State :=
  (s.derivsOf d ring node).foldl (fun s e => s.setDeriv d ring node e.1 (some (e.2.reflect (s.die d).g2 s.cycle))) s

/-- A region of exact latency still leaves out a store that had arrived by cycle `t`. -/
def State.late (s : State) (d t : Nat) (x : Derived) : Bool :=
  x.exact (s.die d).g2 && x.dropAt.isNone && (x.settle (s.die d).g2 s.cycle).undo.any (fun e => decide (e.arrived ≤ t))

/-- A region of a node that a DWAIT of cycle `t` has to wait for. -/
def State.reflecting (s : State) (d ring node t : Nat) : Bool := (s.derivsOf d ring node).any (fun e => s.late d t e.2)

/-- A DDROP request arrives at its region: what the region shows is fixed (a free prefix, log 23), and the drop waits for
the updates that are pending (R151, R274). -/
def State.askDrop (s : State) (d ring node dix : Nat) (x : Derived) : State :=
  let g2 := (s.die d).g2
  let last := (x.settle g2 s.cycle).undo.foldl (fun t e => max t (e.arrived + x.latency g2)) s.cycle
  let (y, s) := s.prefixOf g2 x
  s.setDeriv d ring node dix (some { y with dropAt := some last })

/-- A region is dropped: its shadow storage is zero again (R151). -/
def State.dropDeriv (s : State) (d ring node dix : Nat) : State :=
  match s.deriv d ring node dix with
  | none => s
  | some x =>
    ((s.putBytes (sramKey d ring node x.shBase) (List.replicate x.shSize 0)).heal (sramKey d ring node x.shBase) x.shSize).setDeriv
      d ring node dix none

/-! ### The checks of a declaration (R147 to R149) -/

/-- Reserved fields and field values (status 0x02), for a node of `node` bytes. -/
def derivFieldsBad (node : Nat) (w : List Word) : Bool :=
  let x : Derived := ⟨w, false, false, [], none⟩
  let z (n lo k : Nat) : Bool := decide (bitsOf (x.word n) lo k ≠ 0)
  let size := laneWidth x.efmt
  let k := x.kind
  z 0 21 23 || z 2 42 22 || z 3 32 32 || z 3 23 1 || z 3 19 1 || z 3 13 3 || z 3 5 3 || z 5 16 48 || z 5 2 6 ||
  decide (x.word 6 ≠ 0 ∨ x.word 7 ≠ 0 ∨ x.rows = 0 ∨ x.cols = 0 ∨ x.efmt > 11) ||
  decide (x.rstr < x.rowBytes ∨ x.rstr % (max (size / 8) 1) ≠ 0) ||
  decide (x.shBase % 64 ≠ 0) ||
  decide (x.base + (x.rows - 1) * x.rstr + x.rowBytes > node) ||
  (if k = 0 ∨ k = 1 ∨ k = 5 then false else z 3 24 8) ||
  (if k = 6 then false else decide (x.word 4 ≠ 0) || z 5 8 8) ||
  (if k = 7 then false else z 5 1 1) ||
  (if k = 6 then decide (x.rfmt ≠ 10) || (!(match x.lo with | .nan | .inf _ => false | _ => true)) ||
      (!(match x.hi with | .nan | .inf _ => false | _ => true)) || !(ltNum x.lo x.hi)
   else if k = 7 then decide (x.rfmt < 3 ∨ x.rfmt > 7 ∨ x.cols % x.blk ≠ 0)
   else decide (x.rfmt > 11)) ||
  (if k = 2 ∨ k = 4 then decide (x.cols > 4096) else if k = 3 then decide (x.rows > 4096) else false)

/-- The shadow storage does not fit or overlaps (status 0x06). -/
def State.shadowBad (s : State) (d ring node : Nat) (w : List Word) : Bool :=
  let x : Derived := ⟨w, false, false, [], none⟩
  let lo := x.shBase
  let hi := x.shBase + x.shSize
  let cfg := (s.die d).act.mnCfg ring (slotOfNode node)
  decide (hi > nodeSize (s.die d).g2) ||
  cfg.shelf.any (fun e =>
    let b := bitsOf e.2 12 9 * 4096
    e.2.getLsbD 42 && decide (lo < b + (bitsOf e.2 45 3 + 1) * bitsOf e.2 32 9 * 4096 ∧ b < hi)) ||
  (s.derivsOf d ring node).any (fun e => decide (e.1 ≠ x.dix ∧ lo < e.2.shBase + e.2.shSize ∧ e.2.shBase < hi)) ||
  (List.range x.rows).any (fun i =>
    decide (lo < x.base + i * x.rstr + x.rowBytes ∧ x.base + i * x.rstr < hi))

end Sys2Proof.Machine
end

