-- ==== Sys2Proof/Machine/Access.lean ====
section
/-! DEFINITION. Address paths, translation, caches, and the loads and stores of control cores and engines
(R97 to R105, R112, R190, R209 to R212). -/

namespace Sys2Proof.Machine

/-! ### Layouts -/

/-- The linear (form-1) offset of a target-0 offset (R112). -/
def linOf (o : Nat) : Nat :=
  if o / 2 ^ 39 % 2 = 1 then o % 2 ^ 39
  else
    let st := o / 2 ^ 36 % 8
    let pch := o / 2 ^ 8 % 64
    let q := o / 2 ^ 14 % 2 ^ 22 * 256 + o % 256
    st * 2 ^ 36 + pch * 2 ^ 30 + q

/-- The linear offset of a column of a row of a bank (R112). -/
def linAt (stack pch bank row col : Nat) : Nat := stack * 2 ^ 36 + pch * 2 ^ 30 + row * 2 ^ 14 + bank * 2 ^ 10 + col

def pathOf (a : Word) : Nat := a.toNat / 2 ^ 60

/-! ### Translation (R100 to R103) -/

/-- Memory key of a physical address in target 0 or 1, for page tables. -/
def tableKey (pa : Nat) : Option Nat :=
  match pa / 2 ^ 48 with
  | 0 => if pa / 2 ^ 40 % 256 = 0 then some (stackKey (linOf (pa % 2 ^ 40))) else none
  | 1 => if pa / 2 ^ 40 % 256 = 0 then some (capKey (pa % 2 ^ 40)) else none
  | _ => none

/-- One page-table entry; tables are read under key slot 0. A poisoned one is consumed by the walk (R246). -/
def State.pte (s : State) (pa : Nat) : Except Nat Word :=
  match tableKey pa with
  | none => .error tPAGE
  | some k => if s.poisoned k 8 then .error tECC else .ok (leWord (s.plainBytes k (some 0) 8))

def pteFrame (e : Word) : Nat := bitsOf e 22 37

/-- A pointer entry uses V and FRAME only (R101). -/
def pointerOk (e : Word) : Bool := e.getLsbD 0 && decide (bitsOf e 1 21 = 0 ∧ bitsOf e 59 5 = 0)

/-- A leaf entry's own rules (R101, R102): level 1 is a block, level 2 a page. -/
def leafOk (e : Word) (lvl : Nat) : Bool :=
  let f := pteFrame e
  e.getLsbD 0 && decide (bitsOf e 59 5 = 0 ∧ bitsOf e 20 2 = 0 ∧ bitsOf e 9 1 = 0) &&
  (if lvl = 1 then !(e.getLsbD 7) && decide (f % 4096 = 0)
   else !(e.getLsbD 8) && (!(e.getLsbD 7) || decide (f % 64 = 0))) &&
  decide (f / 2 ^ 33 ≤ 4) &&
  (!(e.getLsbD 5) || (e.getLsbD 6 && e.getLsbD 7 && decide (f / 2 ^ 33 = 0 ∧ f / 2 ^ 24 % 2 = 1)))

/-- A walk of the table: the leaf and its level, or the trap (R101, R102). The entry of a page inside a RUN64 run is its
own (log 7). -/
def State.walk (s : State) (ptbase : Word) (va : Nat) : Except Nat (Word × Nat) :=
  match s.pte (ptbase.toNat % 2 ^ 52 / 4096 * 4096 + 8 * (va / 2 ^ 39 % 512)) with
  | .error c => .error c
  | .ok e0 => if !(pointerOk e0) then .error tPAGE else
    match s.pte (pteFrame e0 * 2 ^ 15 + 8 * (va / 2 ^ 27 % 4096)) with
    | .error c => .error c
    | .ok e1 =>
      if e1.getLsbD 8 then (if leafOk e1 1 then .ok (e1, 1) else .error tPAGE)
      else if !(pointerOk e1) then .error tPAGE else
        match s.pte (pteFrame e1 * 2 ^ 15 + 8 * (va / 2 ^ 15 % 4096)) with
        | .error c => .error c
        | .ok e2 => if leafOk e2 2 then .ok (e2, 2) else .error tPAGE

/-- The physical address of a leaf. -/
def leafAddr (e : Word) (lvl va : Nat) : Nat :=
  pteFrame e * 2 ^ 15 + (if lvl = 1 then va % 2 ^ 27 else if e.getLsbD 7 then va % 2 ^ 21 else va % 2 ^ 15)

/-- The translation used for a page: a TLB may supply its older one instead of the table's (R100, log 7). `eng` names a stream
engine. -/
def State.xlate (s : State) (d : Nat) (eng : Option Nat) (va : Nat) : Except Nat (Word × Nat) :=
  let x := s.die d
  let page := va / 2 ^ 15
  let own := match eng with
    | some n => tget none (tget ({} : Engine) x.engines n).tlb page
    | none => none
  let held := match own with
    | some e => some e
    | none => tget none x.tlb page
  let now := s.walk x.core.ptbase va
  match held with
  | some e => if now.toOption = some e then now else if Config.freeBit s.freeCtr then .ok e else now
  | none => now

/-- The kinds of access a page grants (R101), with the path uses of R98. -/
inductive Use where
  | ld | st | amo | fetch | ssrc | sdst
  deriving DecidableEq, Repr

/-- Rights of a leaf (R102): R, W or X as the access needs, U for a K-mode access. -/
def rightsOk (e : Word) (u : Use) (smode : Bool) : Bool :=
  (match u with
   | .ld => e.getLsbD 1
   | .ssrc => e.getLsbD 1
   | .st => e.getLsbD 2
   | .sdst => e.getLsbD 2
   | .amo => e.getLsbD 1 && e.getLsbD 2
   | .fetch => e.getLsbD 3) && (smode || e.getLsbD 4)

/-- The key slot of a page may be used by the launch (R242). -/
def State.keyOk (s : State) (l : Launch) (n : Nat) (smode : Bool) : Bool :=
  match s.keySlot n with
  | none => false
  | some k => n == 0 || smode || k.dom == l.keydom

/-- The place a node offset names, for a launch die index (R97, R105, R139). -/
def State.nodeLoc (s : State) (d : Nat) (l : Launch) (di ring node off : Nat) (out : Nat) : Except Nat Loc :=
  match s.physDie l di with
  | none => .error out
  | some none => .ok { tgt := 9, key := 0, ring, node, off }
  | some (some pd) =>
    let g2 := (s.die d).g2
    if ringsOf g2 ≤ ring ∨ nodesOf g2 ≤ node ∨ nodeSize g2 ≤ off then .error tACCESS
    else .ok { tgt := 2, key := sramKey pd ring node off, die := pd, ring, node, off }

/-- The place of a physical address for a launch (R103, R105). -/
def State.physLoc (s : State) (d : Nat) (l : Launch) (pa keyid : Nat) (smode : Bool) : Except Nat Loc :=
  match pa / 2 ^ 48 with
  | 0 => if pa / 2 ^ 40 % 256 ≠ 0 then .error tPAGE
         else if s.keyOk l keyid smode then .ok { tgt := 0, key := stackKey (linOf (pa % 2 ^ 40)), slot := some keyid }
         else .error tACCESS
  | 1 => if pa / 2 ^ 40 % 256 ≠ 0 then .error tPAGE
         else if s.keyOk l keyid smode then .ok { tgt := 1, key := capKey (pa % 2 ^ 40), slot := some keyid }
         else .error tACCESS
  | 2 => if pa / 2 ^ 31 % 2 ≠ 0 then .error tPAGE
         else s.nodeLoc d l (pa / 2 ^ 32 % 2 ^ 16) (pa / 2 ^ 25 % 64) (pa / 2 ^ 21 % 16) (pa % 2 ^ 21) tPAGE
  | 3 => .ok { tgt := 3, key := hostKey (pa % 2 ^ 48) }
  | 4 => if pa / 2 ^ 18 % 2 ^ 30 ≠ 0 then .error tPAGE else .ok { tgt := 4, key := mmioKey (pa % 2 ^ 18), off := pa % 2 ^ 18 }
  | _ => .error tPAGE

/-- The launch a die's accesses belong to; firmware's own accesses belong to none. -/
def State.launchAt (s : State) (d : Nat) : Launch :=
  match s.launchOf d with
  | some l => s.launch l
  | none => {}

/-- A GEN, CONST or fetch access (R100 to R103). -/
def State.genLoc (s : State) (d : Nat) (eng : Option Nat) (a : Word) (u : Use) (smode : Bool) : Except Trap Loc :=
  if bitsOf a 48 12 ≠ 0 then .error ⟨tACCESS, a⟩
  else
    let va := bitsOf a 0 48
    match s.xlate d eng va with
    | .error c => .error ⟨c, a⟩
    | .ok (e, lvl) =>
      if !(rightsOk e u smode) then .error ⟨tACCESS, a⟩
      else match s.physLoc d (s.launchAt d) (leafAddr e lvl va) (bitsOf e 10 10) smode with
        | .error c => .error ⟨c, a⟩
        | .ok loc => .ok { loc with pte := some (va / 2 ^ 15, e, lvl) }

/-- A buffer of `cap` translations takes one more; a full one gives up an entry, which one is left open (R100, log 7). -/
def tlbPut (cap free : Nat) (t : Tab (Option (Word × Nat))) (page : Nat) (e : Word × Nat) : Tab (Option (Word × Nat)) :=
  let t := if (tget none t page).isNone ∧ cap ≤ t.length then t.eraseIdx (Config.freeNat free % t.length) else t
  tset none t page (some e)

/-- A drawer that a refresh takeover evicted is open again once its row is accessed, on whatever path (R191). -/
def State.reopenRow (s : State) (key : Nat) : State :=
  if spaceOf key ≠ 1 then s
  else
    let lin := key % 2 ^ 60
    let x := s.stack (lin / 2 ^ 36 % 8)
    let bank := 16 * (lin / 2 ^ 30 % 64) + lin / 2 ^ 10 % 16
    match x.drawers.find? (fun e => decide (e.1 / 4 = bank) && e.2.evicted && e.2.row == some (lin / 2 ^ 14 % 2 ^ 16)) with
    | none => s
    | some (k, d) => s.setStack (lin / 2 ^ 36 % 8) { x with drawers := tset {} x.drawers k { d with evicted := false } }

/-- What an access leaves behind: its translation in the TLBs it went through (64 entries in an engine, 16,384 in a die,
R100), and an evicted drawer reopened. -/
def State.noteXlate (s : State) (d : Nat) (eng : Option Nat) (loc : Loc) : State :=
  let s := if loc.tgt = 0 then s.reopenRow loc.key else s
  match loc.pte with
  | none => s
  | some (page, e, lvl) =>
    let x := s.die d
    let x := { x with tlb := tlbPut 16384 s.freeCtr x.tlb page (e, lvl) }
    let x := match eng with
      | some n =>
        let g := tget ({} : Engine) x.engines n
        { x with engines := tset {} x.engines n { g with tlb := tlbPut 64 (s.freeCtr + 1) g.tlb page (e, lvl) } }
      | none => x
    { s.setDie d x with freeCtr := s.freeCtr + 2 }

/-! ### Paths (R97, R98) -/

/-- Whether a use of a path is allowed; the trap otherwise (R98). -/
def pathTrap (p : Nat) (u : Use) (smode : Bool) : Option Nat :=
  match p, u with
  | 0, _ => none
  | 1, _ => none
  | 2, .ld => none
  | 2, .ssrc => none
  | 3, .ld => none
  | 3, .ssrc => none
  | 4, .ld => none
  | 4, .ssrc => none
  | 5, .amo => some tACCESS
  | 5, _ => none
  | 6, _ => if smode then none else some tPRIV
  | 7, _ => if smode then none else some tPRIV
  | 8, .ssrc => none
  | 9, _ => none
  | _, _ => some tACCESS

/-- The drawer a LINE handle names (R188): pseudo-channel, bank, slot, generation. -/
def hPch (h : Nat) : Nat := h / 2 ^ 10 % 64
def hBank (h : Nat) : Nat := h / 2 ^ 6 % 16
def hSlot (h : Nat) : Nat := h / 2 ^ 4 % 4
def hGen (h : Nat) : Nat := h % 16
def drawerKey (pch bank slot : Nat) : Nat := (16 * pch + bank) * 4 + slot

def State.drawer (s : State) (st h : Nat) : Drawer := tget {} (s.stack st).drawers (drawerKey (hPch h) (hBank h) (hSlot h))

/-- The row a launch holds under a handle. -/
def State.heldRow (s : State) (l st h : Nat) : Option Drawer :=
  let x := s.drawer st h
  match x.row with
  | some _ => if x.owner = l ∧ x.gen.toNat = hGen h ∧ !x.resv then some x else none
  | none => none

def State.lineLoc (s : State) (d : Nat) (a : Word) : Except Trap Loc :=
  if bitsOf a 56 1 ≠ 0 ∨ bitsOf a 10 30 ≠ 0 then .error ⟨tACCESS, a⟩
  else
    let st := bitsOf a 57 3
    let h := bitsOf a 40 16
    match s.heldRow ((s.launchOf d).getD 0) st h, s.launchOf d with
    | some x, some _ => .ok { tgt := 0, key := stackKey (linAt st (hPch h) (hBank h) (x.row.getD 0) (bitsOf a 0 10)),
                              slot := some x.key }
    | _, _ => .error ⟨tLINE, a⟩

/-- Where an access of a core or an engine of die `d` lands, for every path but VIEW and DERIV. -/
def State.locate (s : State) (d : Nat) (eng : Option Nat) (a : Word) (u : Use) (smode : Bool) : Except Trap Loc :=
  match pathTrap (pathOf a) u smode with
  | some c => .error ⟨c, a⟩
  | none =>
    match pathOf a with
    | 0 => s.genLoc d eng a u smode
    | 1 =>
      if bitsOf a 21 23 ≠ 0 then .error ⟨tACCESS, a⟩
      else match s.nodeLoc d (s.launchAt d) (bitsOf a 54 6) (bitsOf a 48 6) (bitsOf a 44 4) (bitsOf a 0 21) tACCESS with
        | .error c => .error ⟨c, a⟩
        | .ok loc => .ok loc
    | 2 => s.genLoc d eng a u smode
    | 5 => s.lineLoc d a
    | 6 => if bitsOf a 40 20 ≠ 0 then .error ⟨tACCESS, a⟩
           else .ok { tgt := 0, key := stackKey (linOf (bitsOf a 0 40)), slot := some 0 }
    | 7 => if bitsOf a 40 20 ≠ 0 then .error ⟨tACCESS, a⟩ else .ok { tgt := 1, key := capKey (bitsOf a 0 40), slot := some 0 }
    | 9 => if bitsOf a 52 8 ≠ 0 then .error ⟨tACCESS, a⟩ else .ok { tgt := 3, key := hostKey (bitsOf a 0 52) }
    | _ => .error ⟨tACCESS, a⟩

/-! ### Reading and writing a place -/

/-- A byte of the launch-queue apertures (R12, R13). -/
def State.mmioByte (s : State) (off : Nat) : Byte :=
  let q := s.queue (off / 0x4000)
  let o := off % 0x4000
  let b (w : Word) (base : Nat) : Byte := w.extractLsb' (8 * (o - base)) 8
  if o < 0x2000 then s.byte (mmioKey off)
  else if o < 0x2008 then b q.nextseq 0x2000
  else if o < 0x2010 then b q.consumed 0x2008
  else if o < 0x2018 then
    b (BitVec.ofNat 64 ((if q.qstate = 2 then q.booterr.toNat else 0) * 256 + q.qstate.toNat)) 0x2010
  else 0

def State.mmioBytes (s : State) (off : Nat) : Nat → List Byte
  | 0 => []
  | n + 1 => s.mmioByte off :: s.mmioBytes (off + 1) n

/-- `n` bytes of a place, for the address `a` of the access. -/
def State.readLoc (s : State) (loc : Loc) (a : Word) (n : Nat) : Except Trap (List Byte) :=
  match loc.tgt with
  | 4 => .ok (s.mmioBytes loc.off n)
  | 9 => .ok ((List.range n).map (fun i => Config.remoteByte s.freeCtr (a.toNat + i)))
  | t =>
    if s.poisoned loc.key n then .error ⟨tECC, a⟩
    else if t = 2 ∧ s.inShadow loc.die loc.ring loc.node loc.off n then .error ⟨tACCESS, a⟩
    else .ok (s.plainBytes loc.key loc.slot n)

/-- Writes to record slots are kept, writes to the rest of an aperture are ignored (R13). -/
def State.mmioStore (s : State) (off : Nat) : List Byte → State
  | [] => s
  | b :: t => (if off % 0x4000 < 0x2000 then s.setByte (mmioKey off) b else s).mmioStore (off + 1) t

/-- Bytes performed at a place; a store into a node takes its place in the node's arrival order, one into a row of an evicted
drawer reopens it (R191). -/
def State.writeLoc (s : State) (loc : Loc) (l : List Byte) : State :=
  match loc.tgt with
  | 2 => s.nodeStore loc.die loc.ring loc.node loc.off l
  | 4 => s.mmioStore loc.off l
  | 9 => s
  | _ => (s.reopenRow loc.key).store loc.key loc.slot l

/-! ### Views (R99) -/

def View.w (v : List Word) (n : Nat) : Word := (v[n]?).getD 0

/-- What a party reads of bytes that a store has changed for the storing die, or for the dies, alone (R207, R208, log 5): `rd`
the reader's die (none: no party of a die), `host` the host. It may find the bytes of before; once it finds the new ones,
every party does. -/
def State.lookBack (s : State) (rd : Option Nat) (host : Bool) (key : Nat) (slot : Option Nat) (l : List Byte) : List Byte × State :=
  let meets (e : Stale) : Bool := decide (e.key < key + l.length ∧ key < e.key + e.new.length)
  let same (e : Stale) : Bool := (List.range l.length).all (fun i =>
    decide (key + i < e.key ∨ e.key + e.new.length ≤ key + i) || l[i]? == e.new[key + i - e.key]?)
  match s.stale.find? (fun e => meets e && rd != some e.die && (host || !e.host) && e.slot == slot && same e) with
  | none => (l, s)
  | some e =>
    if Config.freeBit s.freeCtr then
      (l.mapIdx (fun i b => if e.key ≤ key + i then (e.old[key + i - e.key]?).getD b else b), { s with freeCtr := s.freeCtr + 1 })
    else (l, { s with freeCtr := s.freeCtr + 1, stale := s.stale.filter (fun e => !meets e) })

/-- Bytes read through GEN for a plane. -/
def State.genBytes (s : State) (d : Nat) (eng : Option Nat) (a : Word) (n : Nat) : Except Trap (List Byte × State) :=
  match s.genLoc d eng a .ld false with
  | .error t => .error t
  | .ok loc => match s.readLoc loc a n with
    | .error t => .error t
    | .ok l => .ok ((s.noteXlate d eng loc).lookBack (some d) false loc.key loc.slot l)

/-- Element (i, j) of a view as FP16 by RNE. -/
def State.viewElem (s : State) (d : Nat) (eng : Option Nat) (v : List Word) (i j : Nat) : Except Trap (Nat × State) :=
  let fmt := bitsOf (View.w v 0) 0 8
  let w := laneWidth fmt
  let at_ (base stride col : Nat) : Word := View.w v base + BitVec.ofNat 64 ((View.w v stride).toNat * i + col)
  match s.genBytes d eng (at_ 2 3 (j * w / 8)) 1 with
  | .error t => .error t
  | .ok (e, s) =>
    let x := if w = 4 then (if j % 2 = 0 then leNat e % 16 else leNat e / 16) else leNat e
    let ssz := if isSx fmt then 4 else 1
    match s.genBytes d eng (at_ 4 5 ((if fmt = 20 then j / 64 else j / 32) * ssz)) ssz with
    | .error t => .error t
    | .ok (sc, s) =>
      if fmt = 20 then
        match s.genBytes d eng (at_ 6 7 (j / 16384 * 4)) 4 with
        | .error t => .error t
        | .ok (q, s) => .ok (((ffmt 1).round 0 (decodeBlock fmt x (leNat sc) (leNat q)).1).1, s)
      else .ok (((ffmt 1).round 0 (decodeBlock fmt x (leNat sc) 0).1).1, s)

/-- `n` elements from linear element index `e`. -/
def State.viewElems (d : Nat) (eng : Option Nat) (v : List Word) (cols : Nat) : Nat → Nat → State → Except Trap (List Byte × State)
  | _, 0, s => .ok ([], s)
  | e, n + 1, s =>
    match s.viewElem d eng v (e / cols) (e % cols) with
    | .error t => .error t
    | .ok (x, s) => match State.viewElems d eng v cols (e + 1) n s with
      | .error t => .error t
      | .ok (r, s) => .ok (leBytes 2 x ++ r, s)

/-- A VIEW read of `n` bytes, through the die's view cache of decoded 64 B lines (R209). -/
def State.viewRead (s : State) (d : Nat) (eng : Option Nat) (a : Word) (n : Nat) : Except Trap (List Byte × State) :=
  let v := tget [] (s.die d).act.views (bitsOf a 56 4)
  let off := bitsOf a 0 56
  let cols := bitsOf (View.w v 0) 32 32
  let size := 2 * bitsOf (View.w v 1) 0 32 * cols
  if !((View.w v 0).getLsbD 8) ∨ size < off + n then .error ⟨tACCESS, a⟩
  else
    let line := a.toNat / 64
    let o := off % 64
    let hit := match tget none (s.die d).vcache line with
      | some b => if Config.freeBit s.freeCtr then some b else none
      | none => none
    match hit with
    | some b => .ok ((leBytes 64 b.toNat).drop o |>.take n, { s with freeCtr := s.freeCtr + 1 })
    | none =>
      match State.viewElems d eng v cols (off / 64 * 32) (min 32 (size / 2 - off / 64 * 32)) s with
      | .error t => .error t
      | .ok (l, s) =>
        let x := s.die d
        let s := s.setDie d { x with vcache := tset none x.vcache line (some (BitVec.ofNat 512 (leNat l))) }
        .ok ((l.drop o).take n, { s with freeCtr := s.freeCtr + 1 })

/-! ### Derived reads by path (R160) -/

def State.derivPath (s : State) (d : Nat) (a : Word) (n : Nat) : Except Trap (List Byte × State) :=
  match s.physDie (s.launchAt d) (bitsOf a 54 6) with
  | none => .error ⟨tACCESS, a⟩
  | some none => .ok ((List.range n).map (fun i => Config.remoteByte s.freeCtr (a.toNat + i)), { s with freeCtr := s.freeCtr + 1 })
  | some (some pd) =>
    let dix := bitsOf a 40 4
    match (if dix < 8 then s.deriv pd (bitsOf a 48 6) (bitsOf a 44 4) dix else none) with
    | none => .error ⟨tACCESS, a⟩
    | some x =>
      if x.building ∨ x.arrayLen ≤ bitsOf a 0 40 then .error ⟨tACCESS, a⟩
      else if s.shadowPoison pd (bitsOf a 48 6) (bitsOf a 44 4) (bitsOf a 0 40) n x then .error ⟨tECC, a⟩
      else .ok (s.derivRead pd (bitsOf a 48 6) (bitsOf a 44 4) dix (bitsOf a 0 40) n x)

/-! ### Loads and stores of a core -/

/-- The store lies on a path, or its core sees it on every path. -/
def PendSt.on (e : PendSt) (p : Nat) : Bool := pathOf e.addr == p || e.core

/-- A path that no store takes: an instruction fetch sees a store of its core only once a fence has performed it. -/
def fetchPath : Nat := 16

/-- The core's own stores in flight, on the path of a load, laid over the bytes it reads (R207). -/
def overlay (q : List PendSt) (p : Nat) (loc : Loc) (l : List Byte) : List Byte :=
  q.foldl (fun l e =>
    if e.on p ∧ e.loc.tgt = loc.tgt then
      l.mapIdx (fun i b => if e.loc.key ≤ loc.key + i then (e.bytes[loc.key + i - e.loc.key]?).getD b else b)
    else l) l

/-- The line of a place under a key slot, as the caches name it: the stored bytes, whatever address leads to them. -/
def Loc.line (l : Loc) : Nat := l.key / 64 * 1025 + (match l.slot with
  | some n => n + 1
  | none => 0)

/-- A read of one line through the data or the constant cache (R209); `const` chooses. A line with an uncorrectable error
elsewhere than in what is read stays out of the cache (R246). -/
def State.cachedRead (s : State) (d : Nat) (const : Bool) (a : Word) (loc : Loc) (n : Nat) : Except Trap (List Byte × State) :=
  let c := s.core d
  let line := loc.line
  let o := a.toNat % 64
  let hit := match tget none (if const then c.ccache else c.dcache) line with
    | some b => if Config.freeBit s.freeCtr then some b else none
    | none => none
  match hit with
  | some b => .ok (((leBytes 64 b.toNat).drop o).take n, { s with freeCtr := s.freeCtr + 1 })
  | none =>
    match s.readLoc loc a n with
    | .error t => .error t
    | .ok _ =>
      let (l, s) := s.lookBack (some d) false (loc.key / 64 * 64) loc.slot (s.plainBytes (loc.key / 64 * 64) loc.slot 64)
      let l := overlay c.stq (pathOf a) { loc with key := loc.key / 64 * 64 } l
      let b := if s.poisoned (loc.key / 64 * 64) 64 then none else some (BitVec.ofNat 512 (leNat l))
      let c := if const then { c with ccache := tset none c.ccache line b } else { c with dcache := tset none c.dcache line b }
      .ok ((l.drop o).take n, { s.setCore d c with freeCtr := s.freeCtr + 1 })

/-- The phase of a die raises the launch's class to N when its core or an engine reads over HOST or REMOTE (R86). -/
def State.noteHostRead (s : State) (d p : Nat) : State :=
  if (s.die d).phase ∧ (p = 8 ∨ p = 9) then
    match s.launchOf d with
    | some l => s.setLaunch l { s.launch l with cls := 2 }
    | none => s
  else s

/-- A load performed now by the core of die `d`: its bytes and the place its path names. `bypass` for WAITV, atomics and
KEYLD, which go round the data cache and leave it no older line (R207, R209, R212). -/
def State.loadNow (s : State) (d : Nat) (a : Word) (n : Nat) (bypass : Bool) : Except Trap (List Byte × Nat × State) :=
  let sm := (s.core d).smode
  match pathTrap (pathOf a) .ld sm with
  | some c => .error ⟨c, a⟩
  | none =>
    match pathOf a with
    | 3 => match s.viewRead d none a n with
      | .error t => .error t
      | .ok (l, s) => .ok (l, a.toNat / 64, s)
    | 4 => match s.derivPath d a n with
      | .error t => .error t
      | .ok (l, s) => .ok (l, a.toNat / 64, s)
    | p =>
      match s.locate d none a .ld sm with
      | .error t => .error t
      | .ok loc =>
        let s := s.noteXlate d none loc
        let cached := decide (loc.tgt ≤ 1 ∨ p = 2 ∧ loc.tgt ≠ 4 ∧ loc.tgt ≠ 9) && (p == 2 || p == 0 && !bypass)
        if cached then match s.cachedRead d (p == 2) a loc n with
          | .error t => .error t
          | .ok (l, s) => .ok (l, loc.line, s)
        else match s.readLoc loc a n with
          | .error t => .error t
          | .ok l =>
            let (l, s) := s.lookBack (some d) false loc.key loc.slot l
            let c := s.core d
            .ok (overlay c.stq p loc l, loc.line,
              if p = 0 then s.setCore d { c with dcache := tset none c.dcache loc.line none } else s)

/-- Two places of a path lie in one line, under whatever key slots. -/
def onePlace (p a b : Nat) : Bool := a == b || (p != 3 && p != 4 && a / 1025 == b / 1025)

/-- The bytes that the core has read early at a place. -/
def Core.earlyAt (c : Core) (p place : Nat) : Option Early := c.early.find? (fun e => e.path == p && e.place == place)

/-- What was read early at places of a path is forgotten. -/
def Core.dropEarly (c : Core) (f : Early → Bool) : Core := { c with early := c.early.filter (fun e => !f e) }

/-- A load by the core of die `d`. Where the core has read the place early, each aligned 8 bytes may be those read then, or
the present ones, and no later load takes older ones (R205, R207, R211); a derived read takes all of its bytes from one read
(R160). `bypass` as for `loadNow`; an `ordered` load is performed in its place in the program. -/
def State.loadBytes (s : State) (d : Nat) (a : Word) (n : Nat) (bypass : Bool := false) (ordered : Bool := false) :
    Except Trap (List Byte × State) :=
  match s.loadNow d a n bypass with
  | .error t => .error t
  | .ok (l, place, s) =>
    let s := s.noteHostRead d (pathOf a)
    let s := s.setCore d ((s.core d).dropEarly (fun x => x.path == pathOf a && x.place != place && onePlace x.path x.place place))
    let c := s.core d
    match c.earlyAt (pathOf a) place with
    | none => .ok (l, s)
    | some e =>
      let o := a.toNat % 64
      let was := leBytes 64 e.bytes.toNat
      let whole := decide (pathOf a = 1 ∧ n = 64 ∨ pathOf a = 4)
      let l' := if bypass || ordered then l else l.mapIdx (fun i b =>
        if Config.freeBit (s.freeCtr + (if whole then 0 else i / 8)) then (was[o + i]?).getD b else b)
      let e' := { e with bytes := BitVec.ofNat 512 (leNat (was.take o ++ l' ++ was.drop (o + n))) }
      .ok (l', { s.setCore d { c with early := c.early.map (fun x => if x = e then e' else x) } with freeCtr := s.freeCtr + 8 })

/-- The core performs a load of some line before its place in the program: a free address, whose bytes a later load of the
line may return (R205, log 5). A load that would fault leaves nothing. -/
def State.loadEarly (s : State) (d : Nat) : State :=
  let (k, s) := s.free
  let a := BitVec.ofNat 64 ((Config.freeWord k).toNat / 64 * 64)
  match s.loadNow d a 64 false with
  | .error _ => s
  | .ok (l, place, s) =>
    let e : Early := ⟨pathOf a, place, BitVec.ofNat 512 (leNat l)⟩
    let c := (s.core d).dropEarly (fun x => x.path == e.path && x.place == e.place)
    s.setCore d { c with early := e :: c.early }

/-- What a store of the core changes at once: a data-cache line that holds the bytes (R209), and what it has read early on
the store's path (R207). -/
def Core.stored (c : Core) (p : Nat) (loc : Loc) (l : List Byte) : Core :=
  let c := c.dropEarly (fun e => e.path == p && onePlace p e.place loc.line)
  if p ≠ 0 then c
  else
    let same (e : Nat) : Bool := decide (e / 1025 = loc.key / 64)
    { c with dcache := c.dcache.foldl (fun t e =>
        if !same e.1 then t
        else if e.1 ≠ loc.line then tset none t e.1 none
        else match e.2 with
          | none => t
          | some b =>
            let o := loc.key % 64
            let old := leBytes 64 b.toNat
            tset none t e.1 (some (BitVec.ofNat 512 (leNat (old.take o ++ l ++ old.drop (o + l.length)))))) c.dcache }

/-- An atomic drops the issuing core's data-cache line (R255), and what it has read early on its path. -/
def State.cacheDrop (s : State) (d p : Nat) (loc : Loc) : State :=
  let c := (s.core d).dropEarly (fun e => e.path == p && onePlace p e.place loc.line)
  s.setCore d { c with dcache := c.dcache.foldl (fun t e => if e.1 / 1025 = loc.key / 64 then tset none t e.1 none else t) c.dcache }

/-- The stores that one store instruction makes: one for a node (R152), one for each aligned 8 B elsewhere (R211). -/
def storePieces (loc : Loc) (a : Word) (l : List Byte) (seq : Nat) : List PendSt :=
  if loc.tgt = 2 then [⟨{ loc with pte := none }, l, a, false, seq, false⟩]
  else (chunks 8 ((l.length + 7) / 8) l).mapIdx (fun i b =>
    ⟨{ loc with pte := none, key := loc.key + 8 * i, off := loc.off + 8 * i }, b, a + BitVec.ofNat 64 (8 * i), false, seq,
      decide (l.length = 64)⟩)

/-- A store by the core of die `d`: it is in flight until it is performed (R152, R205, log 5). -/
def State.storeBytes (s : State) (d : Nat) (a : Word) (l : List Byte) : Except Trap State :=
  match s.locate d none a .st (s.core d).smode with
  | .error t => .error t
  | .ok loc =>
    let s := s.noteXlate d none loc
    let c := (s.core d).stored (pathOf a) loc l
    .ok (s.setCore d { c with stq := c.stq ++ storePieces loc a l c.stSeq, stSeq := c.stSeq + 1 })

/-- Two stores in flight touch one byte. -/
def PendSt.meets (a b : PendSt) : Bool :=
  a.loc.tgt == b.loc.tgt && decide (a.loc.key < b.loc.key + b.bytes.length ∧ b.loc.key < a.loc.key + a.bytes.length)

/-- Store `k` in flight may be performed now: an earlier one to the same bytes on its path, or one that the core sees on
every path, goes first (R205, R207). -/
def Core.mayArrive (c : Core) (k : Nat) : Bool :=
  match c.stq[k]? with
  | none => false
  | some e => !(c.stq.take k).any (fun b => b.meets e && b.on (pathOf e.addr))

/-- The last piece of a store that writes a granule whole heals it (R246). -/
def State.healWhole (s : State) (d : Nat) (e : PendSt) : State :=
  if e.whole && !(s.core d).stq.any (fun f => f.seq == e.seq) then s.heal (e.loc.key / 64 * 64) 64 else s

/-- A store is performed: for every party, or, as long as nothing asks for more, for its own die or for the dies alone (R207,
log 5). `old` are the bytes of before. -/
def State.noteStale (s : State) (d : Nat) (e : PendSt) (old : List Byte) : State :=
  let c := s.freeCtr
  { s with
    freeCtr := c + 2
    stale := if spaceOf e.loc.key ≤ 3 ∧ e.loc.tgt ≠ 9 ∧ Config.freeBit c then
      s.stale ++ [⟨d, e.seq, e.loc.key, e.loc.slot, old, e.bytes, Config.freeBit (c + 1)⟩] else s.stale }

/-- Store `k` in flight, to no node, is performed (R205). -/
def State.performStore (s : State) (d k : Nat) : State :=
  let c := s.core d
  match c.stq[k]? with
  | none => s
  | some e =>
    if e.loc.tgt = 2 ∨ !c.mayArrive k then s
    else (((s.setCore d { c with stq := c.stq.eraseIdx k }).writeLoc e.loc e.bytes).healWhole d e).noteStale d e
      (s.plainBytes e.loc.key e.loc.slot e.bytes.length)

/-- Store `k` performed for some parties is performed for the dies, or for all. -/
def State.spreadStore (s : State) (k : Nat) : State :=
  match s.stale[k]? with
  | none => s
  | some e =>
    let (c, s) := s.free
    { s with stale := if !e.host && Config.freeBit c then s.stale.set k { e with host := true } else s.stale.eraseIdx k }

/-- Every store in flight of a core is performed for every party, in program order; one into shadow storage is not (R149,
R217). -/
def State.performAll (s : State) (d : Nat) : State :=
  let s := (s.core d).stq.foldl (fun s e =>
    if e.loc.tgt = 2 ∧ s.inShadow e.loc.die e.loc.ring e.loc.node e.loc.off e.bytes.length then s
    else s.writeLoc e.loc e.bytes) (s.setCore d { s.core d with stq := [] })
  { s with stale := s.stale.filter (fun e => e.die != d) }

/-- Words of a store, byte by byte. -/
def wordsBytes (l : List Word) : List Byte := (l.map (fun w => leBytes 8 w.toNat)).flatten

/-- Words of a loaded byte list. -/
def bytesWords (n : Nat) (l : List Byte) : List Word := (chunks 8 n l).map leWord

/-- Bytes read as control-core loads of at most 16 B each in address order (TLOAD, RDIG, KEYLD, ATTQ); `ordered` when they
are performed in that order too. -/
def State.loadRange (s : State) (d : Nat) (bypass ordered : Bool) : Nat → Word → Nat → Except Trap (List Byte × State)
  | 0, _, _ => .ok ([], s)
  | fuel + 1, a, n =>
    if n = 0 then .ok ([], s)
    else
      let k := min n (16 - a.toNat % 16)
      match s.loadBytes d a k bypass ordered with
      | .error t => .error t
      | .ok (l, s') => match s'.loadRange d bypass ordered fuel (a + BitVec.ofNat 64 k) (n - k) with
        | .error t => .error t
        | .ok (r, s'') => .ok (l ++ r, s'')

/-- Bytes stored as control-core stores of at most 8 B each. -/
def State.storeRange (s : State) (d : Nat) : Nat → Word → List Byte → Except Trap State
  | 0, _, _ => .ok s
  | fuel + 1, a, l =>
    if l.isEmpty then .ok s
    else
      let k := min l.length (8 - a.toNat % 8)
      match s.storeBytes d a (l.take k) with
      | .error t => .error t
      | .ok s' => s'.storeRange d fuel (a + BitVec.ofNat 64 k) (l.drop k)

end Sys2Proof.Machine
end

