-- ==== Sys2Proof/Machine/CoreAlu.lean ====
section
/-! DEFINITION. Control-core arithmetic, logic, shifts, moves and predicates (R254, R258, R267, R268, R271, R275, R313,
R316 to R319, R326, R332, R344, R358, R375). -/

namespace Sys2Proof.Machine

/-- A guarded three-register form: `a[D] := f a[S1] a[S2]`. -/
def alu3 (s : State) (d x y : BitVec 6) (g : BitVec 4) (f : Word → Word → Word) : Out :=
  guarded s g (fun s => .next (s.ret d (f (s.cc.get x) (s.cc.get y))))

/-- An immediate form without a guard: `a[D] := f a[S1] SignExtend(imm10)`. -/
def aluI (s : State) (d x : BitVec 6) (i : BitVec 10) (f : Word → Word → Word) : Out :=
  .next (s.ret d (f (s.cc.get x) (i.signExtend 64)))

/-- A shift by an unsigned immediate. -/
def shiftI (s : State) (d x : BitVec 6) (i : BitVec 10) (f : Word → Nat → Word) : Out :=
  .next (s.ret d (f (s.cc.get x) i.toNat))

/-- The shift amount of a register form: a[S2][5:0] (R344). -/
def shiftBy (f : Word → Nat → Word) (x y : Word) : Word := f x (y.toNat % 64)

/-- CNOP (R268). -/
def execCnop (_g : BitVec 4) (s : State) : Out := .next s.adv
/-- ADD (R254). -/
def execAdd (d x y : BitVec 6) (g : BitVec 4) (s : State) : Out := alu3 s d x y g (fun a b => a + b)
/-- ADDI (R254). -/
def execAddi (d x : BitVec 6) (i : BitVec 10) (s : State) : Out := aluI s d x i (fun a b => a + b)
/-- SUB (R358). -/
def execSub (d x y : BitVec 6) (g : BitVec 4) (s : State) : Out := alu3 s d x y g (fun a b => a - b)
/-- MUL (R319). -/
def execMul (d x y : BitVec 6) (g : BitVec 4) (s : State) : Out := alu3 s d x y g (fun a b => a * b)
/-- MULH (R319). -/
def execMulh (d x y : BitVec 6) (g : BitVec 4) (s : State) : Out :=
  alu3 s d x y g (fun a b => BitVec.ofNat 64 (a.toNat * b.toNat / 2 ^ 64))

/-- A division: DIV0 for a zero divisor (R275). -/
def divide (s : State) (d x y : BitVec 6) (g : BitVec 4) (f : Word → Word → Word) : Out :=
  guarded s g (fun s =>
    if s.cc.get y = 0 then .next (s.trapHere ⟨tDIV0, 0⟩) else .next (s.ret d (f (s.cc.get x) (s.cc.get y))))

/-- DIVU (R275). -/
def execDivu (d x y : BitVec 6) (g : BitVec 4) (s : State) : Out := divide s d x y g (fun a b => a / b)
/-- DIVS (R275): toward zero. -/
def execDivs (d x y : BitVec 6) (g : BitVec 4) (s : State) : Out :=
  divide s d x y g (fun a b => BitVec.ofInt 64 (a.toInt.tdiv b.toInt))
/-- AND (R258). -/
def execAnd (d x y : BitVec 6) (g : BitVec 4) (s : State) : Out := alu3 s d x y g (fun a b => a &&& b)
/-- ANDI (R258). -/
def execAndi (d x : BitVec 6) (i : BitVec 10) (s : State) : Out := aluI s d x i (fun a b => a &&& b)
/-- OR (R326). -/
def execOr (d x y : BitVec 6) (g : BitVec 4) (s : State) : Out := alu3 s d x y g (fun a b => a ||| b)
/-- ORI (R326). -/
def execOri (d x : BitVec 6) (i : BitVec 10) (s : State) : Out := aluI s d x i (fun a b => a ||| b)
/-- XOR (R375). -/
def execXor (d x y : BitVec 6) (g : BitVec 4) (s : State) : Out := alu3 s d x y g (fun a b => a ^^^ b)
/-- XORI (R375). -/
def execXori (d x : BitVec 6) (i : BitVec 10) (s : State) : Out := aluI s d x i (fun a b => a ^^^ b)
/-- SHL (R344). -/
def execShl (d x y : BitVec 6) (g : BitVec 4) (s : State) : Out := alu3 s d x y g (shiftBy (fun a k => a <<< k))
/-- SHLI (R344). -/
def execShli (d x : BitVec 6) (i : BitVec 10) (s : State) : Out := shiftI s d x i (fun a k => a <<< k)
/-- SHR (R344). -/
def execShr (d x y : BitVec 6) (g : BitVec 4) (s : State) : Out := alu3 s d x y g (shiftBy (fun a k => a >>> k))
/-- SHRI (R344). -/
def execShri (d x : BitVec 6) (i : BitVec 10) (s : State) : Out := shiftI s d x i (fun a k => a >>> k)
/-- SAR (R344). -/
def execSar (d x y : BitVec 6) (g : BitVec 4) (s : State) : Out := alu3 s d x y g (shiftBy (fun a k => a.sshiftRight k))
/-- SARI (R344). -/
def execSari (d x : BitVec 6) (i : BitVec 10) (s : State) : Out := shiftI s d x i (fun a k => a.sshiftRight k)
/-- MIN (R313). -/
def execMin (d x y : BitVec 6) (g : BitVec 4) (s : State) : Out := alu3 s d x y g (fun a b => if b.slt a then b else a)
/-- MAX (R313). -/
def execMax (d x y : BitVec 6) (g : BitVec 4) (s : State) : Out := alu3 s d x y g (fun a b => if a.slt b then b else a)

/-- CSEL (R271): the guard field selects. -/
def execCsel (d x y : BitVec 6) (g : BitVec 4) (s : State) : Out :=
  .next (s.ret d (if s.cc.guard g then s.cc.get x else s.cc.get y))

/-- MOV of 2^W registers, all sources read first (R316). -/
def execMov (w : BitVec 2) (d x : BitVec 6) (g : BitVec 4) (s : State) : Out :=
  guarded s g (fun s => .next (s.setCc (s.cc.setN d (s.cc.getN x (2 ^ w.toNat)))).adv)

/-- MOVI (R318). -/
def execMovi (d : BitVec 6) (i : BitVec 10) (s : State) : Out := .next (s.ret d (i.signExtend 64))

/-- An L form falls through to its first word + 8, whatever the guard (R127, R317). -/
def movLong (s : State) (d : BitVec 6) (g : BitVec 4) (v : Word) : Out :=
  if s.cc.guard g then .next ((s.setCc (s.cc.set d v)).adv 8) else .next (s.adv 8)

/-- MOVL (R317). -/
def execMovl (d : BitVec 6) (g : BitVec 4) (imm : BitVec 32) (s : State) : Out := movLong s d g (imm.setWidth 64)
/-- MOVH (R317). -/
def execMovh (d : BitVec 6) (g : BitVec 4) (imm : BitVec 32) (s : State) : Out :=
  movLong s d g (imm ++ (s.cc.get d).setWidth 32)

/-- The condition of CMP (R125, R267). -/
def condHolds (c : BitVec 3) (a b : Word) : Bool :=
  match c.toNat with
  | 0 => a == b
  | 1 => a != b
  | 2 => a.slt b
  | 3 => !a.slt b
  | 4 => a.ult b
  | 5 => !a.ult b
  | 6 => !b.slt a
  | _ => b.slt a

/-- CMP (R267). -/
def execCmp (pd cond : BitVec 3) (x y : BitVec 6) (g : BitVec 4) (s : State) : Out :=
  guarded s g (fun s => .next (s.setCc (s.cc.setPred pd (condHolds cond (s.cc.get x) (s.cc.get y)))).adv)

/-- CMPI (R267). -/
def execCmpi (pd cond : BitVec 3) (x : BitVec 6) (i : BitVec 10) (s : State) : Out :=
  .next (s.setCc (s.cc.setPred pd (condHolds cond (s.cc.get x) (i.signExtend 64)))).adv

/-- The function of PLOG (R125). -/
def plogFn (c : BitVec 3) (a b : Bool) : Bool :=
  match c.toNat with
  | 0 => a && b
  | 1 => a || b
  | 2 => a != b
  | 3 => a && !b
  | 4 => a || !b
  | 5 => a == b
  | 6 => !(a && b)
  | _ => !(a || b)

/-- PLOG (R332). -/
def execPlog (pd cond pa pb : BitVec 3) (g : BitVec 4) (s : State) : Out :=
  guarded s g (fun s => .next (s.setCc (s.cc.setPred pd (plogFn cond (s.cc.pred pa) (s.cc.pred pb)))).adv)

end Sys2Proof.Machine
end

