-- ==== Sys2Proof/Machine/Operands.lean ====
section
/-! DEFINITION. What a row or entry works on: the instance it serves and its nullification (R26), the operand sources of
R52, elements of a lane width, predicates and guards (R57, R329), the write port and lanes of an MN entry (R118, R119). -/

namespace Sys2Proof.Machine

/-! ### Elements of a vector -/

/-- Element `i` of width `w` (R3). -/
def lane (w : Nat) (v : Vec) (i : Nat) : Nat := v.toNat / 2 ^ (w * i) % 2 ^ w

/-- The `512 / w` elements of a vector. -/
def lanes (w : Nat) (v : Vec) : List Nat := (List.range (512 / w)).map (lane w v)

/-- The number whose `w`-bit digits are given, lowest first. -/
def joinNat (w : Nat) : List Nat → Nat
  | [] => 0
  | x :: t => x % 2 ^ w + 2 ^ w * joinNat w t

/-- The vector of elements of width `w`. -/
def ofLanes (w : Nat) (l : List Nat) : Vec := BitVec.ofNat 512 (joinNat w l)

/-- Repeat a 32-bit constant into every 32-bit lane (R52). -/
def splat32 (z : BitVec 32) : Vec := ofLanes 32 (List.replicate 16 z.toNat)

/-- The P bit that guards element `i` at lane width `w` (R57). -/
def pbit (w : Nat) (p : BitVec 64) (i : Nat) : Bool := p.getLsbD (if w = 4 then i / 2 else i)

/-- Element `i` is written under PG (R57). -/
def guardBit (pg : Nat) (w : Nat) (p : BitVec 64) (i : Nat) : Bool :=
  match pg with
  | 0 => true
  | 1 => pbit w p i
  | _ => !pbit w p i

/-- All bits of the elements that hold. -/
def maskOf (w : Nat) (f : Nat → Bool) : Vec :=
  ofLanes w ((List.range (512 / w)).map (fun i => if f i then 2 ^ w - 1 else 0))

/-- `new` where the mask is set, `old` elsewhere. -/
def merge (old new mask : Vec) : Vec := (old &&& ~~~mask) ||| (new &&& mask)

/-- Number of P bits that guard elements, and the mask M(A) of R329. -/
def guardCount (w : Nat) : Nat := if w = 4 then 64 else 512 / w

def predMask (w : Nat) (a : Vec) : BitVec 64 :=
  BitVec.ofNat 64 (joinNat 1 ((List.range (guardCount w)).map (fun j => lane w a (if w = 4 then 2 * j else j) % 2)))

/-- The complement of a mask within the guarding bits. -/
def predInv (w : Nat) (m : BitVec 64) : BitVec 64 := m ^^^ BitVec.ofNat 64 (2 ^ guardCount w - 1)

/-! ### The row of a unit -/

/-- What a live row knows: its unit, region, counters, stage, the index of its instance and its tile task's trip count. -/
structure RowCtx where
  d : Nat
  r : Nat
  sl : Nat
  reg : Nat
  rc : Nat
  mc : Nat
  w : Nat
  idx : Nat
  stage : Nat
  inst : Nat
  trip : Nat
  deriving DecidableEq, Repr

/-- The instance a row tagged `stage` serves at wrap `w` (R26): the tile task (b, T) whose range holds w − s − b. -/
def serves (tasks : List (Nat × Nat)) (w stage : Nat) : Option (Nat × Nat) :=
  tasks.findSome? (fun t => if stage + t.1 ≤ w ∧ w - stage - t.1 < t.2 then some (w - stage - t.1, t.2) else none)

/-- The row index of a unit and the stage tag it has there: MC, or for an XN the slot counter XS in the cycle MC = 0
(R25, R26, R170). -/
def Bank.rowAt (b : Bank) (r sl mc w : Nat) : Option (Nat × Nat) :=
  if isCe sl then some (mc, (tget 0 (b.ceCfg r sl).stages mc).toNat)
  else if isMn sl then some (mc, (tget 0 (b.mnCfg r sl).stages mc).toNat)
  else if isXn sl ∧ mc = 0 then some (w % 32, (tget 0 (b.xnCfg r sl).stages (w % 32)).toNat)
  else none

/-- A region executes rows in this cycle: it has received GO, and is not held, frozen or stopped (R25, R37, R184). -/
def Region.live (x : Region) : Bool := x.run && !x.hold && !x.halted && x.frz.isNone

/-- A ring of a faulting region that has stopped (R229). -/
def Region.ringStopped (x : Region) (ring : Nat) : Bool := match x.fstop with
  | some f => (tget 0 (f.stops) ring) != 0 || x.halted
  | none => x.halted

/-- The context of the row that a region's counters select at a unit: `none` when the unit has no row now or no admitted
instance has its index (R25, R26). -/
def State.rowIn (s : State) (d r sl n : Nat) (desc : Word) (x : Region) : Option RowCtx :=
  let mc := x.mc desc
  let w := x.wrap desc
  match (s.die d).act.rowAt r sl mc w with
  | none => none
  | some (i, st) => match serves x.tasks w st with
    | none => none
    | some (k, t) => some ⟨d, r, sl, n, x.rc, mc, w, i, st, k, t⟩

/-- The context of a row that executes in this cycle and is not nullified. -/
def State.rowCtx (s : State) (d r sl : Nat) : Option RowCtx :=
  match (s.die d).act.regionAt r with
  | none => none
  | some (n, desc) =>
    let x := s.region d n
    if !x.live || x.ringStopped r then none else s.rowIn d r sl n desc x

/-- The context of the current unit. -/
def State.curRow (s : State) : Option RowCtx := s.rowCtx s.cur.1 s.cur.2.1 s.cur.2.2

/-! ### Operands of a CE row (R52, R53) -/

def laneKey (ring ln slot : Nat) : Nat := (12 * ring + ln) * 48 + slot
def State.laneVal (s : State) (d ring ln slot : Nat) : Vec := tget 0 (s.die d).lanes (laneKey ring ln slot)

/-- The result latch of the unit at a slot (R52). -/
def State.latchOf (s : State) (d r sl : Nat) : Vec :=
  if isCe sl then (s.ce d r sl).l else if isMn sl then (s.mn d r sl).latch else (s.xn d r sl).latch

/-- Physical rotating-file entry of the name kn in wrap w (R56). -/
def rotEntry (n w : Nat) : Nat := (n + 8 - w % 8) % 8

/-- The value of an operand source for a row (R52). -/
def State.operand (s : State) (c : RowCtx) (src : BitVec 5) : Vec :=
  let n := src.toNat
  let ce := s.ce c.d c.r c.sl
  let slots := slotsOf (s.die c.d).g2
  if n < 8 then tget 0 ce.k (rotEntry n c.w)
  else if n = 8 then ce.l
  else if n = 9 then (if c.r = 0 then 0 else (s.ce c.d (c.r - 1) c.sl).l)
  else if n = 10 then s.latchOf c.d c.r ((c.sl + 1) % slots)
  else if n = 11 then (if c.r = 63 then 0 else (s.ce c.d (c.r + 1) c.sl).l)
  else if n = 12 then s.latchOf c.d c.r ((c.sl + slots - 1) % slots)
  else if n < 25 then s.laneVal c.d c.r (n - 13) c.sl
  else if n < 31 then splat32 (tget 0 ((s.die c.d).act.ceCfg c.r c.sl).z (n - 25))
  else 0

/-! ### Format configuration (R50) -/

def faOf (f : BitVec 32) : Nat := f.toNat % 32
def fdOf (f : BitVec 32) : Nat := f.toNat / 256 % 32
def rmOf (f : BitVec 32) : Nat := f.toNat / 2 ^ 16 % 4
def teOf (f : BitVec 32) : BitVec 6 := BitVec.ofNat 6 (f.toNat / 2 ^ 20)

/-- The rounding mode of a row (R53). -/
def rmSel (m : BitVec 4) (f : BitVec 32) : Nat := if m = 0 then rmOf f else m.toNat - 4

/-! ### Operands of an MN entry (R117 to R119) -/

/-- The write port's value, 0 when no CE presents one (R118). The MN at 6b + 5 takes the value of the CE at 6b + 4 before
that of the next bay's first CE (R89). Values are held under the CE that presents them. -/
def State.wport (s : State) (d r sl : Nat) : Vec :=
  let x := s.die d
  let east := tget none x.wports (ukey r ((sl + 1) % slotsOf x.g2))
  let west := if sl % 6 = 5 then tget none x.wports (ukey r (sl - 1)) else none
  (west.getD (east.getD 0))

/-- The source of an MN entry (R118). -/
def State.nodeSource (s : State) (c : RowCtx) (ln : BitVec 5) : Vec :=
  let n := ln.toNat
  let slots := slotsOf (s.die c.d).g2
  if n = 0 then 0
  else if n ≤ 12 then s.laneVal c.d c.r (n - 1) c.sl
  else if n = 13 then s.wport c.d c.r c.sl
  else if n = 14 then s.latchOf c.d c.r ((c.sl + slots - 1) % slots)
  else s.latchOf c.d c.r ((c.sl + 1) % slots)

/-- The CE a PRED names: 01 west, 10 east (R117). -/
def predCe (slots sl : Nat) (pred : BitVec 2) : Nat := if pred = 1 then (sl + slots - 1) % slots else (sl + 1) % slots

/-- Lane width at which PRED counts elements; 0 for a reserved code (R117). -/
def State.predWidth (s : State) (c : RowCtx) (pred : BitVec 2) : Nat :=
  laneWidth (faOf ((s.die c.d).act.ceCfg c.r (predCe (slotsOf (s.die c.d).g2) c.sl pred)).fcfg)

/-- Element `i` of an entry is performed under PRED. -/
def State.predBit (s : State) (c : RowCtx) (pred : BitVec 2) (w i : Nat) : Bool :=
  if pred = 0 then true
  else pbit w (s.ce c.d c.r (predCe (slotsOf (s.die c.d).g2) c.sl pred)).p i

/-- The latch bits an entry writes under PRED (R309). -/
def State.predLatch (s : State) (c : RowCtx) (pred : BitVec 2) : Vec :=
  if pred = 0 then BitVec.allOnes 512
  else
    let w := s.predWidth c pred
    maskOf w (s.predBit c pred w)

/-- Byte `i` of a store is performed under PRED: the elements whose bits it holds (R356). At a 4-bit width both
elements of a byte share their P bit. -/
def State.predByte (s : State) (c : RowCtx) (pred : BitVec 2) (i : Nat) : Bool :=
  if pred = 0 then true
  else
    let w := s.predWidth c pred
    s.predBit c pred w (8 * i / w)

/-- The index operand of LDX, STX and AMO (R119): bits 31:0 of WL or EL. -/
def State.nodeIndex (s : State) (c : RowCtx) (ag : BitVec 2) : Nat :=
  let slots := slotsOf (s.die c.d).g2
  (s.latchOf c.d c.r (if ag = 0 then (c.sl + slots - 1) % slots else (c.sl + 1) % slots)).toNat % 2 ^ 32

end Sys2Proof.Machine
end

