-- ==== Sys2Proof/Machine/Flags.lean ====
section
/-! DEFINITION. Sticky flags and their traps (R66, R72), results on their way to visibility (R55, R58), and illegal rows
(R60). -/

namespace Sys2Proof.Machine

/-- The flags of the guarded elements of a result (R57, R66). -/
def flagsOr (g : Nat → Bool) : Nat → List (Nat × Flags) → Flags
  | _, [] => 0
  | i, (_, f) :: t => (if g i then f else 0) ||| flagsOr g (i + 1) t

/-- A result enters its region's pipe: visible after `lat` cycles of the region. -/
def State.issueEff (s : State) (c : RowCtx) (lat : Nat) (e : Eff) : State :=
  let x := s.region c.d c.reg
  s.setRegion c.d c.reg { x with pipe := x.pipe ++ [⟨lat, c.r, c.sl, c.mc, c.stage, e⟩] }

/-- Sticky flags of a CE are only ever set (R66). -/
def State.ceFlags (s : State) (c : RowCtx) (f : Flags) : State :=
  let x := s.ce c.d c.r c.sl
  s.setCe c.d c.r c.sl { x with flags := x.flags ||| f }

/-- The active format configuration of a row's element. -/
def State.fcfg (s : State) (c : RowCtx) : BitVec 32 := ((s.die c.d).act.ceCfg c.r c.sl).fcfg

/-- The P of a row's element. -/
def State.ceP (s : State) (c : RowCtx) : BitVec 64 := (s.ce c.d c.r c.sl).p

/-- A computing row's result: elements of width `w` with their flags, merged by PG, driven by DIR (R55, R57, R66). -/
def State.rowResult (s : State) (c : RowCtx) (lat w : Nat) (pg : BitVec 2) (dir : BitVec 4) (l : List (Nat × Flags)) : State :=
  let g := guardBit pg.toNat w (s.ceP c)
  let f := flagsOr g 0 l
  (s.ceFlags c f).issueEff c lat (.result (ofLanes w (l.map (·.1))) (maskOf w g) dir.toNat (f &&& teOf (s.fcfg c)))

/-- A whole 512-bit result without flags, merged by the elements of width `w`. -/
def State.rowVec (s : State) (c : RowCtx) (lat w : Nat) (pg : BitVec 2) (dir : BitVec 4) (v : Vec) : State :=
  s.issueEff c lat (.result v (maskOf w (guardBit pg.toNat w (s.ceP c))) dir.toNat 0)

/-- Latencies of R58: the G3 value, or the G2 value in the G2 profile. -/
def State.lat (s : State) (c : RowCtx) (g3 g2 : Nat) : Nat := if (s.die c.d).g2 then g2 else g3

/-- A row's element raises a fault. -/
def State.ceFault (s : State) (c : RowCtx) (code : Nat) (tval detail : Word) : State :=
  s.raiseFault c.d c.reg c.r c.sl 0 code c.mc c.stage tval 0 detail

/-- An illegal row raises ILL in the cycle in which it executes (R60). -/
def State.rowIll (s : State) (c : RowCtx) : State :=
  s.ceFault c tILL ((tget nopWord ((s.die c.d).act.ceCfg c.r c.sl).rows c.mc).setWidth 64) 0

/-- The meaning of a row: nothing when it is nullified or its unit executes nothing (R26); ILL when DIR names the XN port
of a CE that has none or the format is not accepted (R60); otherwise its effect. -/
def rowExec (s : State) (dir : BitVec 4) (legal : RowCtx → Bool) (f : RowCtx → State) : Out :=
  match s.curRow with
  | none => .next s
  | some c => if (dir = 14 ∧ c.sl % 6 = 0) ∨ !(legal c) then .next (s.rowIll c) else .next (f c)

/-- FA is not reserved (R51). -/
def State.faAny (s : State) (c : RowCtx) : Bool := decide (faOf (s.fcfg c) ≤ 20)
/-- FD is not reserved: asked of every row but those of R281 and R297, which ignore FD (R60). -/
def State.fdAny (s : State) (c : RowCtx) : Bool := decide (fdOf (s.fcfg c) ≤ 20)
/-- Neither FA nor FD is reserved. -/
def State.fmtAny (s : State) (c : RowCtx) : Bool := s.faAny c && s.fdAny c
/-- FA is a floating-point code (R281). -/
def State.faFloat (s : State) (c : RowCtx) : Bool := isFloat (faOf (s.fcfg c))
/-- FA is a block code (R327). -/
def State.faBlock (s : State) (c : RowCtx) : Bool := isBlock (faOf (s.fcfg c))
/-- The lane width of FA. -/
def State.faW (s : State) (c : RowCtx) : Nat := laneWidth (faOf (s.fcfg c))
/-- FA is not reserved and its lanes are wider than 4 bits. -/
def State.faWide (s : State) (c : RowCtx) : Bool := s.fmtAny c && decide (s.faW c ≠ 4)

/-- The decoded elements of an operand in FA, with the flags of format errors (R73). -/
def decodeLanes (code : Nat) (v : Vec) : List Val :=
  (lanes (laneWidth code) v).map (fun x =>
    let (n, e) := decodeScalar code x
    (n, flagIf e fINV))

end Sys2Proof.Machine
end

