-- ==== Sys2Proof/Machine/ElemFloat.lean ====
section
/-! DEFINITION. Floating-point rows (R61, R63, R281 to R294) and CVT (R272). -/

namespace Sys2Proof.Machine

/-- A floating-point row over the decoded elements of its operands (R281): `f` gives the exact result and its flags, and
the result is rounded once into FA under mode `rm`. -/
def floatRow (s : State) (lat3 lat2 : Nat) (d : BitVec 4) (p : BitVec 2) (m : BitVec 4) (ops : List (BitVec 5))
    (f : Nat → List FVal → FVal × Flags) : Out :=
  rowExec s d s.faFloat (fun c =>
    let fa := faOf (s.fcfg c)
    let rm := rmSel m (s.fcfg c)
    let w := s.faW c
    let vs := ops.map (fun o => decodeLanes fa (s.operand c o))
    s.rowResult c (s.lat c lat3 lat2) w p d ((List.range (512 / w)).map (fun i =>
      let xs := vs.map (fun v => (v[i]?).getD (.nan, 0))
      let (y, g) := f rm (xs.map (·.1))
      let (r, h) := roundTo fa rm y
      (r, xs.foldl (fun k x => k ||| x.2) (g ||| h)))))

def num0 (l : List FVal) : FVal := (l[0]?).getD .nan
def num1 (l : List FVal) : FVal := (l[1]?).getD .nan
def num2 (l : List FVal) : FVal := (l[2]?).getD .nan

/-- An exact operation whose flag is an invalid operation. -/
def invOf (x : FVal × Bool) : FVal × Flags := (x.1, flagIf x.2 fINV)

/-- FADD (R283). -/
def execFadd (a b : BitVec 5) (d : BitVec 4) (p : BitVec 2) (m : BitVec 4) (s : State) : Out :=
  floatRow s 4 5 d p m [a, b] (fun rm l => invOf (addNum rm (num0 l) (num1 l)))
/-- FSUB (R283). -/
def execFsub (a b : BitVec 5) (d : BitVec 4) (p : BitVec 2) (m : BitVec 4) (s : State) : Out :=
  floatRow s 4 5 d p m [a, b] (fun rm l => invOf (addNum rm (num0 l) (negNum (num1 l))))
/-- FMUL (R283). -/
def execFmul (a b : BitVec 5) (d : BitVec 4) (p : BitVec 2) (m : BitVec 4) (s : State) : Out :=
  floatRow s 4 5 d p m [a, b] (fun _ l => invOf (mulNum (num0 l) (num1 l)))

/-- 0 × Inf is tested before NaN of the addend (R283). -/
def fmaNum (rm : Nat) (x y z : FVal) : FVal × Flags :=
  let (t, i) := mulNum x y
  let (r, j) := addNum rm t z
  (r, flagIf (i || j) fINV)

/-- FMA (R283). -/
def execFma (a b e : BitVec 5) (d : BitVec 4) (p : BitVec 2) (m : BitVec 4) (s : State) : Out :=
  floatRow s 4 5 d p m [a, b, e] (fun rm l => fmaNum rm (num0 l) (num1 l) (num2 l))

/-- The larger and the smaller of two values, NaN if either is (R291). -/
def maxNum (x y : FVal) : FVal := if x.isNan ∨ y.isNan then .nan else if belowNum x y then y else x
def minNum (x y : FVal) : FVal := if x.isNan ∨ y.isNan then .nan else if belowNum y x then y else x

/-- FMAX (R291). -/
def execFmax (a b : BitVec 5) (d : BitVec 4) (p : BitVec 2) (s : State) : Out :=
  floatRow s 2 2 d p 0 [a, b] (fun _ l => (maxNum (num0 l) (num1 l), 0))
/-- FMIN (R291). -/
def execFmin (a b : BitVec 5) (d : BitVec 4) (p : BitVec 2) (s : State) : Out :=
  floatRow s 2 2 d p 0 [a, b] (fun _ l => (minNum (num0 l) (num1 l), 0))
/-- FABS (R282). -/
def execFabs (a : BitVec 5) (d : BitVec 4) (p : BitVec 2) (s : State) : Out :=
  floatRow s 2 2 d p 0 [a] (fun _ l => (absNum (num0 l), 0))
/-- FNEG (R282). -/
def execFneg (a : BitVec 5) (d : BitVec 4) (p : BitVec 2) (s : State) : Out :=
  floatRow s 2 2 d p 0 [a] (fun _ l => (negNum (num0 l), 0))

/-- FCLIP of one element (R284). -/
def clipNum (x lo hi : FVal) : FVal × Flags :=
  let y := minNum (maxNum x lo) hi
  (y, flagIf (!y.isNan && !eqNum y x) fSAT)

/-- FCLIP (R284). -/
def execFclip (a b e : BitVec 5) (d : BitVec 4) (p : BitVec 2) (s : State) : Out :=
  floatRow s 4 5 d p 0 [a, b, e] (fun _ l => clipNum (num0 l) (num1 l) (num2 l))

/-- A condition of FCMP (R285). -/
def fcond (cond : Nat) (x y : FVal) : Bool :=
  let un := x.isNan || y.isNan
  match cond with
  | 0 => eqNum x y
  | 1 => un || !eqNum x y
  | 2 => ltNum x y
  | 3 => !un && !ltNum y x
  | 4 => ltNum y x
  | 5 => !un && !ltNum x y
  | 6 => un
  | _ => !un

/-- FCMP (R285). -/
def execFcmp (a b : BitVec 5) (d : BitVec 4) (p : BitVec 2) (m : BitVec 4) (s : State) : Out :=
  rowExec s d s.faFloat (fun c =>
    let fa := faOf (s.fcfg c)
    let w := s.faW c
    let xs := decodeLanes fa (s.operand c a)
    let ys := decodeLanes fa (s.operand c b)
    s.rowResult c 2 w p d ((xs.zip ys).map (fun e =>
      (if fcond m.toNat e.1.1 e.2.1 then 2 ^ w - 1 else 0, e.1.2 ||| e.2.2))))

/-- The product with 2^k; beyond ±1024 every format's result is the same. -/
def sclNum (x : FVal) (k : Int) : FVal :=
  match x with
  | .fin q => .fin (q * pow2 (clamp k (-1024) 1024).1)
  | x => x

/-- FSCL (R293). -/
def execFscl (a b : BitVec 5) (d : BitVec 4) (p : BitVec 2) (m : BitVec 4) (s : State) : Out :=
  rowExec s d s.faFloat (fun c =>
    let fa := faOf (s.fcfg c)
    let w := s.faW c
    s.rowResult c (s.lat c 4 5) w p d (((decodeLanes fa (s.operand c a)).zip (lanes w (s.operand c b))).map (fun e =>
      let (r, f) := roundTo fa (rmSel m (s.fcfg c)) (sclNum e.1.1 (ival w e.2))
      (r, f ||| e.1.2))))

/-! ### Built-in functions (R61, R290; log 11) -/

/-- The largest FP32 pattern of a positive finite value for which a downward-closed test holds, by its bits from bit
`n - 1` downward. -/
def fpSearch (test : Rat → Bool) : Nat → Nat → Nat
  | 0, x => x
  | n + 1, x =>
    let y := x + 2 ^ n
    fpSearch test n (if y ≤ 0x7F7FFFFF ∧ test ((ffmt 0).mag y) then y else x)

/-- e^−x for 0 ≤ x ≤ 160 in units of 2^−640: a series for x / 2^16, then sixteen squarings. -/
def expNeg (x : Rat) : Nat :=
  let one : Int := 2 ^ 640
  let t : Int := -((x * (2 ^ 624 : Nat)).floor)
  let rec series : Nat → Int → Int → Int
    | 0, _, acc => acc
    | n + 1, term, acc =>
      let term' := term * t / (one * ((61 - (n + 1) : Nat) : Int))
      series n term' (acc + term')
  let r := series 60 one one
  (Nat.repeat (fun y : Int => y * y / one) 16 r).toNat

/-- tanh |x| and 1 / (1 + e^−x) of a nonzero rational, close enough to place them between two FP32 values. -/
def tanhNear (x : Rat) : Rat :=
  if x > 80 then 1 - pow2 (-220)
  else
    let e := expNeg (2 * x)
    mkRat ((2 ^ 640 : Int) - e) (2 ^ 640 + e)

def sigNear (x : Rat) : Rat :=
  if x > 160 then 1 - pow2 (-220)
  else if x < -160 then pow2 (-220)
  else
    let e := expNeg (rabs x)
    if x > 0 then mkRat (2 ^ 640 : Nat) (2 ^ 640 + e) else mkRat e (2 ^ 640 + e)

/-- One of a list of permitted FP32 magnitudes. -/
def pick (l : List Nat) (n : Nat) : Nat := (l[n % l.length]?).getD 0

/-- One of the FP32 patterns within 2 ulp of a value strictly between two neighbours, from 0 up to `top`: the largest that
the input has reached. Where each pattern has one threshold for the whole function, as `reached` says, the function never
steps backward, and every function within the bounds that does not is one of these (R61). -/
def reach4 (v : Rat) (top : Nat) (reached : Nat → Bool) : Nat :=
  let lo := ((ffmt 0).round 2 (.fin v)).1
  let c1 := min (lo + 1) top
  let c2 := min (lo + 2) top
  if reached c2 then c2 else if reached c1 then c1 else if reached lo then lo else lo - 1

/-- FTANH of a positive value, and FSIG of a negative one by its magnitude (R61): `t` gives the thresholds. -/
def tanhPat (t : Nat → Nat) (x : Rat) : Nat :=
  reach4 (tanhNear x) 0x3F800000 (fun y => decide (t y ≤ ((ffmt 0).round 0 (.fin x)).1))
def sigPat (t : Nat → Nat) (x : Rat) : Nat :=
  reach4 (sigNear (-x)) 0x3F000000 (fun y => decide (((ffmt 0).round 0 (.fin x)).1 ≤ t y))

/-- A built-in result: either exact, or one of the permitted FP32 values beside an exact value it may differ from. -/
inductive Built where
  | exact (v : FVal) (f : Flags)
  | approx (neg : Bool) (pat : Nat) (inexact : Bool)
  | open_ (pat : Nat)
  deriving DecidableEq, Repr

/-- FRCP of a nonzero finite value: within 1 ulp (R61); beyond the largest FP32 value the quotient itself is rounded. -/
def rcpOf (q : Rat) (n : Nat) : Built :=
  let r := 1 / rabs q
  if r > (ffmt 0).mag 0x7F7FFFFF then .exact (.fin (1 / q)) 0
  else
    let lo := ((ffmt 0).round 2 (.fin r)).1
    if (ffmt 0).mag lo = r then
      let y := pick [lo, lo - 1, min (lo + 1) 0x7F7FFFFF] n
      .approx (decide (q < 0)) y (decide (y ≠ lo))
    else .approx (decide (q < 0)) (pick [lo, min (lo + 1) 0x7F7FFFFF] n) true

/-- FRSQ of a positive value: within 1 ulp of the root whose square times the input is 1. -/
def rsqOf (q : Rat) (n : Nat) : Built :=
  let lo := fpSearch (fun y => decide (y * y * q ≤ 1)) 31 0
  let v := (ffmt 0).mag lo
  if v * v * q = 1 then
    let y := pick [lo, lo - 1, lo + 1] n
    .approx false y (decide (y ≠ lo))
  else .approx false (pick [lo, lo + 1] n) true

/-- The result of built-in `op` for a decoded element (R61, R290). FTANH is odd. FSIG of a positive value is 1 minus FSIG of
its negative, rounded to FP32: the symmetry about (0, 1/2) as far as FP32 has it (DEDUCED, log 11). -/
def builtOf (g2 : Bool) (op : Nat) (v : FVal) : Built :=
  let one : FVal := .fin 1
  let n := Config.builtin g2 op (BitVec.ofNat 32 ((ffmt 0).round 0 v).1)
  let t (y : Nat) : Nat := Config.builtin g2 op (BitVec.ofNat 32 y)
  match op, v with
  | _, .nan => .exact .nan 0
  | 0, .inf s => .exact (.zero s) 0
  | 0, .zero s => .exact (.inf s) fDZ
  | 0, .fin q => rcpOf q n
  | 1, .inf s => if s then .exact .nan fINV else .exact (.zero false) 0
  | 1, .zero s => .exact (.inf s) fDZ
  | 1, .fin q => if q < 0 then .exact .nan fINV else rsqOf q n
  | 2, .inf s => if s then .exact (.zero false) 0 else .exact (.inf false) 0
  | 2, .zero _ => .exact one 0
  | 2, .fin q => if q.den = 1 then .exact (.fin (pow2 (clamp q.num (-1024) 1024).1)) 0 else .open_ n
  | 3, .inf s => if s then .exact .nan fINV else .exact (.inf false) 0
  | 3, .zero _ => .exact (.inf true) fDZ
  | 3, .fin q =>
    if q < 0 then .exact .nan fINV
    else if pow2 (ilog2 q) = q then .exact (FVal.ofRat ((ilog2 q : Int) : Rat)) 0
    else .open_ n
  | 4, .inf s => .exact (.fin (if s then -1 else 1)) 0
  | 4, .zero s => .exact (.zero s) 0
  | 4, .fin q => .approx (decide (q < 0)) (tanhPat t (rabs q)) true
  | _, .inf s => if s then .exact (.zero false) 0 else .exact one 0
  | _, .zero _ => .exact (.fin (mkRat 1 2)) 0
  | _, .fin q =>
    if q < 0 then .approx false (sigPat t (-q)) true
    else .approx false ((ffmt 0).round 0 (.fin (1 - (ffmt 0).mag (sigPat t q)))).1 true

/-- The pattern and flags of a built-in result in FA. `u` are the flags left open. -/
def builtRound (fa rm : Nat) (u : BitVec 2) (b : Built) : Nat × Flags :=
  match b with
  | .exact v f =>
    let (r, h) := roundTo fa rm v
    (r, f ||| h)
  | .approx neg pat inexact =>
    let v := FVal.ofRat (if neg then -((ffmt 0).mag pat) else (ffmt 0).mag pat) neg
    let (r, h) := roundTo fa rm v
    let small := pow2 (1 - ((ffmt fa).bias : Int))
    let y := rabs v.toRat
    (r, h ||| flagIf inexact fINX ||| flagIf (inexact && (decide (y < small) || (decide (y = small) && u.getLsbD 0))) fUNF)
  | .open_ pat =>
    let (r, h) := roundTo fa rm ((ffmt 0).decode (pat % 2 ^ 32))
    (r, h ||| fINX ||| flagIf (u.getLsbD 0) fUNF ||| flagIf (u.getLsbD 1) fOVF)

/-- A built-in row (R61, R290); FTANH is odd in its flags too. -/
def builtRow (s : State) (op : Nat) (a : BitVec 5) (d : BitVec 4) (p : BitVec 2) (m : BitVec 4) : Out :=
  rowExec s d s.faFloat (fun c =>
    let fa := faOf (s.fcfg c)
    let g2 := (s.die c.d).g2
    s.rowResult c (s.lat c 6 8) (s.faW c) p d ((decodeLanes fa (s.operand c a)).map (fun e =>
      let key := BitVec.ofNat 32 (((ffmt 0).round 0 (if op = 4 then absNum e.1 else e.1)).1)
      let (r, f) := builtRound fa (rmSel m (s.fcfg c)) (Config.builtinFlags g2 op key)
        (builtOf g2 op e.1)
      (r, f ||| e.2))))

/-- FRCP (R290). -/
def execFrcp (a : BitVec 5) (d : BitVec 4) (p : BitVec 2) (m : BitVec 4) (s : State) : Out := builtRow s 0 a d p m
/-- FRSQ (R290). -/
def execFrsq (a : BitVec 5) (d : BitVec 4) (p : BitVec 2) (m : BitVec 4) (s : State) : Out := builtRow s 1 a d p m
/-- FEXP2 (R290). -/
def execFexp2 (a : BitVec 5) (d : BitVec 4) (p : BitVec 2) (m : BitVec 4) (s : State) : Out := builtRow s 2 a d p m
/-- FLOG2 (R290). -/
def execFlog2 (a : BitVec 5) (d : BitVec 4) (p : BitVec 2) (m : BitVec 4) (s : State) : Out := builtRow s 3 a d p m
/-- FTANH (R290). -/
def execFtanh (a : BitVec 5) (d : BitVec 4) (p : BitVec 2) (m : BitVec 4) (s : State) : Out := builtRow s 4 a d p m
/-- FSIG (R290). -/
def execFsig (a : BitVec 5) (d : BitVec 4) (p : BitVec 2) (m : BitVec 4) (s : State) : Out := builtRow s 5 a d p m

/-! ### Function tables (R62 to R64) -/

/-- 32-bit word `n` of a table record. -/
def tabWord (t : BitVec 8320) (n : Nat) : BitVec 32 := t.extractLsb' (32 * n) 32

def tabNum (t : BitVec 8320) (n : Nat) : FVal := (ffmt 0).decode (tabWord t n).toNat
def tabLo (t : BitVec 8320) : FVal := tabNum t 0
def tabHi (t : BitVec 8320) : FVal := tabNum t 1
def tabGain (t : BitVec 8320) : FVal := tabNum t 2
/-- Coefficient k of segment j. -/
def tabC (t : BitVec 8320) (j k : Nat) : FVal := tabNum t (4 + 4 * j + k)
/-- The segment width w (R62). -/
def tabStep (t : BitVec 8320) : Rat := ((tabHi t).toRat - (tabLo t).toRat) / 64

def finite (v : FVal) : Bool := !(v.isNan || v.isInf)

def isPow2 (q : Rat) : Bool := decide (0 < q) && decide (pow2 (ilog2 q) = q)

/-- The refusals of R62 and R64 but for MONO: a value that is not finite, a reserved bit, a bad width or offset. -/
def tabShapeOk (t : BitVec 8320) : Bool :=
  finite (tabLo t) && finite (tabHi t) && finite (tabGain t) &&
  ((List.range 64).all (fun j => (List.range 3).all (fun k => finite (tabC t j k)) && tabWord t (4 + 4 * j + 3) == 0)) &&
  decide ((tabWord t 3).toNat < 2) && isPow2 (tabStep t) && decide (((tabLo t).toRat / tabStep t).den = 1)

/-- The monotonicity test of R64. -/
def tabMono (t : BitVec 8320) : Bool :=
  let w := tabStep t
  let c (j k : Nat) : Rat := (tabC t j k).toRat
  (List.range 64).all (fun j => decide (0 ≤ c j 1 ∧ 0 ≤ c j 1 + 2 * c j 2 * w)) &&
  (List.range 63).all (fun j => decide (c j 0 + c j 1 * w + c j 2 * w * w ≤ c (j + 1) 0))

/-- A record TLOAD accepts (R62, R64). -/
def tabOk (t : BitVec 8320) : Bool := tabShapeOk t && (!((tabWord t 3).getLsbD 0) || tabMono t)

/-- The segment and offset of an input, and whether it lies outside [lo, hi) (R63). -/
def tabSeg (t : BitVec 8320) (x : FVal) : Nat × Rat × Bool :=
  if ltNum x (tabLo t) then (0, 0, true)
  else if !(ltNum x (tabHi t)) then (63, tabStep t, true)
  else
    let j := ((x.toRat - (tabLo t).toRat) / tabStep t).floor
    (j.toNat, x.toRat - (tabLo t).toRat - j * tabStep t, false)

/-- One rounding into FP32 of x·y + z. -/
def fma32 (rm : Nat) (x y z : FVal) : FVal × Flags :=
  let (v, f) := fmaNum rm x y z
  let (r, h) := roundTo 0 rm v
  ((ffmt 0).decode r, f ||| h)

/-- g of R63 for an input that is no NaN. -/
def tabValue (t : BitVec 8320) (rm : Nat) (x : FVal) : FVal × Flags :=
  let (j, o, _) := tabSeg t x
  let (y, f) := fma32 rm (tabC t j 2) (FVal.ofRat o) (tabC t j 1)
  let (z, h) := fma32 rm y (FVal.ofRat o) (tabC t j 0)
  (z, f ||| h)

/-- gd of R63: 0 outside the table, without a flag (log 23). -/
def tabDeriv (t : BitVec 8320) (rm : Nat) (x : FVal) : FVal × Flags :=
  let (j, o, out) := tabSeg t x
  if out then (.zero false, 0) else fma32 rm (mulNum (.fin 2) (tabC t j 2)).1 (FVal.ofRat o) (tabC t j 1)

/-- Table or derivative of an input; NaN gives NaN without a flag (R63). -/
def tabEval (t : BitVec 8320) (rm : Nat) (deriv : Bool) (x : FVal) : FVal × Flags :=
  if x.isNan then (.nan, 0) else if deriv then tabDeriv t rm x else tabValue t rm x

/-- Key of a function-table slot of a CE. -/
def ftabKey (ring slot n : Nat) : Nat := 4 * ukey ring slot + n

/-- FTAB (R63, R294). -/
def execFtab (a : BitVec 5) (d : BitVec 4) (p : BitVec 2) (v : BitVec 1) (sl : BitVec 2) (s : State) : Out :=
  rowExec s d s.faFloat (fun c =>
    match tget none (s.die c.d).act.ftabs (ftabKey c.r c.sl sl.toNat) with
    | none => s.ceFault c tTABLE (sl.setWidth 64) 0
    | some t =>
      let fa := faOf (s.fcfg c)
      let rm := rmOf (s.fcfg c)
      s.rowResult c (s.lat c 6 8) (s.faW c) p d ((decodeLanes fa (s.operand c a)).map (fun e =>
        let (y, f) := tabEval t rm (v == 1) e.1
        let (r, h) := roundTo fa rm y
        (r, f ||| h ||| e.2))))

/-! ### Reductions (R84, R286, R287, R292) -/

/-- The sum of R84 from element 0 upward. -/
def sumOrdered (fa rm : Nat) : List Val → Val
  | [] => (.zero false, 0)
  | v :: t => t.foldl (addVal fa rm) v

/-- The elements at positions c, c + 4, c + 8, … -/
def chain4 (c : Nat) (l : List Val) : List Val :=
  (List.range (l.length / 4)).map (fun i => (l[4 * i + c]?).getD (.nan, 0))

/-- The tree of R286, or the four chains of R287 in the G2 profile. -/
def sumUnordered (g2 : Bool) (fa rm : Nat) (l : List Val) : Val :=
  if g2 then
    let ch (c : Nat) : Val := sumOrdered fa rm (chain4 c l)
    addVal fa rm (addVal fa rm (ch 0) (ch 1)) (addVal fa rm (ch 2) (ch 3))
  else ((treeFold (addVal fa rm) 7 l)[0]?).getD (.zero false, 0)

/-- A reduction row: the result in element 0, +0 elsewhere (R248, R286). -/
def reduceRow (s : State) (d m : BitVec 4) (legal : RowCtx → Bool) (xs : RowCtx → List Val) (f : Bool → Nat → Nat → List Val → Val) : Out :=
  rowExec s d legal (fun c =>
    let fa := faOf (s.fcfg c)
    let rm := rmSel m (s.fcfg c)
    let (v, g) := f (s.die c.d).g2 fa rm (xs c)
    let (r, h) := roundTo fa rm v
    s.rowResult c (s.lat c 6 7) (s.faW c) 0 d ((r, g ||| h) :: List.replicate (512 / s.faW c - 1) (0, 0)))

/-- The elements of A, or the exact products of A and B. -/
def State.sumOps (s : State) (a : BitVec 5) (c : RowCtx) : List Val := decodeLanes (faOf (s.fcfg c)) (s.operand c a)

def State.dotOps (s : State) (a b : BitVec 5) (c : RowCtx) : List Val :=
  ((s.sumOps a c).zip (s.sumOps b c)).map (fun e =>
    let (p, i) := mulNum e.1.1 e.2.1
    (p, e.1.2 ||| e.2.2 ||| flagIf i fINV))

/-- FSUM.O (R248, R286). -/
def execFsumO (a : BitVec 5) (d m : BitVec 4) (s : State) : Out :=
  reduceRow s d m s.faFloat (s.sumOps a) (fun _ fa rm l => sumOrdered fa rm l)
/-- FSUM.U (R286, R287). -/
def execFsumU (a : BitVec 5) (d m : BitVec 4) (s : State) : Out := reduceRow s d m s.faFloat (s.sumOps a) sumUnordered
/-- FDOT.O (R286). -/
def execFdotO (a b : BitVec 5) (d m : BitVec 4) (s : State) : Out :=
  reduceRow s d m s.faFloat (s.dotOps a b) (fun _ fa rm l => sumOrdered fa rm l)
/-- FDOT.U (R286, R287). -/
def execFdotU (a b : BitVec 5) (d m : BitVec 4) (s : State) : Out := reduceRow s d m s.faFloat (s.dotOps a b) sumUnordered

/-- FMAXR (R292). -/
def execFmaxr (a : BitVec 5) (d : BitVec 4) (s : State) : Out :=
  reduceRow s d 0 s.faFloat (s.sumOps a) (fun _ _ _ l =>
    match l with
    | [] => (.zero false, 0)
    | v :: t => t.foldl (fun b x => (maxNum b.1 x.1, b.2 ||| x.2)) v)

/-! ### Conversion (R272) -/

/-- CVT: `part` selects the source elements converted, or where the results are placed. -/
def execCvt (a part : BitVec 5) (d : BitVec 4) (p : BitVec 2) (m : BitVec 4) (s : State) : Out :=
  let wd (c : RowCtx) : Nat := laneWidth (fdOf (s.fcfg c))
  rowExec s d (fun c =>
      isScalar (faOf (s.fcfg c)) && isScalar (fdOf (s.fcfg c)) &&
      decide (part.toNat < max (s.faW c / wd c) (wd c / s.faW c))) (fun c =>
    let fd := fdOf (s.fcfg c)
    let xs := (decodeLanes (faOf (s.fcfg c)) (s.operand c a)).map (fun e =>
      let (r, f) := roundTo fd (rmSel m (s.fcfg c)) e.1
      (r, f ||| e.2))
    let k := part.toNat
    let nd := 512 / wd c
    let ys := if wd c ≤ s.faW c then List.replicate (k * xs.length) (0, 0) ++ xs else xs.drop (k * nd)
    s.rowResult c (s.lat c 3 4) (wd c) p d ((ys ++ List.replicate nd (0, 0)).take nd))

end Sys2Proof.Machine
end

