-- ==== Sys2Proof/WellFormed.lean ====
section
/-! DEFINITION. Which instructions the encodings of R115 to R130 admit: the defects that make a word an illegal
encoding once its fields are read (R53, R60, R120, R122, R124, R125, R128, R129, R130, R235). -/

namespace Sys2Proof

/-- Why a word is refused (R60, R120, R128). -/
inductive Defect where
  /-- a reserved or unassigned opcode -/
  | opcode
  /-- an unused operand field that does not hold what R7, R53, R119 or R122 require -/
  | unusedField
  /-- a reserved MOD value -/
  | modifier
  /-- PG = 11, PRED = 11 or G = 1000 -/
  | guard
  /-- DIR = 15 -/
  | direction
  /-- a register number or index the instruction does not take -/
  | register
  /-- a LANE code that is illegal for the entry -/
  | lane
  /-- a reserved size or K step count -/
  | size
  /-- a SHELF value outside 0 to 63 and 0xFF -/
  | shelf
  /-- a reserved scope or derived index -/
  | scope
  /-- an empty fence set, or a member an MFENCE may not name -/
  | fenceSet
  /-- pd = 0 -/
  | predicate
  /-- a register misaligned for its width, or a width that is not allowed -/
  | width
  /-- a shift immediate above 63 -/
  | immediate
  deriving DecidableEq, Repr

/-- The defect `d` unless the condition holds. -/
def need (c : Bool) (d : Defect) : Option Defect := if c then none else some d

/-- MOD of a rounding row (R53): 0000, or 0100 to 0111. -/
def roundMod (m : BitVec 4) : Bool := decide (m = 0 ∨ 4 ≤ m.toNat ∧ m.toNat ≤ 7)

/-- Register alignment for a width code 0 to 3 (R124). -/
def aligned (w : BitVec 2) (r : BitVec 6) : Bool := decide (r.toNat % 2 ^ w.toNat = 0)

/-- IMM of an MFENCE (R119, R213): sets in bits 23:16 and 15:8, not empty, of LD, ST, AMO and DRV only. -/
def nodeSets (imm : BitVec 32) : Bool :=
  let p := imm.extractLsb' 16 8
  let s := imm.extractLsb' 8 8
  decide (imm.extractLsb' 24 8 = 0 ∧ imm.extractLsb' 0 8 = 0 ∧ p ≠ 0 ∧ s ≠ 0 ∧
    p &&& 0xD8 = 0 ∧ s &&& 0xD8 = 0)

/-- The system registers R235 assigns. -/
def sysAssigned (r : BitVec 10) : Bool :=
  [0x000, 0x001, 0x002, 0x003, 0x010, 0x011, 0x012, 0x018, 0x020, 0x021, 0x022, 0x028, 0x029, 0x030, 0x038, 0x039,
    0x040].contains r.toNat

/-- The first defect of an instruction's fields; `none` for every device step, which has no encoding. -/
def defect : Instr → Option Defect
  | .nop => none
  | .copy _ d p => need (decide (p ≠ 3)) .guard <|> need (decide (d ≠ 15)) .direction
  | .xpt _ c d p => need (decide (c.toNat < 8)) .register <|> need (decide (p ≠ 3)) .guard <|> need (decide (d ≠ 15)) .direction
  | .sel _ _ d _ => need (decide (d ≠ 15)) .direction
  | .bcst _ _ d p _ => need (decide (p ≠ 3)) .guard <|> need (decide (d ≠ 15)) .direction
  | .shuf _ _ d p => need (decide (p ≠ 3)) .guard <|> need (decide (d ≠ 15)) .direction
  | .zip _ _ d p _ => need (decide (p ≠ 3)) .guard <|> need (decide (d ≠ 15)) .direction
  | .unz _ _ d p _ => need (decide (p ≠ 3)) .guard <|> need (decide (d ≠ 15)) .direction
  | .pmov _ => none
  | .pget d p => need (decide (p ≠ 3)) .guard <|> need (decide (d ≠ 15)) .direction
  | .pand _ _ => none
  | .por _ _ => none
  | .pxor _ _ => none
  | .fadd _ _ d p m => need (roundMod m) .modifier <|> need (decide (p ≠ 3)) .guard <|> need (decide (d ≠ 15)) .direction
  | .fsub _ _ d p m => need (roundMod m) .modifier <|> need (decide (p ≠ 3)) .guard <|> need (decide (d ≠ 15)) .direction
  | .fmul _ _ d p m => need (roundMod m) .modifier <|> need (decide (p ≠ 3)) .guard <|> need (decide (d ≠ 15)) .direction
  | .fma _ _ _ d p m => need (roundMod m) .modifier <|> need (decide (p ≠ 3)) .guard <|> need (decide (d ≠ 15)) .direction
  | .fmax _ _ d p => need (decide (p ≠ 3)) .guard <|> need (decide (d ≠ 15)) .direction
  | .fmin _ _ d p => need (decide (p ≠ 3)) .guard <|> need (decide (d ≠ 15)) .direction
  | .fabs _ d p => need (decide (p ≠ 3)) .guard <|> need (decide (d ≠ 15)) .direction
  | .fneg _ d p => need (decide (p ≠ 3)) .guard <|> need (decide (d ≠ 15)) .direction
  | .fcmp _ _ d p m => need (decide (m.toNat < 8)) .modifier <|> need (decide (p ≠ 3)) .guard <|> need (decide (d ≠ 15)) .direction
  | .fclip _ _ _ d p => need (decide (p ≠ 3)) .guard <|> need (decide (d ≠ 15)) .direction
  | .fscl _ _ d p m => need (roundMod m) .modifier <|> need (decide (p ≠ 3)) .guard <|> need (decide (d ≠ 15)) .direction
  | .frcp _ d p m => need (roundMod m) .modifier <|> need (decide (p ≠ 3)) .guard <|> need (decide (d ≠ 15)) .direction
  | .frsq _ d p m => need (roundMod m) .modifier <|> need (decide (p ≠ 3)) .guard <|> need (decide (d ≠ 15)) .direction
  | .fexp2 _ d p m => need (roundMod m) .modifier <|> need (decide (p ≠ 3)) .guard <|> need (decide (d ≠ 15)) .direction
  | .flog2 _ d p m => need (roundMod m) .modifier <|> need (decide (p ≠ 3)) .guard <|> need (decide (d ≠ 15)) .direction
  | .ftanh _ d p m => need (roundMod m) .modifier <|> need (decide (p ≠ 3)) .guard <|> need (decide (d ≠ 15)) .direction
  | .fsig _ d p m => need (roundMod m) .modifier <|> need (decide (p ≠ 3)) .guard <|> need (decide (d ≠ 15)) .direction
  | .ftab _ d p _ _ => need (decide (p ≠ 3)) .guard <|> need (decide (d ≠ 15)) .direction
  | .fsumO _ d m => need (roundMod m) .modifier <|> need (decide (d ≠ 15)) .direction
  | .fsumU _ d m => need (roundMod m) .modifier <|> need (decide (d ≠ 15)) .direction
  | .fmaxr _ d => need (decide (d ≠ 15)) .direction
  | .fdotO _ _ d m => need (roundMod m) .modifier <|> need (decide (d ≠ 15)) .direction
  | .fdotU _ _ d m => need (roundMod m) .modifier <|> need (decide (d ≠ 15)) .direction
  | .iadd _ _ d p m => need (decide (m.toNat ≤ 2)) .modifier <|> need (decide (p ≠ 3)) .guard <|> need (decide (d ≠ 15)) .direction
  | .isub _ _ d p m => need (decide (m.toNat ≤ 2)) .modifier <|> need (decide (p ≠ 3)) .guard <|> need (decide (d ≠ 15)) .direction
  | .imul _ _ d p m => need (decide (m.toNat ≤ 2)) .modifier <|> need (decide (p ≠ 3)) .guard <|> need (decide (d ≠ 15)) .direction
  | .imad _ _ _ d p m => need (decide (m.toNat ≤ 1)) .modifier <|> need (decide (p ≠ 3)) .guard <|> need (decide (d ≠ 15)) .direction
  | .imin _ _ d p _ => need (decide (p ≠ 3)) .guard <|> need (decide (d ≠ 15)) .direction
  | .imax _ _ d p _ => need (decide (p ≠ 3)) .guard <|> need (decide (d ≠ 15)) .direction
  | .vand _ _ d p => need (decide (p ≠ 3)) .guard <|> need (decide (d ≠ 15)) .direction
  | .vor _ _ d p => need (decide (p ≠ 3)) .guard <|> need (decide (d ≠ 15)) .direction
  | .vxor _ _ d p => need (decide (p ≠ 3)) .guard <|> need (decide (d ≠ 15)) .direction
  | .vandn _ _ d p => need (decide (p ≠ 3)) .guard <|> need (decide (d ≠ 15)) .direction
  | .vshl _ b c d p m => need (decide (if m = 1 then b = 31 else c = 31)) .unusedField <|> need (decide (p ≠ 3)) .guard <|> need (decide (d ≠ 15)) .direction
  | .vshr _ b c d p m => need (decide (if m = 1 then b = 31 else c = 31)) .unusedField <|> need (decide (p ≠ 3)) .guard <|> need (decide (d ≠ 15)) .direction
  | .vsar _ b c d p m => need (decide (if m = 1 then b = 31 else c = 31)) .unusedField <|> need (decide (p ≠ 3)) .guard <|> need (decide (d ≠ 15)) .direction
  | .icmp _ _ d p m => need (decide (m.toNat < 8)) .modifier <|> need (decide (p ≠ 3)) .guard <|> need (decide (d ≠ 15)) .direction
  | .popc _ d p => need (decide (p ≠ 3)) .guard <|> need (decide (d ≠ 15)) .direction
  | .clz _ d p => need (decide (p ≠ 3)) .guard <|> need (decide (d ≠ 15)) .direction
  | .isum _ d m => need (decide (m.toNat ≤ 2)) .modifier <|> need (decide (d ≠ 15)) .direction
  | .iabs _ d p _ => need (decide (p ≠ 3)) .guard <|> need (decide (d ≠ 15)) .direction
  | .isat _ _ d p _ => need (decide (p ≠ 3)) .guard <|> need (decide (d ≠ 15)) .direction
  | .cvt _ _ d p m => need (roundMod m) .modifier <|> need (decide (p ≠ 3)) .guard <|> need (decide (d ≠ 15)) .direction
  | .req _ _ d m => need (roundMod m) .modifier <|> need (decide (d ≠ 15)) .direction
  | .bscl _ b d m => need (decide (m.toNat ≤ 2)) .modifier <|> need (decide (m = 0 ∨ b = 31)) .unusedField <|> need (decide (d ≠ 15)) .direction
  | .pack _ _ d => need (decide (d ≠ 15)) .direction
  | .unpk _ d _ => need (decide (d ≠ 15)) .direction
  | .qdec _ _ d p => need (decide (p ≠ 3)) .guard <|> need (decide (d ≠ 15)) .direction
  | .qenc _ _ _ d m => need (roundMod m) .modifier <|> need (decide (d ≠ 15)) .direction
  | .iter d p m => need (decide (m.toNat ≤ 2)) .modifier <|> need (decide (p ≠ 3)) .guard <|> need (decide (d ≠ 15)) .direction
  | .done => none
  | .mnop => none
  | .lds lane pred _ _ shelf => need (decide (lane.toNat ≤ 12)) .lane <|> need (decide (pred ≠ 3)) .guard <|> need (decide (shelf.toNat < 64 ∨ shelf = 0xFF)) .shelf
  | .sts lane pred _ shelf => need (decide (1 ≤ lane.toNat ∧ lane.toNat ≤ 15)) .lane <|> need (decide (pred ≠ 3)) .guard <|> need (decide (shelf.toNat < 64 ∨ shelf = 0xFF)) .shelf
  | .ldx lane pred mode ag _ shelf _ => need (decide (lane.toNat ≤ 12)) .lane <|> need (decide (pred ≠ 3)) .guard <|> need (decide (mode ≠ 7)) .size <|> need (decide (ag.toNat < 2)) .register <|> need (decide (shelf.toNat < 64 ∨ shelf = 0xFF)) .shelf
  | .stx lane pred mode ag shelf _ => need (decide (1 ≤ lane.toNat ∧ lane.toNat ≤ 15)) .lane <|> need (decide (pred ≠ 3)) .guard <|> need (decide (mode ≠ 7)) .size <|> need (decide (ag.toNat < 2)) .register <|> need (decide (shelf.toNat < 64 ∨ shelf = 0xFF)) .shelf
  | .amoO lane pred mode ag shelf _ => need (decide (1 ≤ lane.toNat ∧ lane.toNat ≤ 15)) .lane <|> need (decide (pred ≠ 3)) .guard <|> need (decide (mode ≠ 7)) .size <|> need (decide (ag.toNat < 2)) .register <|> need (decide (shelf.toNat < 64 ∨ shelf = 0xFF)) .shelf
  | .amoU lane pred mode ag shelf _ => need (decide (1 ≤ lane.toNat ∧ lane.toNat ≤ 15)) .lane <|> need (decide (pred ≠ 3)) .guard <|> need (decide (mode ≠ 7)) .size <|> need (decide (ag.toNat < 2)) .register <|> need (decide (shelf.toNat < 64 ∨ shelf = 0xFF)) .shelf
  | .drd lane pred dix _ => need (decide (lane.toNat ≤ 12)) .lane <|> need (decide (pred ≠ 3)) .guard <|> need (decide (dix.toNat < 8)) .scope
  | .shpub shelf => need (decide (shelf.toNat < 64)) .shelf
  | .shrel shelf => need (decide (shelf.toNat < 64)) .shelf
  | .mfence dix imm => need (decide (dix.toNat ≤ 4)) .scope <|> need (nodeSets imm) .fenceSet
  | .xnop => none
  | .xmm _ _ ash bsh kst _ => need (decide (ash.toNat < 64)) .shelf <|> need (decide (bsh.toNat < 64)) .shelf <|> need (decide (kst ≠ 0)) .size
  | .xclr _ _ _ => none
  | .xwb _ _ ash bsh kst sfmt _ scale dside => need (decide (ash.toNat < 64)) .shelf <|> need (decide (bsh.toNat < 64)) .shelf <|> need (decide (kst.toNat ≤ 0x0B)) .size <|> need (decide (scale = 1 ∨ sfmt = 0)) .unusedField <|> need (decide (if dside = 0 then bsh = 0 else ash = 0)) .unusedField
  | .xdnd _ ash bsh kst _ _ _ => need (decide (ash.toNat < 64)) .shelf <|> need (decide (bsh.toNat < 64)) .shelf <|> need (decide (kst ≠ 0)) .size
  | .xdfin _ ash _ _ _ tap => need (decide (ash.toNat < 64)) .shelf <|> need (decide (tap = 1 ∨ ash = 0)) .unusedField
  | .xdbx _ ash bsh kst _ _ _ => need (decide (ash.toNat < 64)) .shelf <|> need (decide (bsh.toNat < 64)) .shelf <|> need (decide (kst ≠ 0)) .size
  | .xdbw _ ash bsh kst _ _ _ => need (decide (ash.toNat < 64)) .shelf <|> need (decide (bsh.toNat < 64)) .shelf <|> need (decide (kst ≠ 0)) .size
  | .xtrq ash bsh => need (decide (ash.toNat < 64)) .shelf <|> need (decide (bsh.toNat < 64)) .shelf
  | .xsta _ _ ash bsh dside => need (decide (ash.toNat < 64)) .shelf <|> need (decide (bsh.toNat < 64)) .shelf <|> need (decide (if dside = 0 then bsh = 0 else ash = 0)) .unusedField
  | .xlda _ _ ash bsh dside => need (decide (ash.toNat < 64)) .shelf <|> need (decide (bsh.toNat < 64)) .shelf <|> need (decide (if dside = 0 then bsh = 0 else ash = 0)) .unusedField
  | .cnop g => need (decide (g ≠ 8)) .guard
  | .add _ _ _ g => need (decide (g ≠ 8)) .guard
  | .addi _ _ _ => none
  | .sub _ _ _ g => need (decide (g ≠ 8)) .guard
  | .mul _ _ _ g => need (decide (g ≠ 8)) .guard
  | .mulh _ _ _ g => need (decide (g ≠ 8)) .guard
  | .divu _ _ _ g => need (decide (g ≠ 8)) .guard
  | .divs _ _ _ g => need (decide (g ≠ 8)) .guard
  | .and _ _ _ g => need (decide (g ≠ 8)) .guard
  | .andi _ _ _ => none
  | .or _ _ _ g => need (decide (g ≠ 8)) .guard
  | .ori _ _ _ => none
  | .xor _ _ _ g => need (decide (g ≠ 8)) .guard
  | .xori _ _ _ => none
  | .shl _ _ _ g => need (decide (g ≠ 8)) .guard
  | .shli _ _ i => need (decide (i.toNat ≤ 63)) .immediate
  | .shr _ _ _ g => need (decide (g ≠ 8)) .guard
  | .shri _ _ i => need (decide (i.toNat ≤ 63)) .immediate
  | .sar _ _ _ g => need (decide (g ≠ 8)) .guard
  | .sari _ _ i => need (decide (i.toNat ≤ 63)) .immediate
  | .min _ _ _ g => need (decide (g ≠ 8)) .guard
  | .max _ _ _ g => need (decide (g ≠ 8)) .guard
  | .csel _ _ _ g => need (decide (g ≠ 8)) .guard
  | .mov w d s g => need (decide (g ≠ 8)) .guard <|> need (aligned w d && aligned w s) .width
  | .movi _ _ => none
  | .movl _ g _ => need (decide (g ≠ 8)) .guard
  | .movh _ g _ => need (decide (g ≠ 8)) .guard
  | .cmp pd _ _ _ g => need (decide (g ≠ 8)) .guard <|> need (decide (pd ≠ 0)) .predicate
  | .cmpi pd _ _ _ => need (decide (pd ≠ 0)) .predicate
  | .plog pd _ _ _ g => need (decide (g ≠ 8)) .guard <|> need (decide (pd ≠ 0)) .predicate
  | .br g _ => need (decide (g ≠ 8)) .guard
  | .call g _ => need (decide (g ≠ 8)) .guard
  | .ret g => need (decide (g ≠ 8)) .guard
  | .jmpr _ g => need (decide (g ≠ 8)) .guard
  | .loop _ _ => none
  | .ld w d _ sz _ g => need (decide (g ≠ 8)) .guard <|> need (aligned w d) .width <|> need (decide (w = 0 ∨ sz = 3)) .width
  | .st w d _ sz _ g => need (decide (g ≠ 8)) .guard <|> need (aligned w d) .width <|> need (decide (w = 0 ∨ sz = 3)) .width
  | .amadd z _ _ _ g => need (decide (g ≠ 8)) .guard <|> need (decide (2 ≤ z.toNat)) .size
  | .amand z _ _ _ g => need (decide (g ≠ 8)) .guard <|> need (decide (2 ≤ z.toNat)) .size
  | .amor z _ _ _ g => need (decide (g ≠ 8)) .guard <|> need (decide (2 ≤ z.toNat)) .size
  | .ammin z _ _ _ g => need (decide (g ≠ 8)) .guard <|> need (decide (2 ≤ z.toNat)) .size
  | .ammax z _ _ _ g => need (decide (g ≠ 8)) .guard <|> need (decide (2 ≤ z.toNat)) .size
  | .amxch z _ _ _ g => need (decide (g ≠ 8)) .guard <|> need (decide (2 ≤ z.toNat)) .size
  | .amcas z _ _ t g => need (decide (g ≠ 8)) .guard <|> need (decide (2 ≤ z.toNat)) .size <|> need (aligned 1 t) .width
  | .fence pset sset scope => need (decide (pset ≠ 0)) .fenceSet <|> need (decide (sset ≠ 0)) .fenceSet <|> need (decide (scope.toNat ≤ 4)) .scope
  | .waitv _ _ _ _ g => need (decide (g ≠ 8)) .guard
  | .sbind _ s _ g => need (decide (g ≠ 8)) .guard <|> need (aligned 3 s) .width
  | .sstg _ s _ g => need (decide (g ≠ 8)) .guard <|> need (aligned 3 s) .width
  | .sevc _ s _ g => need (decide (g ≠ 8)) .guard <|> need (aligned 3 s) .width
  | .scpy _ s _ g => need (decide (g ≠ 8)) .guard <|> need (aligned 3 s) .width
  | .swait _ _ g => need (decide (g ≠ 8)) .guard
  | .sstat _ _ g => need (decide (g ≠ 8)) .guard
  | .cfgl _ _ g => need (decide (g ≠ 8)) .guard
  | .cfgp _ s g => need (decide (g ≠ 8)) .guard <|> need (aligned 1 s) .width
  | .go _ g => need (decide (g ≠ 8)) .guard
  | .drain _ g => need (decide (g ≠ 8)) .guard
  | .pbar g => need (decide (g ≠ 8)) .guard
  | .xcmd _ s g => need (decide (g ≠ 8)) .guard <|> need (aligned 1 s) .width
  | .xwait _ g => need (decide (g ≠ 8)) .guard
  | .coll _ _ _ g => need (decide (g ≠ 8)) .guard
  | .ddecl _ s g => need (decide (g ≠ 8)) .guard <|> need (aligned 3 s) .width
  | .ddrop _ _ g => need (decide (g ≠ 8)) .guard
  | .dwait _ g => need (decide (g ≠ 8)) .guard
  | .ropen _ _ _ g => need (decide (g ≠ 8)) .guard
  | .rclose _ g => need (decide (g ≠ 8)) .guard
  | .nbop _ s g => need (decide (g ≠ 8)) .guard <|> need (aligned 2 s) .width
  | .nbred _ _ g => need (decide (g ≠ 8)) .guard
  | .optm _ _ g => need (decide (g ≠ 8)) .guard
  | .nbstat _ _ g => need (decide (g ≠ 8)) .guard
  | .tload _ s g => need (decide (g ≠ 8)) .guard <|> need (aligned 1 s) .width
  | .rdig _ s _ g => need (decide (g ≠ 8)) .guard <|> need (aligned 1 s) .width
  | .qfeat _ _ => none
  | .rdsys _ i => need (sysAssigned i) .register
  | .wrsys _ i => need (sysAssigned i) .register
  | .trap _ => none
  | .eret g => need (decide (g ≠ 8)) .guard
  | .halt g => need (decide (g ≠ 8)) .guard
  | .waite d s g => need (decide (g ≠ 8)) .guard <|> need (decide (d ≠ s)) .register
  | .sendt _ _ _ g => need (decide (g ≠ 8)) .guard
  | .keyld _ _ _ g => need (decide (g ≠ 8)) .guard
  | .attq _ _ _ g => need (decide (g ≠ 8)) .guard
  | .alarmpWrite _ => none
  | .alarmsClear _ => none
  | .ageLimitWrite _ => none
  | .htabWrite _ _ => none
  | .startUp _ => none
  | .hostAccess _ _ _ _ => none
  | .launchRecordAcceptance _ => none
  | .launchRecordCheck _ => none
  | .schedulerPass => none
  | .priorityAging _ => none
  | .gangDieRequest _ _ _ _ _ _ => none
  | .launchStart _ => none
  | .launchSave _ => none
  | .launchEnd _ => none
  | .powerThrottle _ => none
  | .thermalThrottle _ => none
  | .thermalShutdown => none
  | .linkLoss _ => none
  | .linkRetrain _ _ => none
  | .securityAlarm _ => none
  | .perBankRefresh _ _ _ => none
  | .refreshHeartbeat _ => none
  | .refreshTakeover _ => none
  | .refreshHandback _ => none
  | .remoteReadRequest _ _ _ _ => none
  | .actWindowExpiry _ => none
  | .actWrite _ _ _ _ => none
  | .tileTaskBegin _ _ => none
  | .controllerChildStart _ _ _ => none
  | .regionUnfreeze _ _ => none
  | .regionWdog _ _ => none
  | .reconfigStep _ => none
  | .reconfigSwap _ => none
  | .prefetchComplete _ => none
  | .circuitTransferStart _ _ => none
  | .circuitPublish _ _ => none
  | .streamCommandStart _ _ _ => none
  | .streamCompletion _ _ _ => none
  | .xnCommandStart _ _ _ => none
  | .xnCompletion _ _ _ _ => none
  | .nodeStoreArrival _ _ => none
  | .cabinetOperation _ _ => none
  | .reductionOperation _ => none
  | .optimiserUpdate _ => none
  | .tokenArrival _ => none
  | .faultStop _ _ => none
  | .regionFaultFreeze _ => none
  | .faultRecordWrite _ => none
  | .collectiveCompletion _ => none
  | .derivedBuildDone _ _ _ => none
  | .gangGrant _ _ _ => none
  | .eccError _ _ => none

/-- An instruction without a defect. -/
def WellFormed (i : Instr) : Prop := defect i = none

end Sys2Proof
end

