-- ==== Sys2Proof/Decode.lean ====
section
/-! DEFINITION. Decoding of the four instruction classes (R115 to R130), total on any word and rejecting by name, and
the encoder written from the same tables. A word is split into its fields once (`RowWord`, `MnWord`, `XnWord` and the
control-core forms); the opcode selects the instruction; `defect` refuses what the encodings forbid. -/

namespace Sys2Proof

/-- The `n` bits of `x` from bit `lo` upward. -/
def field {w : Nat} (x : BitVec w) (lo n : Nat) : BitVec n := BitVec.ofNat n (x.toNat / 2 ^ lo)

/-- The fields of an element row (R115). -/
structure RowWord where
  op : BitVec 7
  a : BitVec 5
  b : BitVec 5
  c : BitVec 5
  d : BitVec 4
  p : BitVec 2
  m : BitVec 4
  deriving DecidableEq, Repr

/-- The fields of an MN entry (R117); `z` is the reserved bit 44. -/
structure MnWord where
  op : BitVec 6
  lane : BitVec 5
  pred : BitVec 2
  mode : BitVec 3
  ag : BitVec 2
  chk : BitVec 1
  z : BitVec 1
  dix : BitVec 4
  shelf : BitVec 8
  imm : BitVec 32
  deriving DecidableEq, Repr

/-- The fields of an XN entry (R121); `z` is the reserved bits 10:5. -/
structure XnWord where
  op : BitVec 6
  acc : BitVec 2
  ver : BitVec 8
  ash : BitVec 8
  bsh : BitVec 8
  kst : BitVec 8
  anch : BitVec 8
  map : BitVec 3
  lb : BitVec 2
  z : BitVec 6
  sfmt : BitVec 1
  tap : BitVec 1
  clip : BitVec 1
  scale : BitVec 1
  dside : BitVec 1
  deriving DecidableEq, Repr

/-- The R and A forms (R123). -/
structure RForm where
  w : BitVec 2
  d : BitVec 6
  s : BitVec 6
  t : BitVec 6
  g : BitVec 4
  deriving DecidableEq, Repr

/-- The I form. -/
structure IForm where
  w : BitVec 2
  d : BitVec 6
  s : BitVec 6
  i : BitVec 10
  deriving DecidableEq, Repr

/-- The C form. -/
structure CForm where
  w : BitVec 2
  pd : BitVec 3
  cond : BitVec 3
  s : BitVec 6
  t : BitVec 6
  g : BitVec 4
  deriving DecidableEq, Repr

/-- The C form of CMPI. -/
structure CIForm where
  w : BitVec 2
  pd : BitVec 3
  cond : BitVec 3
  s : BitVec 6
  i : BitVec 10
  deriving DecidableEq, Repr

/-- The M form. -/
structure MForm where
  w : BitVec 2
  d : BitVec 6
  base : BitVec 6
  sz : BitVec 2
  off : BitVec 4
  g : BitVec 4
  deriving DecidableEq, Repr

/-- The F form. -/
structure FForm where
  pset : BitVec 8
  sset : BitVec 8
  scope : BitVec 3
  z : BitVec 5
  deriving DecidableEq, Repr

def rowWordOf (x : BitVec 32) : RowWord :=
  { op := field x 25 7, a := field x 20 5, b := field x 15 5, c := field x 10 5, d := field x 6 4,
    p := field x 4 2,
    m := field x 0 4 }
def rowWordBits (r : RowWord) : BitVec 32 :=
  BitVec.ofNat 32 (r.op.toNat * 2 ^ 25 + r.a.toNat * 2 ^ 20 + r.b.toNat * 2 ^ 15 + r.c.toNat * 2 ^ 10 + r.d.toNat * 2 ^ 6 + r.p.toNat * 2 ^ 4 + r.m.toNat)

def mnWordOf (x : BitVec 64) : MnWord :=
  { op := field x 58 6, lane := field x 53 5, pred := field x 51 2, mode := field x 48 3, ag := field x 46 2,
    chk := field x 45 1, z := field x 44 1, dix := field x 40 4, shelf := field x 32 8,
    imm := field x 0 32 }
def mnWordBits (r : MnWord) : BitVec 64 :=
  BitVec.ofNat 64 (r.op.toNat * 2 ^ 58 + r.lane.toNat * 2 ^ 53 + r.pred.toNat * 2 ^ 51 + r.mode.toNat * 2 ^ 48 + r.ag.toNat * 2 ^ 46 + r.chk.toNat * 2 ^ 45 + r.z.toNat * 2 ^ 44 + r.dix.toNat * 2 ^ 40 + r.shelf.toNat * 2 ^ 32 + r.imm.toNat)

def xnWordOf (x : BitVec 64) : XnWord :=
  { op := field x 58 6, acc := field x 56 2, ver := field x 48 8, ash := field x 40 8, bsh := field x 32 8,
    kst := field x 24 8, anch := field x 16 8, map := field x 13 3, lb := field x 11 2, z := field x 5 6,
    sfmt := field x 4 1, tap := field x 3 1, clip := field x 2 1, scale := field x 1 1,
    dside := field x 0 1 }
def xnWordBits (r : XnWord) : BitVec 64 :=
  BitVec.ofNat 64 (r.op.toNat * 2 ^ 58 + r.acc.toNat * 2 ^ 56 + r.ver.toNat * 2 ^ 48 + r.ash.toNat * 2 ^ 40 + r.bsh.toNat * 2 ^ 32 + r.kst.toNat * 2 ^ 24 + r.anch.toNat * 2 ^ 16 + r.map.toNat * 2 ^ 13 + r.lb.toNat * 2 ^ 11 + r.z.toNat * 2 ^ 5 + r.sfmt.toNat * 2 ^ 4 + r.tap.toNat * 2 ^ 3 + r.clip.toNat * 2 ^ 2 + r.scale.toNat * 2 ^ 1 + r.dside.toNat)

def rFormOf (x : BitVec 24) : RForm :=
  { w := field x 22 2, d := field x 16 6, s := field x 10 6, t := field x 4 6, g := field x 0 4 }
def rFormBits (r : RForm) : BitVec 24 :=
  BitVec.ofNat 24 (r.w.toNat * 2 ^ 22 + r.d.toNat * 2 ^ 16 + r.s.toNat * 2 ^ 10 + r.t.toNat * 2 ^ 4 + r.g.toNat)

def iFormOf (x : BitVec 24) : IForm :=
  { w := field x 22 2, d := field x 16 6, s := field x 10 6, i := field x 0 10 }
def iFormBits (r : IForm) : BitVec 24 :=
  BitVec.ofNat 24 (r.w.toNat * 2 ^ 22 + r.d.toNat * 2 ^ 16 + r.s.toNat * 2 ^ 10 + r.i.toNat)

def cFormOf (x : BitVec 24) : CForm :=
  { w := field x 22 2, pd := field x 19 3, cond := field x 16 3, s := field x 10 6, t := field x 4 6,
    g := field x 0 4 }
def cFormBits (r : CForm) : BitVec 24 :=
  BitVec.ofNat 24 (r.w.toNat * 2 ^ 22 + r.pd.toNat * 2 ^ 19 + r.cond.toNat * 2 ^ 16 + r.s.toNat * 2 ^ 10 + r.t.toNat * 2 ^ 4 + r.g.toNat)

def cIFormOf (x : BitVec 24) : CIForm :=
  { w := field x 22 2, pd := field x 19 3, cond := field x 16 3, s := field x 10 6, i := field x 0 10 }
def cIFormBits (r : CIForm) : BitVec 24 :=
  BitVec.ofNat 24 (r.w.toNat * 2 ^ 22 + r.pd.toNat * 2 ^ 19 + r.cond.toNat * 2 ^ 16 + r.s.toNat * 2 ^ 10 + r.i.toNat)

def mFormOf (x : BitVec 24) : MForm :=
  { w := field x 22 2, d := field x 16 6, base := field x 10 6, sz := field x 8 2, off := field x 4 4,
    g := field x 0 4 }
def mFormBits (r : MForm) : BitVec 24 :=
  BitVec.ofNat 24 (r.w.toNat * 2 ^ 22 + r.d.toNat * 2 ^ 16 + r.base.toNat * 2 ^ 10 + r.sz.toNat * 2 ^ 8 + r.off.toNat * 2 ^ 4 + r.g.toNat)

def fFormOf (x : BitVec 24) : FForm :=
  { pset := field x 16 8, sset := field x 8 8, scope := field x 5 3, z := field x 0 5 }
def fFormBits (r : FForm) : BitVec 24 :=
  BitVec.ofNat 24 (r.pset.toNat * 2 ^ 16 + r.sset.toNat * 2 ^ 8 + r.scope.toNat * 2 ^ 5 + r.z.toNat)

/-- Accept an instruction without a defect, refuse one with its first defect. -/
def accept (i : Instr) : Except Defect Instr :=
  match defect i with
  | none => .ok i
  | some d => .error d

/-- Accept an instruction whose unused fields hold what they must. -/
def acceptIf (c : Bool) (i : Instr) : Except Defect Instr := if c then accept i else .error .unusedField

/-- The row of an element's fields (R116). -/
def ofRow (r : RowWord) : Except Defect Instr :=
  match r.op.toNat with
  | 0 => acceptIf (decide (r.a = 31 ∧ r.b = 31 ∧ r.c = 31 ∧ r.d = 0 ∧ r.p = 0 ∧ r.m = 0)) .nop
  | 1 => acceptIf (decide (r.b = 31 ∧ r.c = 31 ∧ r.m = 0)) (.copy r.a r.d r.p)
  | 2 => acceptIf (decide (r.b = 31 ∧ r.m = 0)) (.xpt r.a r.c r.d r.p)
  | 3 => acceptIf (decide (r.c = 31 ∧ r.p = 0 ∧ r.m.extractLsb' 1 3 = 0)) (.sel r.a r.b r.d (r.m.extractLsb' 0 1))
  | 4 => acceptIf (decide (r.b = 31 ∧ r.m.extractLsb' 2 2 = 0)) (.bcst r.a r.c r.d r.p (r.m.extractLsb' 0 2))
  | 5 => acceptIf (decide (r.c = 31 ∧ r.m = 0)) (.shuf r.a r.b r.d r.p)
  | 6 => acceptIf (decide (r.c = 31 ∧ r.m.extractLsb' 1 3 = 0)) (.zip r.a r.b r.d r.p (r.m.extractLsb' 0 1))
  | 7 => acceptIf (decide (r.c = 31 ∧ r.m.extractLsb' 1 3 = 0)) (.unz r.a r.b r.d r.p (r.m.extractLsb' 0 1))
  | 8 => acceptIf (decide (r.b = 31 ∧ r.c = 31 ∧ r.d = 0 ∧ r.p = 0 ∧ r.m = 0)) (.pmov r.a)
  | 9 => acceptIf (decide (r.a = 31 ∧ r.b = 31 ∧ r.c = 31 ∧ r.m = 0)) (.pget r.d r.p)
  | 10 => acceptIf (decide (r.b = 31 ∧ r.c = 31 ∧ r.d = 0 ∧ r.p = 0 ∧ r.m.extractLsb' 1 3 = 0)) (.pand r.a (r.m.extractLsb' 0 1))
  | 11 => acceptIf (decide (r.b = 31 ∧ r.c = 31 ∧ r.d = 0 ∧ r.p = 0 ∧ r.m.extractLsb' 1 3 = 0)) (.por r.a (r.m.extractLsb' 0 1))
  | 12 => acceptIf (decide (r.b = 31 ∧ r.c = 31 ∧ r.d = 0 ∧ r.p = 0 ∧ r.m.extractLsb' 1 3 = 0)) (.pxor r.a (r.m.extractLsb' 0 1))
  | 16 => acceptIf (decide (r.c = 31)) (.fadd r.a r.b r.d r.p r.m)
  | 17 => acceptIf (decide (r.c = 31)) (.fsub r.a r.b r.d r.p r.m)
  | 18 => acceptIf (decide (r.c = 31)) (.fmul r.a r.b r.d r.p r.m)
  | 19 => accept (.fma r.a r.b r.c r.d r.p r.m)
  | 20 => acceptIf (decide (r.c = 31 ∧ r.m = 0)) (.fmax r.a r.b r.d r.p)
  | 21 => acceptIf (decide (r.c = 31 ∧ r.m = 0)) (.fmin r.a r.b r.d r.p)
  | 22 => acceptIf (decide (r.b = 31 ∧ r.c = 31 ∧ r.m = 0)) (.fabs r.a r.d r.p)
  | 23 => acceptIf (decide (r.b = 31 ∧ r.c = 31 ∧ r.m = 0)) (.fneg r.a r.d r.p)
  | 24 => acceptIf (decide (r.c = 31)) (.fcmp r.a r.b r.d r.p r.m)
  | 25 => acceptIf (decide (r.m = 0)) (.fclip r.a r.b r.c r.d r.p)
  | 26 => acceptIf (decide (r.c = 31)) (.fscl r.a r.b r.d r.p r.m)
  | 27 => acceptIf (decide (r.b = 31 ∧ r.c = 31)) (.frcp r.a r.d r.p r.m)
  | 28 => acceptIf (decide (r.b = 31 ∧ r.c = 31)) (.frsq r.a r.d r.p r.m)
  | 29 => acceptIf (decide (r.b = 31 ∧ r.c = 31)) (.fexp2 r.a r.d r.p r.m)
  | 30 => acceptIf (decide (r.b = 31 ∧ r.c = 31)) (.flog2 r.a r.d r.p r.m)
  | 31 => acceptIf (decide (r.b = 31 ∧ r.c = 31)) (.ftanh r.a r.d r.p r.m)
  | 32 => acceptIf (decide (r.b = 31 ∧ r.c = 31)) (.fsig r.a r.d r.p r.m)
  | 33 => acceptIf (decide (r.b = 31 ∧ r.c = 31 ∧ r.m.extractLsb' 3 1 = 0)) (.ftab r.a r.d r.p (r.m.extractLsb' 2 1) (r.m.extractLsb' 0 2))
  | 34 => acceptIf (decide (r.b = 31 ∧ r.c = 31 ∧ r.p = 0)) (.fsumO r.a r.d r.m)
  | 35 => acceptIf (decide (r.b = 31 ∧ r.c = 31 ∧ r.p = 0)) (.fsumU r.a r.d r.m)
  | 36 => acceptIf (decide (r.b = 31 ∧ r.c = 31 ∧ r.p = 0 ∧ r.m = 0)) (.fmaxr r.a r.d)
  | 37 => acceptIf (decide (r.c = 31 ∧ r.p = 0)) (.fdotO r.a r.b r.d r.m)
  | 38 => acceptIf (decide (r.c = 31 ∧ r.p = 0)) (.fdotU r.a r.b r.d r.m)
  | 48 => acceptIf (decide (r.c = 31)) (.iadd r.a r.b r.d r.p r.m)
  | 49 => acceptIf (decide (r.c = 31)) (.isub r.a r.b r.d r.p r.m)
  | 50 => acceptIf (decide (r.c = 31)) (.imul r.a r.b r.d r.p r.m)
  | 51 => accept (.imad r.a r.b r.c r.d r.p r.m)
  | 52 => acceptIf (decide (r.c = 31 ∧ r.m.extractLsb' 1 3 = 0)) (.imin r.a r.b r.d r.p (r.m.extractLsb' 0 1))
  | 53 => acceptIf (decide (r.c = 31 ∧ r.m.extractLsb' 1 3 = 0)) (.imax r.a r.b r.d r.p (r.m.extractLsb' 0 1))
  | 54 => acceptIf (decide (r.c = 31 ∧ r.m = 0)) (.vand r.a r.b r.d r.p)
  | 55 => acceptIf (decide (r.c = 31 ∧ r.m = 0)) (.vor r.a r.b r.d r.p)
  | 56 => acceptIf (decide (r.c = 31 ∧ r.m = 0)) (.vxor r.a r.b r.d r.p)
  | 57 => acceptIf (decide (r.c = 31 ∧ r.m = 0)) (.vandn r.a r.b r.d r.p)
  | 58 => acceptIf (decide (r.m.extractLsb' 1 3 = 0)) (.vshl r.a r.b r.c r.d r.p (r.m.extractLsb' 0 1))
  | 59 => acceptIf (decide (r.m.extractLsb' 1 3 = 0)) (.vshr r.a r.b r.c r.d r.p (r.m.extractLsb' 0 1))
  | 60 => acceptIf (decide (r.m.extractLsb' 1 3 = 0)) (.vsar r.a r.b r.c r.d r.p (r.m.extractLsb' 0 1))
  | 61 => acceptIf (decide (r.c = 31)) (.icmp r.a r.b r.d r.p r.m)
  | 62 => acceptIf (decide (r.b = 31 ∧ r.c = 31 ∧ r.m = 0)) (.popc r.a r.d r.p)
  | 63 => acceptIf (decide (r.b = 31 ∧ r.c = 31 ∧ r.m = 0)) (.clz r.a r.d r.p)
  | 64 => acceptIf (decide (r.b = 31 ∧ r.c = 31 ∧ r.p = 0)) (.isum r.a r.d r.m)
  | 65 => acceptIf (decide (r.b = 31 ∧ r.c = 31 ∧ r.m.extractLsb' 1 3 = 0)) (.iabs r.a r.d r.p (r.m.extractLsb' 0 1))
  | 66 => acceptIf (decide (r.b = 31 ∧ r.m.extractLsb' 1 3 = 0)) (.isat r.a r.c r.d r.p (r.m.extractLsb' 0 1))
  | 72 => acceptIf (decide (r.b = 31)) (.cvt r.a r.c r.d r.p r.m)
  | 73 => acceptIf (decide (r.c = 31 ∧ r.p = 0)) (.req r.a r.b r.d r.m)
  | 74 => acceptIf (decide (r.c = 31 ∧ r.p = 0)) (.bscl r.a r.b r.d r.m)
  | 75 => acceptIf (decide (r.c = 31 ∧ r.p = 0 ∧ r.m = 0)) (.pack r.a r.b r.d)
  | 76 => acceptIf (decide (r.b = 31 ∧ r.c = 31 ∧ r.p = 0 ∧ r.m.extractLsb' 1 3 = 0)) (.unpk r.a r.d (r.m.extractLsb' 0 1))
  | 77 => acceptIf (decide (r.b = 31 ∧ r.m = 0)) (.qdec r.a r.c r.d r.p)
  | 78 => acceptIf (decide (r.p = 0)) (.qenc r.a r.b r.c r.d r.m)
  | 88 => acceptIf (decide (r.a = 31 ∧ r.b = 31 ∧ r.c = 31 ∧ r.m.extractLsb' 2 2 = 0)) (.iter r.d r.p (r.m.extractLsb' 0 2))
  | 89 => acceptIf (decide (r.a = 31 ∧ r.b = 31 ∧ r.c = 31 ∧ r.d = 0 ∧ r.p = 0 ∧ r.m = 0)) .done
  | _ => .error .opcode

/-- The entry of an MN's fields (R119, R120). -/
def ofMn (r : MnWord) : Except Defect Instr :=
  match r.op.toNat with
  | 0 => acceptIf (decide (r.lane = 0 ∧ r.pred = 0 ∧ r.mode = 0 ∧ r.ag = 0 ∧ r.chk = 0 ∧ r.z = 0 ∧ r.dix = 0 ∧ r.shelf = 0 ∧ r.imm = 0)) .mnop
  | 1 => acceptIf (decide (r.mode = 0 ∧ r.z = 0 ∧ r.dix = 0 ∧ r.imm = 0)) (.lds r.lane r.pred r.ag r.chk r.shelf)
  | 2 => acceptIf (decide (r.mode = 0 ∧ r.chk = 0 ∧ r.z = 0 ∧ r.dix = 0 ∧ r.imm = 0)) (.sts r.lane r.pred r.ag r.shelf)
  | 3 => acceptIf (decide (r.z = 0 ∧ r.dix = 0)) (.ldx r.lane r.pred r.mode r.ag r.chk r.shelf r.imm)
  | 4 => acceptIf (decide (r.chk = 0 ∧ r.z = 0 ∧ r.dix = 0)) (.stx r.lane r.pred r.mode r.ag r.shelf r.imm)
  | 5 => acceptIf (decide (r.chk = 0 ∧ r.z = 0 ∧ r.dix = 0)) (.amoO r.lane r.pred r.mode r.ag r.shelf r.imm)
  | 6 => acceptIf (decide (r.chk = 0 ∧ r.z = 0 ∧ r.dix = 0)) (.amoU r.lane r.pred r.mode r.ag r.shelf r.imm)
  | 7 => acceptIf (decide (r.mode = 0 ∧ r.ag = 0 ∧ r.chk = 0 ∧ r.z = 0 ∧ r.shelf = 0)) (.drd r.lane r.pred r.dix r.imm)
  | 8 => acceptIf (decide (r.lane = 0 ∧ r.pred = 0 ∧ r.mode = 0 ∧ r.ag = 0 ∧ r.chk = 0 ∧ r.z = 0 ∧ r.dix = 0 ∧ r.imm = 0)) (.shpub r.shelf)
  | 9 => acceptIf (decide (r.lane = 0 ∧ r.pred = 0 ∧ r.mode = 0 ∧ r.ag = 0 ∧ r.chk = 0 ∧ r.z = 0 ∧ r.dix = 0 ∧ r.imm = 0)) (.shrel r.shelf)
  | 10 => acceptIf (decide (r.lane = 0 ∧ r.pred = 0 ∧ r.mode = 0 ∧ r.ag = 0 ∧ r.chk = 0 ∧ r.z = 0 ∧ r.shelf = 0)) (.mfence r.dix r.imm)
  | _ => .error .opcode

/-- The entry of an XN's fields (R120, R122). -/
def ofXn (r : XnWord) : Except Defect Instr :=
  match r.op.toNat with
  | 0 => acceptIf (decide (r.acc = 0 ∧ r.ver = 0 ∧ r.ash = 0 ∧ r.bsh = 0 ∧ r.kst = 0 ∧ r.anch = 0 ∧ r.map = 0 ∧ r.lb = 0 ∧ r.z = 0 ∧ r.sfmt = 0 ∧ r.tap = 0 ∧ r.clip = 0 ∧ r.scale = 0 ∧ r.dside = 0)) .xnop
  | 1 => acceptIf (decide (r.map = 0 ∧ r.lb = 0 ∧ r.z = 0 ∧ r.sfmt = 0 ∧ r.tap = 0 ∧ r.clip = 0 ∧ r.scale = 0 ∧ r.dside = 0)) (.xmm r.acc r.ver r.ash r.bsh r.kst r.anch)
  | 2 => acceptIf (decide (r.ash = 0 ∧ r.bsh = 0 ∧ r.kst = 0 ∧ r.map = 0 ∧ r.lb = 0 ∧ r.z = 0 ∧ r.sfmt = 0 ∧ r.tap = 0 ∧ r.clip = 0 ∧ r.scale = 0 ∧ r.dside = 0)) (.xclr r.acc r.ver r.anch)
  | 3 => acceptIf (decide (r.anch = 0 ∧ r.map = 0 ∧ r.lb = 0 ∧ r.z = 0 ∧ r.tap = 0)) (.xwb r.acc r.ver r.ash r.bsh r.kst r.sfmt r.clip r.scale r.dside)
  | 4 => acceptIf (decide (r.acc = 0 ∧ r.z = 0 ∧ r.sfmt = 0 ∧ r.tap = 0 ∧ r.clip = 0 ∧ r.scale = 0 ∧ r.dside = 0)) (.xdnd r.ver r.ash r.bsh r.kst r.anch r.map r.lb)
  | 5 => acceptIf (decide (r.acc = 0 ∧ r.bsh = 0 ∧ r.kst = 0 ∧ r.z = 0 ∧ r.sfmt = 0 ∧ r.clip = 0 ∧ r.scale = 0 ∧ r.dside = 0)) (.xdfin r.ver r.ash r.anch r.map r.lb r.tap)
  | 6 => acceptIf (decide (r.acc = 0 ∧ r.z = 0 ∧ r.sfmt = 0 ∧ r.tap = 0 ∧ r.clip = 0 ∧ r.scale = 0 ∧ r.dside = 0)) (.xdbx r.ver r.ash r.bsh r.kst r.anch r.map r.lb)
  | 7 => acceptIf (decide (r.acc = 0 ∧ r.z = 0 ∧ r.sfmt = 0 ∧ r.tap = 0 ∧ r.clip = 0 ∧ r.scale = 0 ∧ r.dside = 0)) (.xdbw r.ver r.ash r.bsh r.kst r.anch r.map r.lb)
  | 8 => acceptIf (decide (r.acc = 0 ∧ r.ver = 0 ∧ r.kst = 0 ∧ r.anch = 0 ∧ r.map = 0 ∧ r.lb = 0 ∧ r.z = 0 ∧ r.sfmt = 0 ∧ r.tap = 0 ∧ r.clip = 0 ∧ r.scale = 0 ∧ r.dside = 0)) (.xtrq r.ash r.bsh)
  | 9 => acceptIf (decide (r.kst = 0 ∧ r.anch = 0 ∧ r.map = 0 ∧ r.lb = 0 ∧ r.z = 0 ∧ r.sfmt = 0 ∧ r.tap = 0 ∧ r.clip = 0 ∧ r.scale = 0)) (.xsta r.acc r.ver r.ash r.bsh r.dside)
  | 10 => acceptIf (decide (r.kst = 0 ∧ r.anch = 0 ∧ r.map = 0 ∧ r.lb = 0 ∧ r.z = 0 ∧ r.sfmt = 0 ∧ r.tap = 0 ∧ r.clip = 0 ∧ r.scale = 0)) (.xlda r.acc r.ver r.ash r.bsh r.dside)
  | _ => .error .opcode

/-- The control-core instruction of an opcode, the 24 bits below it and the immediate word of an L form
(R123 to R130). -/
def ofCore (op : BitVec 8) (x : BitVec 24) (y : BitVec 32) : Except Defect Instr :=
  match op.toNat with
  | 0 => let r := rFormOf x; acceptIf (decide (r.w = 0 ∧ r.d = 0 ∧ r.s = 0 ∧ r.t = 0)) (.cnop r.g)
  | 1 => let r := rFormOf x; acceptIf (decide (r.w = 0)) (.add r.d r.s r.t r.g)
  | 2 => let r := iFormOf x; acceptIf (decide (r.w = 0)) (.addi r.d r.s r.i)
  | 3 => let r := rFormOf x; acceptIf (decide (r.w = 0)) (.sub r.d r.s r.t r.g)
  | 4 => let r := rFormOf x; acceptIf (decide (r.w = 0)) (.mul r.d r.s r.t r.g)
  | 5 => let r := rFormOf x; acceptIf (decide (r.w = 0)) (.mulh r.d r.s r.t r.g)
  | 6 => let r := rFormOf x; acceptIf (decide (r.w = 0)) (.divu r.d r.s r.t r.g)
  | 7 => let r := rFormOf x; acceptIf (decide (r.w = 0)) (.divs r.d r.s r.t r.g)
  | 8 => let r := rFormOf x; acceptIf (decide (r.w = 0)) (.and r.d r.s r.t r.g)
  | 9 => let r := iFormOf x; acceptIf (decide (r.w = 0)) (.andi r.d r.s r.i)
  | 10 => let r := rFormOf x; acceptIf (decide (r.w = 0)) (.or r.d r.s r.t r.g)
  | 11 => let r := iFormOf x; acceptIf (decide (r.w = 0)) (.ori r.d r.s r.i)
  | 12 => let r := rFormOf x; acceptIf (decide (r.w = 0)) (.xor r.d r.s r.t r.g)
  | 13 => let r := iFormOf x; acceptIf (decide (r.w = 0)) (.xori r.d r.s r.i)
  | 14 => let r := rFormOf x; acceptIf (decide (r.w = 0)) (.shl r.d r.s r.t r.g)
  | 15 => let r := iFormOf x; acceptIf (decide (r.w = 0)) (.shli r.d r.s r.i)
  | 16 => let r := rFormOf x; acceptIf (decide (r.w = 0)) (.shr r.d r.s r.t r.g)
  | 17 => let r := iFormOf x; acceptIf (decide (r.w = 0)) (.shri r.d r.s r.i)
  | 18 => let r := rFormOf x; acceptIf (decide (r.w = 0)) (.sar r.d r.s r.t r.g)
  | 19 => let r := iFormOf x; acceptIf (decide (r.w = 0)) (.sari r.d r.s r.i)
  | 20 => let r := rFormOf x; acceptIf (decide (r.w = 0)) (.min r.d r.s r.t r.g)
  | 21 => let r := rFormOf x; acceptIf (decide (r.w = 0)) (.max r.d r.s r.t r.g)
  | 22 => let r := rFormOf x; acceptIf (decide (r.w = 0)) (.csel r.d r.s r.t r.g)
  | 23 => let r := rFormOf x; acceptIf (decide (r.t = 0)) (.mov r.w r.d r.s r.g)
  | 24 => let r := iFormOf x; acceptIf (decide (r.w = 0 ∧ r.s = 0)) (.movi r.d r.i)
  | 25 => let r := rFormOf x; acceptIf (decide (r.w = 0 ∧ r.s = 0 ∧ r.t = 0)) (.movl r.d r.g y)
  | 26 => let r := rFormOf x; acceptIf (decide (r.w = 0 ∧ r.s = 0 ∧ r.t = 0)) (.movh r.d r.g y)
  | 28 => let r := cFormOf x; acceptIf (decide (r.w = 0)) (.cmp r.pd r.cond r.s r.t r.g)
  | 29 => let r := cIFormOf x; acceptIf (decide (r.w = 0)) (.cmpi r.pd r.cond r.s r.i)
  | 30 => let r := cFormOf x; acceptIf (decide (r.w = 0 ∧ r.s.extractLsb' 3 3 = 0 ∧ r.t.extractLsb' 3 3 = 0)) (.plog r.pd r.cond (r.s.extractLsb' 0 3) (r.t.extractLsb' 0 3) r.g)
  | 32 => accept (.br (x.extractLsb' 20 4) (x.extractLsb' 0 20))
  | 33 => accept (.call (x.extractLsb' 20 4) (x.extractLsb' 0 20))
  | 34 => let r := rFormOf x; acceptIf (decide (r.w = 0 ∧ r.d = 0 ∧ r.s = 0 ∧ r.t = 0)) (.ret r.g)
  | 35 => let r := rFormOf x; acceptIf (decide (r.w = 0 ∧ r.d = 0 ∧ r.t = 0)) (.jmpr r.s r.g)
  | 36 => accept (.loop (x.extractLsb' 18 6) (x.extractLsb' 0 18))
  | 40 => let r := mFormOf x; accept (.ld r.w r.d r.base r.sz r.off r.g)
  | 41 => let r := mFormOf x; accept (.st r.w r.d r.base r.sz r.off r.g)
  | 42 => let r := rFormOf x; accept (.amadd r.w r.d r.s r.t r.g)
  | 43 => let r := rFormOf x; accept (.amand r.w r.d r.s r.t r.g)
  | 44 => let r := rFormOf x; accept (.amor r.w r.d r.s r.t r.g)
  | 45 => let r := rFormOf x; accept (.ammin r.w r.d r.s r.t r.g)
  | 46 => let r := rFormOf x; accept (.ammax r.w r.d r.s r.t r.g)
  | 47 => let r := rFormOf x; accept (.amxch r.w r.d r.s r.t r.g)
  | 48 => let r := rFormOf x; accept (.amcas r.w r.d r.s r.t r.g)
  | 49 => let r := fFormOf x; acceptIf (decide (r.z = 0)) (.fence r.pset r.sset r.scope)
  | 50 => let r := rFormOf x; accept (.waitv r.w r.d r.s r.t r.g)
  | 56 => let r := rFormOf x; acceptIf (decide (r.w = 3)) (.sbind r.d r.s r.t r.g)
  | 57 => let r := rFormOf x; acceptIf (decide (r.w = 3)) (.sstg r.d r.s r.t r.g)
  | 58 => let r := rFormOf x; acceptIf (decide (r.w = 3)) (.sevc r.d r.s r.t r.g)
  | 59 => let r := rFormOf x; acceptIf (decide (r.w = 3)) (.scpy r.d r.s r.t r.g)
  | 60 => let r := rFormOf x; acceptIf (decide (r.w = 0 ∧ r.t = 0)) (.swait r.d r.s r.g)
  | 61 => let r := rFormOf x; acceptIf (decide (r.w = 0 ∧ r.t = 0)) (.sstat r.d r.s r.g)
  | 64 => let r := rFormOf x; acceptIf (decide (r.w = 0 ∧ r.t = 0)) (.cfgl r.d r.s r.g)
  | 65 => let r := rFormOf x; acceptIf (decide (r.w = 1 ∧ r.t = 0)) (.cfgp r.d r.s r.g)
  | 66 => let r := rFormOf x; acceptIf (decide (r.w = 0 ∧ r.d = 0 ∧ r.t = 0)) (.go r.s r.g)
  | 67 => let r := rFormOf x; acceptIf (decide (r.w = 0 ∧ r.s = 0 ∧ r.t = 0)) (.drain r.d r.g)
  | 68 => let r := rFormOf x; acceptIf (decide (r.w = 0 ∧ r.d = 0 ∧ r.s = 0 ∧ r.t = 0)) (.pbar r.g)
  | 69 => let r := rFormOf x; acceptIf (decide (r.w = 1 ∧ r.t = 0)) (.xcmd r.d r.s r.g)
  | 70 => let r := rFormOf x; acceptIf (decide (r.w = 0 ∧ r.d = 0 ∧ r.t = 0)) (.xwait r.s r.g)
  | 71 => let r := rFormOf x; acceptIf (decide (r.w = 0)) (.coll r.d r.s r.t r.g)
  | 72 => let r := rFormOf x; acceptIf (decide (r.w = 3 ∧ r.t = 0)) (.ddecl r.d r.s r.g)
  | 73 => let r := rFormOf x; acceptIf (decide (r.w = 0 ∧ r.t = 0)) (.ddrop r.d r.s r.g)
  | 74 => let r := rFormOf x; acceptIf (decide (r.w = 0 ∧ r.d = 0 ∧ r.t = 0)) (.dwait r.s r.g)
  | 80 => let r := rFormOf x; acceptIf (decide (r.w = 0)) (.ropen r.d r.s r.t r.g)
  | 81 => let r := rFormOf x; acceptIf (decide (r.w = 0 ∧ r.d = 0 ∧ r.t = 0)) (.rclose r.s r.g)
  | 82 => let r := rFormOf x; acceptIf (decide (r.w = 2 ∧ r.t = 0)) (.nbop r.d r.s r.g)
  | 83 => let r := rFormOf x; acceptIf (decide (r.w = 0 ∧ r.t = 0)) (.nbred r.d r.s r.g)
  | 84 => let r := rFormOf x; acceptIf (decide (r.w = 0 ∧ r.t = 0)) (.optm r.d r.s r.g)
  | 85 => let r := rFormOf x; acceptIf (decide (r.w = 0 ∧ r.t = 0)) (.nbstat r.d r.s r.g)
  | 88 => let r := rFormOf x; acceptIf (decide (r.w = 1 ∧ r.t = 0)) (.tload r.d r.s r.g)
  | 89 => let r := rFormOf x; acceptIf (decide (r.w = 1)) (.rdig r.d r.s r.t r.g)
  | 96 => let r := iFormOf x; acceptIf (decide (r.w = 0 ∧ r.s = 0)) (.qfeat r.d r.i)
  | 97 => let r := iFormOf x; acceptIf (decide (r.w = 0 ∧ r.s = 0)) (.rdsys r.d r.i)
  | 98 => let r := iFormOf x; acceptIf (decide (r.w = 0 ∧ r.d = 0)) (.wrsys r.s r.i)
  | 99 => let r := iFormOf x; acceptIf (decide (r.w = 0 ∧ r.d = 0 ∧ r.s = 0)) (.trap r.i)
  | 100 => let r := rFormOf x; acceptIf (decide (r.w = 0 ∧ r.d = 0 ∧ r.s = 0 ∧ r.t = 0)) (.eret r.g)
  | 101 => let r := rFormOf x; acceptIf (decide (r.w = 0 ∧ r.d = 0 ∧ r.s = 0 ∧ r.t = 0)) (.halt r.g)
  | 102 => let r := rFormOf x; acceptIf (decide (r.w = 0 ∧ r.t = 0)) (.waite r.d r.s r.g)
  | 103 => let r := rFormOf x; acceptIf (decide (r.w = 0)) (.sendt r.d r.s r.t r.g)
  | 104 => let r := rFormOf x; acceptIf (decide (r.w = 0)) (.keyld r.d r.s r.t r.g)
  | 105 => let r := rFormOf x; acceptIf (decide (r.w = 0)) (.attq r.d r.s r.t r.g)
  | _ => .error .opcode

/-- Decoding of an element row. -/
def decodeRow (w : BitVec 32) : Except Defect Instr := ofRow (rowWordOf w)

/-- Decoding of an MN entry. -/
def decodeMn (w : BitVec 64) : Except Defect Instr := ofMn (mnWordOf w)

/-- Decoding of an XN entry. -/
def decodeXn (w : BitVec 64) : Except Defect Instr := ofXn (xnWordOf w)

/-- An L form has a second word (R123). -/
def isLong (w : BitVec 32) : Bool := decide (w.extractLsb' 24 8 = 0x19 ∨ w.extractLsb' 24 8 = 0x1A)

/-- Decoding of a control-core instruction from its first word and, for an L form, its immediate word. -/
def decodeCore (w y : BitVec 32) : Except Defect Instr := ofCore (w.extractLsb' 24 8) (w.extractLsb' 0 24) y

/-- The instruction of a result. -/
def decoded (r : Except Defect Instr) : Option Instr :=
  match r with
  | .ok i => some i
  | .error _ => none

/-- The fields of an element row that encode an instruction. -/
def rowFields : Instr → Option RowWord
  | .nop => some ⟨0, 31, 31, 31, 0, 0, 0⟩
  | .copy a d p => some ⟨1, a, 31, 31, d, p, 0⟩
  | .xpt a c d p => some ⟨2, a, 31, c, d, p, 0⟩
  | .sel a b d v => some ⟨3, a, b, 31, d, 0, 0#3 ++ v⟩
  | .bcst a c d p m => some ⟨4, a, 31, c, d, p, 0#2 ++ m⟩
  | .shuf a b d p => some ⟨5, a, b, 31, d, p, 0⟩
  | .zip a b d p h => some ⟨6, a, b, 31, d, p, 0#3 ++ h⟩
  | .unz a b d p h => some ⟨7, a, b, 31, d, p, 0#3 ++ h⟩
  | .pmov a => some ⟨8, a, 31, 31, 0, 0, 0⟩
  | .pget d p => some ⟨9, 31, 31, 31, d, p, 0⟩
  | .pand a v => some ⟨10, a, 31, 31, 0, 0, 0#3 ++ v⟩
  | .por a v => some ⟨11, a, 31, 31, 0, 0, 0#3 ++ v⟩
  | .pxor a v => some ⟨12, a, 31, 31, 0, 0, 0#3 ++ v⟩
  | .fadd a b d p m => some ⟨16, a, b, 31, d, p, m⟩
  | .fsub a b d p m => some ⟨17, a, b, 31, d, p, m⟩
  | .fmul a b d p m => some ⟨18, a, b, 31, d, p, m⟩
  | .fma a b c d p m => some ⟨19, a, b, c, d, p, m⟩
  | .fmax a b d p => some ⟨20, a, b, 31, d, p, 0⟩
  | .fmin a b d p => some ⟨21, a, b, 31, d, p, 0⟩
  | .fabs a d p => some ⟨22, a, 31, 31, d, p, 0⟩
  | .fneg a d p => some ⟨23, a, 31, 31, d, p, 0⟩
  | .fcmp a b d p m => some ⟨24, a, b, 31, d, p, m⟩
  | .fclip a b c d p => some ⟨25, a, b, c, d, p, 0⟩
  | .fscl a b d p m => some ⟨26, a, b, 31, d, p, m⟩
  | .frcp a d p m => some ⟨27, a, 31, 31, d, p, m⟩
  | .frsq a d p m => some ⟨28, a, 31, 31, d, p, m⟩
  | .fexp2 a d p m => some ⟨29, a, 31, 31, d, p, m⟩
  | .flog2 a d p m => some ⟨30, a, 31, 31, d, p, m⟩
  | .ftanh a d p m => some ⟨31, a, 31, 31, d, p, m⟩
  | .fsig a d p m => some ⟨32, a, 31, 31, d, p, m⟩
  | .ftab a d p v s => some ⟨33, a, 31, 31, d, p, 0#1 ++ v ++ s⟩
  | .fsumO a d m => some ⟨34, a, 31, 31, d, 0, m⟩
  | .fsumU a d m => some ⟨35, a, 31, 31, d, 0, m⟩
  | .fmaxr a d => some ⟨36, a, 31, 31, d, 0, 0⟩
  | .fdotO a b d m => some ⟨37, a, b, 31, d, 0, m⟩
  | .fdotU a b d m => some ⟨38, a, b, 31, d, 0, m⟩
  | .iadd a b d p m => some ⟨48, a, b, 31, d, p, m⟩
  | .isub a b d p m => some ⟨49, a, b, 31, d, p, m⟩
  | .imul a b d p m => some ⟨50, a, b, 31, d, p, m⟩
  | .imad a b c d p m => some ⟨51, a, b, c, d, p, m⟩
  | .imin a b d p u => some ⟨52, a, b, 31, d, p, 0#3 ++ u⟩
  | .imax a b d p u => some ⟨53, a, b, 31, d, p, 0#3 ++ u⟩
  | .vand a b d p => some ⟨54, a, b, 31, d, p, 0⟩
  | .vor a b d p => some ⟨55, a, b, 31, d, p, 0⟩
  | .vxor a b d p => some ⟨56, a, b, 31, d, p, 0⟩
  | .vandn a b d p => some ⟨57, a, b, 31, d, p, 0⟩
  | .vshl a b c d p m => some ⟨58, a, b, c, d, p, 0#3 ++ m⟩
  | .vshr a b c d p m => some ⟨59, a, b, c, d, p, 0#3 ++ m⟩
  | .vsar a b c d p m => some ⟨60, a, b, c, d, p, 0#3 ++ m⟩
  | .icmp a b d p m => some ⟨61, a, b, 31, d, p, m⟩
  | .popc a d p => some ⟨62, a, 31, 31, d, p, 0⟩
  | .clz a d p => some ⟨63, a, 31, 31, d, p, 0⟩
  | .isum a d m => some ⟨64, a, 31, 31, d, 0, m⟩
  | .iabs a d p m => some ⟨65, a, 31, 31, d, p, 0#3 ++ m⟩
  | .isat a c d p u => some ⟨66, a, 31, c, d, p, 0#3 ++ u⟩
  | .cvt a c d p m => some ⟨72, a, 31, c, d, p, m⟩
  | .req a b d m => some ⟨73, a, b, 31, d, 0, m⟩
  | .bscl a b d m => some ⟨74, a, b, 31, d, 0, m⟩
  | .pack a b d => some ⟨75, a, b, 31, d, 0, 0⟩
  | .unpk a d m => some ⟨76, a, 31, 31, d, 0, 0#3 ++ m⟩
  | .qdec a c d p => some ⟨77, a, 31, c, d, p, 0⟩
  | .qenc a b c d m => some ⟨78, a, b, c, d, 0, m⟩
  | .iter d p m => some ⟨88, 31, 31, 31, d, p, 0#2 ++ m⟩
  | .done => some ⟨89, 31, 31, 31, 0, 0, 0⟩
  | _ => none

/-- The fields of an MN entry. -/
def mnFields : Instr → Option MnWord
  | .mnop => some ⟨0, 0, 0, 0, 0, 0, 0, 0, 0, 0⟩
  | .lds lane pred ag chk shelf => some ⟨1, lane, pred, 0, ag, chk, 0, 0, shelf, 0⟩
  | .sts lane pred ag shelf => some ⟨2, lane, pred, 0, ag, 0, 0, 0, shelf, 0⟩
  | .ldx lane pred mode ag chk shelf imm => some ⟨3, lane, pred, mode, ag, chk, 0, 0, shelf, imm⟩
  | .stx lane pred mode ag shelf imm => some ⟨4, lane, pred, mode, ag, 0, 0, 0, shelf, imm⟩
  | .amoO lane pred mode ag shelf imm => some ⟨5, lane, pred, mode, ag, 0, 0, 0, shelf, imm⟩
  | .amoU lane pred mode ag shelf imm => some ⟨6, lane, pred, mode, ag, 0, 0, 0, shelf, imm⟩
  | .drd lane pred dix imm => some ⟨7, lane, pred, 0, 0, 0, 0, dix, 0, imm⟩
  | .shpub shelf => some ⟨8, 0, 0, 0, 0, 0, 0, 0, shelf, 0⟩
  | .shrel shelf => some ⟨9, 0, 0, 0, 0, 0, 0, 0, shelf, 0⟩
  | .mfence dix imm => some ⟨10, 0, 0, 0, 0, 0, 0, dix, 0, imm⟩
  | _ => none

/-- The fields of an XN entry. -/
def xnFields : Instr → Option XnWord
  | .xnop => some ⟨0, 0, 0, 0, 0, 0, 0, 0, 0, 0, 0, 0, 0, 0, 0⟩
  | .xmm acc ver ash bsh kst anch => some ⟨1, acc, ver, ash, bsh, kst, anch, 0, 0, 0, 0, 0, 0, 0, 0⟩
  | .xclr acc ver anch => some ⟨2, acc, ver, 0, 0, 0, anch, 0, 0, 0, 0, 0, 0, 0, 0⟩
  | .xwb acc ver ash bsh kst sfmt clip scale dside => some ⟨3, acc, ver, ash, bsh, kst, 0, 0, 0, 0, sfmt, 0, clip, scale, dside⟩
  | .xdnd ver ash bsh kst anch map lb => some ⟨4, 0, ver, ash, bsh, kst, anch, map, lb, 0, 0, 0, 0, 0, 0⟩
  | .xdfin ver ash anch map lb tap => some ⟨5, 0, ver, ash, 0, 0, anch, map, lb, 0, 0, tap, 0, 0, 0⟩
  | .xdbx ver ash bsh kst anch map lb => some ⟨6, 0, ver, ash, bsh, kst, anch, map, lb, 0, 0, 0, 0, 0, 0⟩
  | .xdbw ver ash bsh kst anch map lb => some ⟨7, 0, ver, ash, bsh, kst, anch, map, lb, 0, 0, 0, 0, 0, 0⟩
  | .xtrq ash bsh => some ⟨8, 0, 0, ash, bsh, 0, 0, 0, 0, 0, 0, 0, 0, 0, 0⟩
  | .xsta acc ver ash bsh dside => some ⟨9, acc, ver, ash, bsh, 0, 0, 0, 0, 0, 0, 0, 0, 0, dside⟩
  | .xlda acc ver ash bsh dside => some ⟨10, acc, ver, ash, bsh, 0, 0, 0, 0, 0, 0, 0, 0, 0, dside⟩
  | _ => none

/-- The word of a control-core instruction and the immediate word of an L form. -/
def coreWords : Instr → Option (BitVec 32 × Option (BitVec 32))
  | .cnop g => some (0#8 ++ rFormBits ⟨0, 0, 0, 0, g⟩, none)
  | .add d s t g => some (1#8 ++ rFormBits ⟨0, d, s, t, g⟩, none)
  | .addi d s i => some (2#8 ++ iFormBits ⟨0, d, s, i⟩, none)
  | .sub d s t g => some (3#8 ++ rFormBits ⟨0, d, s, t, g⟩, none)
  | .mul d s t g => some (4#8 ++ rFormBits ⟨0, d, s, t, g⟩, none)
  | .mulh d s t g => some (5#8 ++ rFormBits ⟨0, d, s, t, g⟩, none)
  | .divu d s t g => some (6#8 ++ rFormBits ⟨0, d, s, t, g⟩, none)
  | .divs d s t g => some (7#8 ++ rFormBits ⟨0, d, s, t, g⟩, none)
  | .and d s t g => some (8#8 ++ rFormBits ⟨0, d, s, t, g⟩, none)
  | .andi d s i => some (9#8 ++ iFormBits ⟨0, d, s, i⟩, none)
  | .or d s t g => some (10#8 ++ rFormBits ⟨0, d, s, t, g⟩, none)
  | .ori d s i => some (11#8 ++ iFormBits ⟨0, d, s, i⟩, none)
  | .xor d s t g => some (12#8 ++ rFormBits ⟨0, d, s, t, g⟩, none)
  | .xori d s i => some (13#8 ++ iFormBits ⟨0, d, s, i⟩, none)
  | .shl d s t g => some (14#8 ++ rFormBits ⟨0, d, s, t, g⟩, none)
  | .shli d s i => some (15#8 ++ iFormBits ⟨0, d, s, i⟩, none)
  | .shr d s t g => some (16#8 ++ rFormBits ⟨0, d, s, t, g⟩, none)
  | .shri d s i => some (17#8 ++ iFormBits ⟨0, d, s, i⟩, none)
  | .sar d s t g => some (18#8 ++ rFormBits ⟨0, d, s, t, g⟩, none)
  | .sari d s i => some (19#8 ++ iFormBits ⟨0, d, s, i⟩, none)
  | .min d s t g => some (20#8 ++ rFormBits ⟨0, d, s, t, g⟩, none)
  | .max d s t g => some (21#8 ++ rFormBits ⟨0, d, s, t, g⟩, none)
  | .csel d s t g => some (22#8 ++ rFormBits ⟨0, d, s, t, g⟩, none)
  | .mov w d s g => some (23#8 ++ rFormBits ⟨w, d, s, 0, g⟩, none)
  | .movi d i => some (24#8 ++ iFormBits ⟨0, d, 0, i⟩, none)
  | .movl d g imm => some (25#8 ++ rFormBits ⟨0, d, 0, 0, g⟩, some imm)
  | .movh d g imm => some (26#8 ++ rFormBits ⟨0, d, 0, 0, g⟩, some imm)
  | .cmp pd cond s t g => some (28#8 ++ cFormBits ⟨0, pd, cond, s, t, g⟩, none)
  | .cmpi pd cond s i => some (29#8 ++ cIFormBits ⟨0, pd, cond, s, i⟩, none)
  | .plog pd cond pa pb g => some (30#8 ++ cFormBits ⟨0, pd, cond, 0#3 ++ pa, 0#3 ++ pb, g⟩, none)
  | .br g off => some (32#8 ++ (g ++ off), none)
  | .call g off => some (33#8 ++ (g ++ off), none)
  | .ret g => some (34#8 ++ rFormBits ⟨0, 0, 0, 0, g⟩, none)
  | .jmpr s g => some (35#8 ++ rFormBits ⟨0, 0, s, 0, g⟩, none)
  | .loop c off => some (36#8 ++ (c ++ off), none)
  | .ld w d base sz off g => some (40#8 ++ mFormBits ⟨w, d, base, sz, off, g⟩, none)
  | .st w d base sz off g => some (41#8 ++ mFormBits ⟨w, d, base, sz, off, g⟩, none)
  | .amadd z d s t g => some (42#8 ++ rFormBits ⟨z, d, s, t, g⟩, none)
  | .amand z d s t g => some (43#8 ++ rFormBits ⟨z, d, s, t, g⟩, none)
  | .amor z d s t g => some (44#8 ++ rFormBits ⟨z, d, s, t, g⟩, none)
  | .ammin z d s t g => some (45#8 ++ rFormBits ⟨z, d, s, t, g⟩, none)
  | .ammax z d s t g => some (46#8 ++ rFormBits ⟨z, d, s, t, g⟩, none)
  | .amxch z d s t g => some (47#8 ++ rFormBits ⟨z, d, s, t, g⟩, none)
  | .amcas z d s t g => some (48#8 ++ rFormBits ⟨z, d, s, t, g⟩, none)
  | .fence pset sset scope => some (49#8 ++ fFormBits ⟨pset, sset, scope, 0⟩, none)
  | .waitv z d s t g => some (50#8 ++ rFormBits ⟨z, d, s, t, g⟩, none)
  | .sbind d s t g => some (56#8 ++ rFormBits ⟨3, d, s, t, g⟩, none)
  | .sstg d s t g => some (57#8 ++ rFormBits ⟨3, d, s, t, g⟩, none)
  | .sevc d s t g => some (58#8 ++ rFormBits ⟨3, d, s, t, g⟩, none)
  | .scpy d s t g => some (59#8 ++ rFormBits ⟨3, d, s, t, g⟩, none)
  | .swait d s g => some (60#8 ++ rFormBits ⟨0, d, s, 0, g⟩, none)
  | .sstat d s g => some (61#8 ++ rFormBits ⟨0, d, s, 0, g⟩, none)
  | .cfgl d s g => some (64#8 ++ rFormBits ⟨0, d, s, 0, g⟩, none)
  | .cfgp d s g => some (65#8 ++ rFormBits ⟨1, d, s, 0, g⟩, none)
  | .go s g => some (66#8 ++ rFormBits ⟨0, 0, s, 0, g⟩, none)
  | .drain d g => some (67#8 ++ rFormBits ⟨0, d, 0, 0, g⟩, none)
  | .pbar g => some (68#8 ++ rFormBits ⟨0, 0, 0, 0, g⟩, none)
  | .xcmd d s g => some (69#8 ++ rFormBits ⟨1, d, s, 0, g⟩, none)
  | .xwait s g => some (70#8 ++ rFormBits ⟨0, 0, s, 0, g⟩, none)
  | .coll d s t g => some (71#8 ++ rFormBits ⟨0, d, s, t, g⟩, none)
  | .ddecl d s g => some (72#8 ++ rFormBits ⟨3, d, s, 0, g⟩, none)
  | .ddrop d s g => some (73#8 ++ rFormBits ⟨0, d, s, 0, g⟩, none)
  | .dwait s g => some (74#8 ++ rFormBits ⟨0, 0, s, 0, g⟩, none)
  | .ropen d s t g => some (80#8 ++ rFormBits ⟨0, d, s, t, g⟩, none)
  | .rclose s g => some (81#8 ++ rFormBits ⟨0, 0, s, 0, g⟩, none)
  | .nbop d s g => some (82#8 ++ rFormBits ⟨2, d, s, 0, g⟩, none)
  | .nbred d s g => some (83#8 ++ rFormBits ⟨0, d, s, 0, g⟩, none)
  | .optm d s g => some (84#8 ++ rFormBits ⟨0, d, s, 0, g⟩, none)
  | .nbstat d s g => some (85#8 ++ rFormBits ⟨0, d, s, 0, g⟩, none)
  | .tload d s g => some (88#8 ++ rFormBits ⟨1, d, s, 0, g⟩, none)
  | .rdig d s t g => some (89#8 ++ rFormBits ⟨1, d, s, t, g⟩, none)
  | .qfeat d i => some (96#8 ++ iFormBits ⟨0, d, 0, i⟩, none)
  | .rdsys d i => some (97#8 ++ iFormBits ⟨0, d, 0, i⟩, none)
  | .wrsys s i => some (98#8 ++ iFormBits ⟨0, 0, s, i⟩, none)
  | .trap i => some (99#8 ++ iFormBits ⟨0, 0, 0, i⟩, none)
  | .eret g => some (100#8 ++ rFormBits ⟨0, 0, 0, 0, g⟩, none)
  | .halt g => some (101#8 ++ rFormBits ⟨0, 0, 0, 0, g⟩, none)
  | .waite d s g => some (102#8 ++ rFormBits ⟨0, d, s, 0, g⟩, none)
  | .sendt d s t g => some (103#8 ++ rFormBits ⟨0, d, s, t, g⟩, none)
  | .keyld d s t g => some (104#8 ++ rFormBits ⟨0, d, s, t, g⟩, none)
  | .attq d s t g => some (105#8 ++ rFormBits ⟨0, d, s, t, g⟩, none)
  | _ => none

/-- The class of an instruction and its words: the encoder. A device step has none. -/
inductive Code where
  | row (w : BitVec 32)
  | mn (w : BitVec 64)
  | xn (w : BitVec 64)
  | core (w : BitVec 32) (imm : Option (BitVec 32))
  | event
  deriving DecidableEq, Repr

def encode (i : Instr) : Code :=
  match rowFields i, mnFields i, xnFields i, coreWords i with
  | some r, _, _, _ => .row (rowWordBits r)
  | _, some r, _, _ => .mn (mnWordBits r)
  | _, _, some r, _ => .xn (xnWordBits r)
  | _, _, _, some (w, y) => .core w y
  | _, _, _, _ => .event

/-- The decoder of each class. -/
def decode : Code → Except Defect Instr
  | .row w => decodeRow w
  | .mn w => decodeMn w
  | .xn w => decodeXn w
  | .core w y => decodeCore w (y.getD 0)
  | .event => .error .opcode

/-- The first words of the control core whose element-row reading is the IMAD row, which fixes only its opcode: the
table word then belongs to the control core (log 16). -/
def preferCore (w : BitVec 32) : Bool :=
  decide (w.extractLsb' 24 8 = 0x66 ∨ w.extractLsb' 24 8 = 0x67)

/-- The instruction of a table word (log 16): 32 bits are an element row, or else a control-core word; 64 bits are an
L form, or else an MN entry, or else an XN entry. -/
def decodeTableWord (nbits w : Nat) : Option Instr :=
  let w0 := BitVec.ofNat 32 w
  let w1 := BitVec.ofNat 32 (w >>> 32)
  if nbits ≤ 32 then
    if preferCore w0 then decoded (decodeCore w0 0) <|> decoded (decodeRow w0)
    else decoded (decodeRow w0) <|> decoded (decodeCore w0 0)
  else
    let e := BitVec.ofNat 64 w
    (if isLong w0 then decoded (decodeCore w0 w1) else none) <|> decoded (decodeMn e) <|> decoded (decodeXn e)

end Sys2Proof
end

