-- ==== Sys2Proof/Machine/Shelf.lean ====
section
/-! DEFINITION. Shelves, tags and banks of memory nodes (R91 to R96), where an MN entry reads or writes, and the freeze
causes of an entry (R38). -/

namespace Sys2Proof.Machine

/-! ### Shelf descriptors and buffer states (R93, R94) -/

def shBase (w : Word) : Nat := bitsOf w 12 9 * 4096
/-- Bytes of a buffer. DESIGN CHOICE (log 23): SIZE 0, which R93 gives no meaning, is a buffer of 0 bytes. -/
def shBytes (w : Word) : Nat := bitsOf w 32 9 * 4096
def shValid (w : Word) : Bool := w.getLsbD 42
def shCarry (w : Word) : Bool := w.getLsbD 43
def shDisc (w : Word) : Bool := w.getLsbD 44
def shDepth (w : Word) : Nat := bitsOf w 45 3 + 1
def shTag (w : Word) : Nat := bitsOf w 48 16

/-- Node offset of buffer `j`. -/
def bufBase (w : Word) (j : Nat) : Nat := shBase w + j * shBytes w

def ShelfSt.prod (b : ShelfSt) (w : Word) : Nat := b.pc % shDepth w
def ShelfSt.cons (b : ShelfSt) (w : Word) : Nat := b.cc % shDepth w
def ShelfSt.isFull (b : ShelfSt) (j : Nat) : Bool := b.full.getLsbD j
def ShelfSt.setFull (b : ShelfSt) (j : Nat) (v : Bool) : ShelfSt :=
  { b with full := if v then b.full ||| (1#8 <<< j) else b.full &&& ~~~(1#8 <<< j) }

/-- The tag a publish by SHPUB gives, and the tag a consumer expects (R94, R95): counted modulo 65,535. -/
def tagAt (w : Word) (n : Nat) : BitVec 16 := BitVec.ofNat 16 ((shTag w + n) % 65535)

def State.shelf (s : State) (d r sl sh : Nat) : Word := (s.die d).act.shelfDesc r sl sh
def State.buf (s : State) (d r sl sh : Nat) : ShelfSt := (s.die d).act.buf r sl sh
def State.setBuf (s : State) (d r sl sh : Nat) (x : ShelfSt) : State :=
  s.setDie d { s.die d with act := (s.die d).act.setBuf r sl sh x }

/-- A buffer becomes full with a tag, and the producer count advances (R94). -/
def ShelfSt.publishAt (b : ShelfSt) (n : Nat) (tag : BitVec 16) : ShelfSt :=
  { b.setFull n true with tags := tset 0xFFFF b.tags n tag, pc := b.pc + 1 }

/-- The producer buffer becomes full with a tag (R94). -/
def ShelfSt.publish (b : ShelfSt) (w : Word) (tag : BitVec 16) : ShelfSt := b.publishAt (b.prod w) tag

/-- The consumer buffer becomes empty. -/
def ShelfSt.release (b : ShelfSt) (w : Word) : ShelfSt := { b.setFull (b.cons w) false with cc := b.cc + 1 }

/-- The XN beside an MN, and the side the MN is on (`false` west). -/
def xnOfMn (sl : Nat) : Nat × Bool := if sl % 6 = 1 then (sl + 2, false) else (sl - 2, true)

/-- A publish of a buffer of a shelf; the port cursor of shelf 63 returns to 0 (R94, R172). -/
def State.publishAt (s : State) (d r sl sh n : Nat) (tag : BitVec 16) : State :=
  let s := s.setBuf d r sl sh ((s.buf d r sl sh).publishAt n tag)
  if sh = 63 then
    let (x, east) := xnOfMn sl
    let n := s.xn d r x
    s.setXn d r x (if east then { n with cursE := 0 } else { n with cursW := 0 })
  else s

/-- A publish of the producer buffer. -/
def State.publish (s : State) (d r sl sh : Nat) (tag : BitVec 16) : State :=
  s.publishAt d r sl sh ((s.buf d r sl sh).prod (s.shelf d r sl sh)) tag

def State.release (s : State) (d r sl sh : Nat) : State :=
  s.setBuf d r sl sh ((s.buf d r sl sh).release (s.shelf d r sl sh))

/-- A publish (`write`), or a release, of a shelf by an entry of the node in this cycle is still on its way (R350). -/
def State.shelfPending (s : State) (d r sl sh : Nat) (write : Bool) : Bool :=
  match (s.die d).act.regionAt r with
  | none => false
  | some (n, _) => (s.region d n).pipe.any (fun e => e.ring == r && e.slot == sl && (match e.eff with
    | .pub k _ => write && k == sh
    | .rel k => !write && k == sh
    | _ => false))

/-! ### Address generators (R91) -/

def agField (x : BitVec 128) (lo n : Nat) : Nat := x.toNat / 2 ^ lo % 2 ^ n
def agCount (x : BitVec 128) (k : Nat) : Nat :=
  match k with
  | 0 => agField x 24 16 + 1
  | 1 => agField x 40 16 + 1
  | _ => agField x 56 8 + 1
def agLsz (x : BitVec 128) : Nat := agField x 21 3

/-- The offset at position n. -/
def agOffset (x : BitVec 128) (n : Nat) : Nat :=
  let c0 := agCount x 0
  let c1 := agCount x 1
  (agField x 0 21 + n % c0 * agField x 64 21 + n / c0 % c1 * agField x 85 21 + n / c0 / c1 * agField x 106 21) % 2 ^ 21

/-- The next position. DESIGN CHOICE (log 23): it never wraps at 2^32, though R88 gives the position 32 bits and C0 × C1 × C2
can pass 2^32. -/
def agNext (x : BitVec 128) (n : Nat) : Nat :=
  if agCount x 0 * agCount x 1 * agCount x 2 ≤ n + 1 then 0 else n + 1

def State.mnCfg (s : State) (c : RowCtx) : MnCfg := (s.die c.d).act.mnCfg c.r c.sl
def State.agRec (s : State) (c : RowCtx) (ag : BitVec 2) : BitVec 128 := tget 0 (s.mnCfg c).ag ag.toNat
def State.agPos (s : State) (c : RowCtx) (ag : BitVec 2) : Nat := tget 0 (s.mn c.d c.r c.sl).agpos ag.toNat

/-- The generator advances by one. -/
def State.agStep (s : State) (c : RowCtx) (ag : BitVec 2) : State :=
  let m := s.mn c.d c.r c.sl
  s.setMn c.d c.r c.sl { m with agpos := tset 0 m.agpos ag.toNat (agNext (s.agRec c ag) (s.agPos c ag)) }

/-! ### Where an entry reads or writes -/

/-- A fault an entry raises: code, TRAPVAL, FADDR and DETAIL (R231, R233). -/
structure NFault where
  code : Nat
  val : Word
  faddr : Word
  detail : Word
  deriving DecidableEq, Repr

def accessAt (o : Nat) : NFault := ⟨tACCESS, BitVec.ofNat 64 o, BitVec.ofNat 64 o, 0⟩

/-- The node offset of `n` bytes at offset `o` of a shelf buffer or of the node (SHELF 0xFF): the producer buffer for a
write, the consumer buffer for a read. Misaligned, out of bounds, an invalid shelf or shadow storage: ACCESS (R94, R149,
R310, R311). -/
def State.entryAt (s : State) (c : RowCtx) (shelf : BitVec 8) (write : Bool) (o n : Nat) : Except NFault Nat :=
  let chk (a lim : Nat) : Except NFault Nat :=
    if o % n ≠ 0 ∨ lim < o + n then .error (accessAt o)
    else if s.inShadow c.d c.r (nodeOfSlot c.sl) (a + o) n then .error (accessAt (a + o))
    else .ok (a + o)
  if shelf = 0xFF then chk 0 (nodeSize (s.die c.d).g2)
  else
    let w := s.shelf c.d c.r c.sl shelf.toNat
    let b := s.buf c.d c.r c.sl shelf.toNat
    let a := bufBase w (if write then b.prod w else b.cons w)
    if !shValid w then .error (accessAt o)
    else if nodeSize (s.die c.d).g2 < a + o + n then .error (accessAt (a + o))
    else chk a (shBytes w)

/-- Bytes as a read entry sees them: own stores of the cycle before are hidden (R309). -/
def State.nodeRead (s : State) (c : RowCtx) (o n : Nat) : List Byte :=
  let m := s.mn c.d c.r c.sl
  (List.range n).map (fun i => match m.recent.find? (fun e => e.2.1 == o + i && decide (c.rc < e.1)) with
    | some e => e.2.2
    | none => s.byte (sramKey c.d c.r (nodeOfSlot c.sl) (o + i)))

/-- An uncorrectable error in what a read consumes (R246). -/
def State.nodePoison (s : State) (c : RowCtx) (o n : Nat) : Bool :=
  s.poisoned (sramKey c.d c.r (nodeOfSlot c.sl) o) n

/-- A store by an entry of the node: one store in arrival order, hidden from the node's reads of the next cycle. -/
def State.ownStore (s : State) (c : RowCtx) (l : List (Nat × Byte)) : State :=
  let node := nodeOfSlot c.sl
  let old := l.map (fun e => (c.rc + 2, e.1, s.byte (sramKey c.d c.r node e.1)))
  let s := s.nodeStoreAt c.d c.r node l
  let m := s.mn c.d c.r c.sl
  s.setMn c.d c.r c.sl { m with recent := m.recent.filter (fun e => decide (c.rc + 1 < e.1)) ++ old }

/-! ### Tags (R95) -/

/-- The check of a TAGCHK entry on its first read of a consumer buffer: the state afterwards, or SCHED. -/
def State.tagCheck (s : State) (c : RowCtx) (chk : BitVec 1) (shelf : BitVec 8) : Except NFault State :=
  if chk = 0 ∨ shelf = 0xFF then .ok s
  else
    let w := s.shelf c.d c.r c.sl shelf.toNat
    let b := s.buf c.d c.r c.sl shelf.toNat
    let m := s.mn c.d c.r c.sl
    if tget 0 m.chk c.idx = b.cc + 1 then .ok s
    else
      let found := tget 0xFFFF b.tags (b.cons w)
      let expect := tagAt w b.cc
      let dt := BitVec.ofNat 64 (expect.toNat * 2 ^ 16 + found.toNat)
      if found = expect then .ok (s.setMn c.d c.r c.sl { m with chk := tset 0 m.chk c.idx (b.cc + 1) })
      else .error ⟨tSCHED, dt, 0, dt⟩

/-! ### Banks (R92) -/

/-- The bank of a node offset under a key. -/
def bankOf (key a : Nat) : Nat :=
  (a / 2 ^ 6 % 16) ^^^ (a / 2 ^ 10 % 16) ^^^ (a / 2 ^ 14 % 16) ^^^ (a / 2 ^ 18 % 8 * 2) ^^^ key

/-- The CE that drives the operand port on a side of an XN (R172). -/
def portCe (x : Nat) (east : Bool) : Nat := if east then x + 1 else x - 1

/-! ### Classes of XN formats and the units and ports of XN entries (R169, R171, R173) -/

def class4 (f : Nat) : Bool := [0x07, 0x10, 0x13].contains f
def class8 (f : Nat) : Bool := [0x03, 0x04, 0x08, 0x0C, 0x0D, 0x0E, 0x0F, 0x11, 0x12].contains f
def class16 (f : Nat) : Bool := [0x01, 0x02].contains f

/-- A format pair the XN accepts (R169). -/
def pairOk (fa fd : Nat) : Bool :=
  if fd = 20 then class8 fa || class16 fa
  else (class4 fa || class8 fa || class16 fa) && (class4 fd || class8 fd || class16 fd)

/-- Cycles per K step: the class of the wider operand, doubled in the G2 profile (R58, R169). -/
def stepCycles (g2 : Bool) (fa fd : Nat) : Nat :=
  (if class16 fa || class16 fd then 128 else if class8 fa || class8 fd then 32 else 16) * (if g2 then 2 else 1)

/-- Bytes of one scale of a block format; 0 for a scalar format. -/
def scaleBytes (code : Nat) : Nat := if isSx code then 4 else if isBlock code then 1 else 0

/-- Bytes of one plane of `rows` rows of 64 elements, rounded up to 64 (R171). -/
def planeStride (code rows : Nat) : Nat :=
  if code = 20 then up64 (rows * 32 + rows + 4 * rows)
  else up64 (rows * 8 * laneWidth code + 2 * rows * scaleBytes code)

/-- Branch count and columns of a plane (R177). -/
def branches (lb : BitVec 2) : Nat := 2 ^ (lb.toNat + 1)
def planeCols (lb : BitVec 2) : Nat := match lb.toNat with
  | 2 => 16
  | 3 => 8
  | _ => 32

/-! #### Branch maps (R176) -/

def mapGranules (t : BitVec 8320) : Nat := (tabWordAt t 2) % 2 ^ 12 + 1
where tabWordAt (t : BitVec 8320) (n : Nat) : Nat := t.toNat / 2 ^ (32 * n) % 2 ^ 32

/-- Branch of granule g. -/
def mapBranch (t : BitVec 8320) (g : Nat) : Nat := t.toNat / 2 ^ (128 + 4 * g) % 16

/-- Curve of branch b. -/
def mapCurve (t : BitVec 8320) (b : Nat) : Nat := t.toNat / 2 ^ (4 * b) % 16

/-- A record TLOAD accepts as a map: no reserved bit, no nibble set beyond the last granule (R176). -/
def mapOk (t : BitVec 8320) : Bool :=
  let h2 := t.toNat / 2 ^ 64 % 2 ^ 32
  decide (h2 < 2 ^ 11 ∧ t.toNat / 2 ^ 96 % 2 ^ 32 = 0 ∧ t.toNat / 2 ^ (128 + 4 * (h2 + 1)) = 0)

/-- The branches of `n` granules from `g`. -/
def mapSpan (t : BitVec 8320) (g n : Nat) : List Nat := (List.range n).map (fun i => mapBranch t (g + i))

/-- How many different numbers a list holds. -/
def distinct : List Nat → Nat
  | [] => 0
  | x :: t => (if t.contains x then 0 else 1) + distinct t

/-- What an XN entry needs (R173): shelves read and written as (east, shelf), its unit (0 none, 1 array, 2 output), its
cycles of port 1, the cycles to completion and to the release of its unit and ports. -/
structure XNeed where
  reads : List (Bool × Nat) := []
  writes : List (Bool × Nat) := []
  unit : Nat := 0
  ports : List XPort := []
  left : Nat := 0
  busy : Nat := 0
  deriving DecidableEq, Repr

/-- Both MNs read in cycles 0 to n − 1. -/
def both (n : Nat) : List XPort := [⟨false, 0, n - 1, false, none⟩, ⟨true, 0, n - 1, false, none⟩]

def sideOf (dside : BitVec 1) (ash bsh : BitVec 8) : Bool × Nat := if dside = 1 then (true, bsh.toNat) else (false, ash.toNat)

/-- The needs of an entry: `cyc` is C, `beta` the number of branches XDBX and XDBW read. -/
def xnNeed (cyc beta : Nat) (i : Instr) : XNeed :=
  match i with
  | .xmm _ _ a b k _ =>
    { reads := [(false, a.toNat), (true, b.toNat)], unit := 1, ports := both (k.toNat * cyc), left := k.toNat * cyc, busy := k.toNat * cyc }
  | .xdnd _ a b k _ _ _ =>
    { reads := [(false, a.toNat), (true, b.toNat)], unit := 1, ports := both (k.toNat * cyc), left := k.toNat * cyc, busy := k.toNat * cyc }
  | .xdbx _ a b k _ _ _ =>
    let n := k.toNat * cyc * beta
    { reads := [(false, a.toNat), (true, b.toNat)], unit := 1, ports := both n, left := n, busy := n }
  | .xdbw _ a b k _ _ _ =>
    let n := k.toNat * cyc * beta
    { reads := [(false, a.toNat), (true, b.toNat)], unit := 1, ports := both n, left := n, busy := n }
  | .xclr _ _ _ => { left := 2, busy := 2 }
  | .xwb _ _ a b k _ clip scale dside =>
    let z := laneWidth k.toNat
    let par := clip == 1 || scale == 1
    { reads := if par then [(dside == 0, 0)] else [], writes := [sideOf dside a b], unit := 2,
      ports := ⟨dside == 1, 8, 7 + 2 * z, true, none⟩ :: (if par then [⟨dside == 0, 0, 0, false, none⟩] else []), left := 8 + 2 * z, busy := 8 + 2 * z }
  | .xdfin _ a _ _ lb tap =>
    let n := 2 * branches lb * planeCols lb
    { writes := if tap = 1 then [(false, a.toNat)] else [], unit := 2,
      ports := if tap = 1 then [⟨false, 48, 47 + n, true, none⟩] else [], left := if tap = 1 then 48 + n else 48,
      busy := if tap = 1 then 48 + n else 48 }
  | .xtrq a b =>
    { reads := [(false, a.toNat)], writes := [(true, b.toNat)], unit := 2, ports := [⟨false, 0, 16, false, none⟩, ⟨true, 7, 23, true, none⟩],
      left := 24, busy := 24 }
  | .xsta _ _ a b dside =>
    { writes := [sideOf dside a b], unit := 2, ports := [⟨dside == 1, 64, 324, true, none⟩], left := 64, busy := 325 }
  | .xlda _ _ a b dside =>
    { reads := [sideOf dside a b], unit := 2, ports := [⟨dside == 1, 0, 260, false, none⟩], left := 325, busy := 325 }
  | _ => {}

/-- The accumulator whose version an entry checks (R174). -/
def xnAcc (i : Instr) : Option Nat :=
  match i with
  | .xmm a _ _ _ _ _ => some a.toNat
  | .xclr a _ _ => some a.toNat
  | .xwb a _ _ _ _ _ _ _ _ => some a.toNat
  | .xsta a _ _ _ _ => some a.toNat
  | .xlda a _ _ _ _ => some a.toNat
  | .xdnd _ _ _ _ _ _ _ => some 0
  | .xdfin _ _ _ _ _ _ => some 0
  | .xdbx _ _ _ _ _ _ _ => some 0
  | .xdbw _ _ _ _ _ _ _ => some 0
  | _ => none

/-- An XN opcode that the G2 profile reserves (R120). -/
def g2Reserved (w : Word) : Bool := decide (4 ≤ bitsOf w 58 6 ∧ bitsOf w 58 6 ≤ 8)

/-- The accumulator whose version an entry word checks, whether or not the word is a legal entry (R122, R174); a reserved
opcode checks none (R120). -/
def xnAccOf (g2 : Bool) (w : Word) : Option Nat :=
  if g2 && g2Reserved w then none else
  match bitsOf w 58 6 with
  | 1 => some (bitsOf w 56 2)
  | 2 => some (bitsOf w 56 2)
  | 3 => some (bitsOf w 56 2)
  | 9 => some (bitsOf w 56 2)
  | 10 => some (bitsOf w 56 2)
  | 4 => some 0
  | 5 => some 0
  | 6 => some 0
  | 7 => some 0
  | _ => none

def mapKey (r sl m : Nat) : Nat := 8 * ukey r sl + m
def curveKey (r sl m : Nat) : Nat := 16 * ukey r sl + m

/-- The branch map an entry names. -/
def xnMap (i : Instr) : Nat :=
  match i with
  | .xdnd _ _ _ _ _ m _ => m.toNat
  | .xdfin _ _ _ m _ _ => m.toNat
  | .xdbx _ _ _ _ _ m _ => m.toNat
  | .xdbw _ _ _ _ _ m _ => m.toNat
  | _ => 0

/-- The needs of an entry of an XN as it stands. -/
def State.xnNeeds (s : State) (d r sl : Nat) (i : Instr) : XNeed :=
  let cfg := (s.die d).act.xnCfg r sl
  let cyc := stepCycles (s.die d).g2 (faOf cfg.fcfg) (fdOf cfg.fcfg)
  let x := s.xn d r sl
  let beta := match tget none (s.die d).act.maps (mapKey r sl (xnMap i)) with
    | some t => distinct (mapSpan t x.gc.toNat 4)
    | none => 1
  xnNeed cyc beta i

/-- The words of an entry in flight decode to it. -/
def xnInstr (w : Word) : Option Instr := decoded (decodeXn w)

/-- The MN beside an XN. -/
def mnOfXn (sl : Nat) (east : Bool) : Nat := if east then sl + 2 else sl - 2

/-- The bank that an operation touches through a port in cycle `k` from its firing: of the beat that is due; for the tiles of
an array operation the spec gives no pattern (log 17). -/
def XPort.bank (p : XPort) (key : Nat) (entry : Word) (k : Nat) : Nat :=
  match p.base with
  | some o => bankOf key (o + 64 * (k - p.first))
  | none => Config.portBank entry p.east k

/-- The bank that port 1 of an MN touches in this cycle: a value on the operand port goes to shelf 63, an XN operation in
flight has its own cycles (R92, R172, R173). -/
def State.portOne (s : State) (d r sl : Nat) : Option Nat :=
  let (x, east) := xnOfMn sl
  let n := s.xn d r x
  let key := bitsOf (((s.die d).act.mnCfg r sl).ncfg.setWidth 64) 4 4
  let w := s.shelf d r sl 63
  let b := s.buf d r sl 63
  match tget none (s.die d).xports (ukey r (portCe x east)) with
  | some _ => some (bankOf key (bufBase w (b.prod w) + 64 * (if east then n.cursE else n.cursW).toNat))
  | none =>
    n.flight.findSome? (fun f => f.ports.findSome? (fun p =>
      let gone := f.total - f.busy
      if p.east == east && decide (p.first ≤ gone ∧ gone ≤ p.last) then some (p.bank key f.entry gone) else none))

/-- BANK when port 1 of the node touches the bank of an offset in this cycle (R92). -/
def State.bankFault (s : State) (c : RowCtx) (o : Nat) : Option NFault :=
  let bk := bankOf (bitsOf ((s.mnCfg c).ncfg.setWidth 64) 4 4) o
  if s.portOne c.d c.r c.sl = some bk then
    some ⟨tBANK, BitVec.ofNat 64 o, BitVec.ofNat 64 o, BitVec.ofNat 64 (bk + (xnOfMn c.sl).1 * 2 ^ 8)⟩
  else none

/-! ### Freeze causes (R38) -/

/-- An entry that reads the consumer buffer finds it empty, or one that writes finds the producer buffer full. -/
def State.shelfBlocks (s : State) (d r sl sh : Nat) (write : Bool) : Bool :=
  let w := s.shelf d r sl sh
  let b := s.buf d r sl sh
  shValid w && (if write then b.isFull (b.prod w) else !b.isFull (b.cons w))

/-- The node's MODE permits an entry; MFENCE, LDS, STS, SHPUB and SHREL run in every mode but the reserved one (R90). -/
def modeAllows (mode : Nat) (i : Instr) : Bool :=
  match i with
  | .mnop => true
  | .ldx _ _ _ _ _ _ _ => decide (mode = 1 ∨ mode = 2)
  | .stx _ _ _ _ _ _ => decide (mode = 1 ∨ mode = 2)
  | .drd _ _ _ _ => decide (mode = 1 ∨ mode = 2)
  | .amoO _ _ _ _ _ _ => decide (mode = 2)
  | .amoU _ _ _ _ _ _ => decide (mode = 2)
  | _ => decide (mode ≠ 3)

/-- The PRED field of an entry. -/
def predOf (i : Instr) : BitVec 2 :=
  match i with
  | .lds _ p _ _ _ => p
  | .sts _ p _ _ => p
  | .ldx _ p _ _ _ _ _ => p
  | .stx _ p _ _ _ _ => p
  | .amoO _ p _ _ _ _ => p
  | .amoU _ p _ _ _ _ => p
  | .drd _ p _ _ => p
  | _ => 0

/-- An entry of a node that raises ILL when it executes (R90, R117, R120). -/
def State.mnIllegal (s : State) (c : RowCtx) (i : Instr) : Bool :=
  !modeAllows (bitsOf ((s.mnCfg c).ncfg.setWidth 64) 0 2) i || (predOf i != 0 && s.predWidth c (predOf i) == 0)

/-- The freeze cause of an MN entry. -/
def State.mnCause (s : State) (c : RowCtx) (i : Instr) : Bool :=
  let blocks (sh : BitVec 8) (w : Bool) : Bool := decide (sh ≠ 0xFF) && s.shelfBlocks c.d c.r c.sl sh.toNat w
  !s.mnIllegal c i && match i with
  | .lds _ _ _ _ sh => blocks sh false
  | .ldx _ _ _ _ _ sh _ => blocks sh false
  | .sts _ _ _ sh => blocks sh true
  | .stx _ _ _ _ sh _ => blocks sh true
  | .amoO _ _ _ _ sh _ => blocks sh true
  | .amoU _ _ _ _ sh _ => blocks sh true
  | .shpub sh => blocks sh true
  | _ => false

/-- d of R174 for an entry whose expected version is EV. -/
def versionGap (ev v : Byte) : Nat := (ev - v).toNat

/-- A unit or port that an entry needs is held by an operation in flight; a command holds all it uses until it completes
(R173, R175). -/
def State.xnBusy (s : State) (d r sl : Nat) (i : Instr) : Bool :=
  let n := s.xnNeeds d r sl i
  (s.xn d r sl).flight.any (fun f =>
    let gone := f.total - f.busy
    (n.unit != 0 && n.unit == f.unit) ||
    f.ports.any (fun p => n.ports.any (fun q => p.east == q.east &&
      (f.cmd.isSome || decide (max (p.first - gone) q.first ≤ min (p.last - gone) q.last ∧ gone ≤ p.last)))))

/-- A named buffer of an XN entry is empty to read or full to write. -/
def State.xnShelfWaits (s : State) (d r sl : Nat) (i : Instr) : Bool :=
  let n := s.xnNeeds d r sl i
  n.reads.any (fun e => s.shelfBlocks d r (mnOfXn sl e.1) e.2 false) ||
  n.writes.any (fun e => s.shelfBlocks d r (mnOfXn sl e.1) e.2 true)

end Sys2Proof.Machine
end

