-- ==== Sys2Proof/Machine/Node.lean ====
section
/-! DEFINITION. Memory-node entries (R309 to R315, R350, R356, R357, R256, R257, R278). -/

namespace Sys2Proof.Machine

/-- The word of an MN's entry. -/
def State.mnEntry (s : State) (c : RowCtx) : Word := tget 0 (s.mnCfg c).rows c.mc

/-- A node raises a fault (R229). -/
def State.mnFault (s : State) (c : RowCtx) (e : NFault) : State :=
  s.raiseFault c.d c.reg c.r c.sl 1 e.code c.idx c.stage e.val e.faddr e.detail

/-- A freeze line asserted by a unit (R37, R38); it stays asserted when it already is. -/
def State.freeze (s : State) (d n ring slot : Nat) (thr : Bool) : State :=
  let x := s.region d n
  match x.frz with
  | none => s.setRegion d n { x with frz := some ⟨s.cycle, none, ring, slot, thr⟩ }
  | some f => s.setRegion d n { x with frz := some ⟨if f.thr && !thr then s.cycle else f.since, none, ring, slot, thr⟩ }

/-- The meaning of an entry: nothing when it is nullified; ILL when its mode or its predicate's format forbids it; a
freeze when its cause is present; otherwise its effect or a precise fault. -/
def entryExec (s : State) (i : Instr) (f : RowCtx → Except NFault State) : Out :=
  match s.curRow with
  | none => .next s
  | some c =>
    if s.mnIllegal c i then .next (s.mnFault c ⟨tILL, s.mnEntry c, 0, 0⟩)
    else if s.mnCause c i then .next (s.freeze c.d c.reg c.r c.sl false)
    else match f c with
      | .ok s' => .next s'
      | .error e => .next (s.mnFault c e)

/-- Data on its way to the read-data latch and a lane, under PRED (R118, R309). -/
def State.latchData (s : State) (c : RowCtx) (lat : Nat) (lane : BitVec 5) (mask : Vec) (l : List Byte) : State :=
  s.issueEff c lat (.latch (BitVec.ofNat 512 (leNat l)) mask lane.toNat)

/-- A read of `n` bytes at node offset `a` (R309). -/
def State.readEntry (s : State) (c : RowCtx) (lane : BitVec 5) (pred : BitVec 2) (a n : Nat) : Except NFault State :=
  if s.nodePoison c a n then .error ⟨tECC, BitVec.ofNat 64 a, BitVec.ofNat 64 a, 0⟩
  else .ok (s.latchData c (s.lat c 4 6) lane (s.predLatch c pred) (s.nodeRead c a n))

/-- MNOP (R315). -/
def execMnop (s : State) : Out := entryExec s .mnop (fun _ => .ok s)

/-- LDS (R310). -/
def execLds (lane : BitVec 5) (pred ag : BitVec 2) (chk : BitVec 1) (shelf : BitVec 8) (s : State) : Out :=
  entryExec s (.lds lane pred ag chk shelf) (fun c =>
    let lsz := agLsz (s.agRec c ag)
    let o := agOffset (s.agRec c ag) (s.agPos c ag)
    if lsz = 7 then .error (accessAt o) else
    match s.entryAt c shelf false o (2 ^ lsz) with
    | .error e => .error e
    | .ok a => match s.tagCheck c chk shelf with
      | .error e => .error e
      | .ok s' => match s'.readEntry c lane pred a (2 ^ lsz) with
        | .error e => .error e
        | .ok s'' => .ok (s''.agStep c ag))

/-- The bytes of a store that PRED lets through, at their node offsets (R356). -/
def State.predBytes (s : State) (c : RowCtx) (pred : BitVec 2) (a n : Nat) (v : Vec) : List (Nat × Byte) :=
  ((List.range n).filter (s.predByte c pred)).map (fun i => (a + i, v.extractLsb' (8 * i) 8))

/-- STS (R356): a bank conflict, which only a privileged write can create, is ACCESS. -/
def execSts (lane : BitVec 5) (pred ag : BitVec 2) (shelf : BitVec 8) (s : State) : Out :=
  entryExec s (.sts lane pred ag shelf) (fun c =>
    let lsz := agLsz (s.agRec c ag)
    let o := agOffset (s.agRec c ag) (s.agPos c ag)
    if lsz = 7 then .error (accessAt o) else
    match s.entryAt c shelf true o (2 ^ lsz) with
    | .error e => .error e
    | .ok a =>
      if (s.bankFault c a).isSome then .error (accessAt a)
      else .ok ((s.ownStore c (s.predBytes c pred a (2 ^ lsz) (s.nodeSource c lane))).agStep c ag))

/-- The offset of an indexed entry (R119). -/
def State.indexed (s : State) (c : RowCtx) (ag : BitVec 2) (imm : BitVec 32) : Nat :=
  (imm.toNat + s.nodeIndex c ag) % 2 ^ 32

/-- Where an indexed entry acts: bounds first, then the bank (R92, R311). -/
def State.indexedAt (s : State) (c : RowCtx) (ag : BitVec 2) (shelf : BitVec 8) (write : Bool) (imm : BitVec 32) (n : Nat) :
    Except NFault Nat :=
  match s.entryAt c shelf write (s.indexed c ag imm) n with
  | .error e => .error e
  | .ok a => match s.bankFault c a with
    | some e => .error e
    | none => .ok a

/-- LDX (R311). -/
def execLdx (lane : BitVec 5) (pred : BitVec 2) (mode : BitVec 3) (ag : BitVec 2) (chk : BitVec 1) (shelf : BitVec 8)
    (imm : BitVec 32) (s : State) : Out :=
  entryExec s (.ldx lane pred mode ag chk shelf imm) (fun c =>
    match s.indexedAt c ag shelf false imm (2 ^ mode.toNat) with
    | .error e => .error e
    | .ok a => match s.tagCheck c chk shelf with
      | .error e => .error e
      | .ok s' => s'.readEntry c lane pred a (2 ^ mode.toNat))

/-- STX (R357). -/
def execStx (lane : BitVec 5) (pred : BitVec 2) (mode : BitVec 3) (ag : BitVec 2) (shelf : BitVec 8) (imm : BitVec 32)
    (s : State) : Out :=
  entryExec s (.stx lane pred mode ag shelf imm) (fun c =>
    match s.indexedAt c ag shelf true imm (2 ^ mode.toNat) with
    | .error e => .error e
    | .ok a => .ok (s.ownStore c (s.predBytes c pred a (2 ^ mode.toNat) (s.nodeSource c lane))))

/-- Width of an AMO kind in bits (R256). -/
def amoWidth (mode : BitVec 3) : Nat := if mode = 1 ∨ mode = 6 then 64 else 32

/-- FP32 maximum of an AMO: NaN orders above +Inf and is canonical (R256). -/
def amoMax (x v : Nat) : Nat :=
  let a := (ffmt 0).decode x
  let b := (ffmt 0).decode v
  let r := if aboveNum b a then v else x
  if ((ffmt 0).decode r).isNan then (ffmt 0).canon else r

/-- Op(x, v) of an AMO kind (R119, R256). -/
def amoOp (mode : BitVec 3) (x v : Nat) : Nat :=
  match mode.toNat with
  | 0 => (x + v) % 2 ^ 32
  | 1 => (x + v) % 2 ^ 64
  | 2 => (addRound 0 0 ((ffmt 0).decode x) ((ffmt 0).decode v)).1
  | 3 => amoMax x v
  | 4 => if ival 32 v < ival 32 x then v else x
  | 5 => if ival 32 x < ival 32 v then v else x
  | _ => x ||| v

/-- `n` lanes combined two at a time in the G2 profile's order until one value is left (R84, R256). -/
def g2Combine (f : Nat → Nat → Nat) (n : Nat) : Nat → List Nat → List Nat
  | 0, l => l
  | fuel + 1, l =>
    if l.length < 2 then l
    else
      let i := Config.g2AmoPick n l.length 0 % l.length
      let rest := l.eraseIdx i
      let j := Config.g2AmoPick n l.length 1 % rest.length
      g2Combine f n fuel (f ((l[i]?).getD 0) ((rest[j]?).getD 0) :: rest.eraseIdx j)

/-- The new value: lanes in ascending order, or combined first by the tree (R197, R256). -/
def amoApply (g2 ordered : Bool) (mode : BitVec 3) (x : Nat) (l : List Nat) : Nat :=
  if ordered then l.foldl (amoOp mode) x
  else match (if g2 && mode == 2 then g2Combine (amoOp mode) l.length 16 l else treeFold (amoOp mode) 4 l) with
    | [v] => amoOp mode x v
    | _ => x

/-- The effect of AMO.O and AMO.U (R256, R257): for LANE 13 to 15 the old value goes to the latch alone. -/
def State.amoEntry (s : State) (c : RowCtx) (ordered : Bool) (lane : BitVec 5) (pred : BitVec 2) (mode : BitVec 3)
    (ag : BitVec 2) (shelf : BitVec 8) (imm : BitVec 32) : Except NFault State :=
  let w := amoWidth mode
  match s.indexedAt c ag shelf true imm (w / 8) with
  | .error e => .error e
  | .ok a =>
    if s.nodePoison c a (w / 8) then .error ⟨tECC, BitVec.ofNat 64 a, BitVec.ofNat 64 a, 0⟩
    else
      let old := leNat (s.nodeRead c a (w / 8))
      let v := s.nodeSource c lane
      let on := (List.range (512 / w)).filter (s.predBit c pred w)
      if on.isEmpty then .ok s
      else
        let x := amoApply (s.die c.d).g2 ordered mode old (on.map (Sys2Proof.Machine.lane w v))
        let s' := s.ownStore c ((leBytes (w / 8) x).mapIdx (fun i b => (a + i, b)))
        .ok (s'.issueEff c (s.lat c 6 8) (.latch (ofLanes w (List.replicate (512 / w) old))
          (maskOf w (s.predBit c pred w)) (if lane.toNat ≤ 12 then lane.toNat else 0)))

/-- AMO.O (R256). -/
def execAmoO (lane : BitVec 5) (pred : BitVec 2) (mode : BitVec 3) (ag : BitVec 2) (shelf : BitVec 8) (imm : BitVec 32)
    (s : State) : Out :=
  entryExec s (.amoO lane pred mode ag shelf imm) (fun c => s.amoEntry c true lane pred mode ag shelf imm)

/-- AMO.U (R256). -/
def execAmoU (lane : BitVec 5) (pred : BitVec 2) (mode : BitVec 3) (ag : BitVec 2) (shelf : BitVec 8) (imm : BitVec 32)
    (s : State) : Out :=
  entryExec s (.amoU lane pred mode ag shelf imm) (fun c => s.amoEntry c false lane pred mode ag shelf imm)

/-- DRD (R278). -/
def execDrd (lane : BitVec 5) (pred : BitVec 2) (dix : BitVec 4) (imm : BitVec 32) (s : State) : Out :=
  entryExec s (.drd lane pred dix imm) (fun c =>
    match s.deriv c.d c.r (nodeOfSlot c.sl) dix.toNat with
    | none => .error (accessAt imm.toNat)
    | some x =>
      if x.building ∨ x.arrayLen ≤ imm.toNat ∨ imm.toNat % 64 ≠ 0 then .error (accessAt imm.toNat)
      else if s.shadowPoison c.d c.r (nodeOfSlot c.sl) imm.toNat 64 x then
        .error ⟨tECC, BitVec.ofNat 64 imm.toNat, BitVec.ofNat 64 imm.toNat, 0⟩
      else
        let (l, s') := s.derivRead c.d c.r (nodeOfSlot c.sl) dix.toNat imm.toNat 64 x
        .ok (s'.latchData c (s.lat c 4 6) lane (s.predLatch c pred) l))

/-- SHPUB (R94, R350). -/
def execShpub (shelf : BitVec 8) (s : State) : Out :=
  entryExec s (.shpub shelf) (fun c =>
    let w := s.shelf c.d c.r c.sl shelf.toNat
    if !shValid w then .error ⟨tACCESS, 0, 0, 0⟩
    else .ok (s.issueEff c 1 (.pub shelf.toNat (tagAt w (s.buf c.d c.r c.sl shelf.toNat).pc))))

/-- SHREL (R94, R350). -/
def execShrel (shelf : BitVec 8) (s : State) : Out :=
  entryExec s (.shrel shelf) (fun c =>
    let w := s.shelf c.d c.r c.sl shelf.toNat
    let b := s.buf c.d c.r c.sl shelf.toNat
    if !shValid w then .error ⟨tACCESS, 0, 0, 0⟩
    else if !b.isFull (b.cons w) then .error ⟨tSCHED, 0, 0, 0⟩
    else .ok (s.issueEff c 1 (.rel shelf.toNat)))

/-- MFENCE has no run-time effect (R213, R314). -/
def execMfence (dix : BitVec 4) (imm : BitVec 32) (s : State) : Out := entryExec s (.mfence dix imm) (fun _ => .ok s)

end Sys2Proof.Machine
end

