-- ==== Sys2Proof/Machine/Matrix.lean ====
section
/-! DEFINITION. Matrix nodes (R168 to R181, R367 to R379): versions, firing, and what each operation does when it
completes. -/

namespace Sys2Proof.Machine

/-! ### Accumulators -/

def cellKey (acc m n : Nat) : Nat := 1024 * acc + 32 * m + n
def Xn.cell (x : Xn) (acc m n : Nat) : Cell := tget {} x.acc (cellKey acc m n)
def Xn.setCell (x : Xn) (acc m n : Nat) (c : Cell) : Xn := { x with acc := tset {} x.acc (cellKey acc m n) c }
def Xn.anchor (x : Xn) (acc : Nat) : Byte := tget 0 x.anch acc
def Xn.ver (x : Xn) (acc : Nat) : Byte := tget 0 x.v acc
def Xn.ovfBit (x : Xn) (acc : Nat) : Bool := x.ovf.getLsbD acc
def Xn.setOvf (x : Xn) (acc : Nat) (v : Bool) : Xn :=
  { x with ovf := if v then x.ovf ||| (1#4 <<< acc) else x.ovf &&& ~~~(1#4 <<< acc) }
def Xn.flag (x : Xn) (f : Flags) : Xn := { x with flags := x.flags ||| f }

/-! ### Versions (R174) -/

/-- Null completions that the counter of an accumulator has reached take effect, one after another. -/
def Xn.runNulls (acc : Nat) : Nat → Xn → Xn
  | 0, x => x
  | fuel + 1, x =>
    if x.nulls.contains (acc, x.ver acc) then
      Xn.runNulls acc fuel { x with
        nulls := x.nulls.erase (acc, x.ver acc), v := tset 0 x.v acc (x.ver acc + 1) }
    else x

/-- An operation expecting `e` completes. -/
def Xn.advance (x : Xn) (acc : Nat) (e : Byte) : Xn :=
  Xn.runNulls acc 256 { x with v := tset 0 x.v acc (e + 1) }

/-- A nullified entry's completion: discarded when the counter has passed it. -/
def Xn.nullDone (x : Xn) (acc : Nat) (e : Byte) : Xn :=
  if 128 ≤ versionGap e (x.ver acc) then x
  else Xn.runNulls acc 256 { x with nulls := x.nulls ++ [(acc, e)] }

/-- VS(a): versioned entries of the active table that check accumulator `a`. -/
def versionedCount (g2 : Bool) (cfg : XnCfg) (a : Nat) : Nat :=
  (cfg.rows.filter (fun e => xnAccOf g2 e.2 == some a)).length

/-- EVj advances after firing or nullification. -/
def Xn.nextEv (x : Xn) (g2 : Bool) (cfg : XnCfg) (j a : Nat) : Xn :=
  { x with ev := tset 0 x.ev j (tget 0 x.ev j + BitVec.ofNat 8 (versionedCount g2 cfg a)) }

/-! ### Operands (R171) -/

/-- `n` bytes from byte `o` of what an operation has read, as a number. -/
def sliceNat (l : List Byte) (o n : Nat) : Nat := leNat ((l.drop o).take n)

/-- Element (r, c) of a plane of `rows` rows of 64 elements at byte `base` of what was read, Q16 without its super-scale;
the flag is a format error. -/
def planeElem (l : List Byte) (base code rows r c : Nat) : FVal × Bool :=
  let w := laneWidth code
  let i := 64 * r + c
  let raw := sliceNat l (base + i * w / 8) ((w + 7) / 8)
  let x := if w = 4 then (if c % 2 = 0 then raw % 16 else raw / 16) else raw
  if code = 20 then
    (FVal.ofRat (q16Level x * ((sliceNat l (base + rows * 32 + r) 1 : Nat) : Rat)), false)
  else if isBlock code then
    decodeBlock code x (sliceNat l (base + rows * 8 * w + (2 * r + c / 32) * scaleBytes code) (scaleBytes code)) 0
  else decodeScalar code x

/-- The super-scale of row r of a Q16 plane. -/
def planeSuper (l : List Byte) (base rows r : Nat) : FVal × Bool :=
  let v := (ffmt 0).decode (sliceNat l (base + rows * 33 + 4 * r) 4)
  if finite v then (v, false) else (.nan, true)

/-- The addition of one exact value to a cell with an anchor (R77, R78): the cell, INV, overflow. -/
def Cell.addVal (c : Cell) (anch : Int) (v : FVal) (inv : Bool) : Cell × Bool × Bool :=
  match v with
  | .nan => ({ c with st := 3 }, inv, false)
  | .inf s =>
    let (st, i) := combine c.st s
    ({ c with st }, inv || i, false)
  | v =>
    let (x, o) := accAdd c.x (onGrid v.toRat anch)
    ({ c with x }, inv, o)

/-- The pairs of operands that a cell adds, in order; for Q16 with the super-scale of the segment (R77, R79, R374). -/
def Cell.accumulate (c : Cell) (anch : Int) (sup : Option (FVal × Bool)) (l : List ((FVal × Bool) × (FVal × Bool))) :
    Cell × Bool × Bool :=
  match sup with
  | none =>
    l.foldl (fun t e =>
      let (p, i) := mulNum e.1.1 e.2.1
      let (c, inv, o) := t.1.addVal anch p (i || e.1.2 || e.2.2)
      (c, t.2.1 || inv, t.2.2 || o)) (c, false, false)
  | some (q, err) =>
    let (sum, inv) := l.foldl (fun (t : FVal × Bool) e =>
      let (p, i) := mulNum e.1.1 e.2.1
      let (r, j) := addNum 0 t.1 p
      (r, t.2 || i || j || e.1.2 || e.2.2)) (.zero false, false)
    let (p, i) := mulNum sum q
    c.addVal anch p (inv || i || err)

/-- Cells of an accumulator changed one after another; INV and OVF go to the flags, overflow to the accumulator. -/
def Xn.updateCells (x : Xn) (acc : Nat) (cells : List (Nat × Nat)) (f : Nat → Nat → Cell → Cell × Bool × Bool) : Xn :=
  cells.foldl (fun x e =>
    let (c, inv, o) := f e.1 e.2 (x.cell acc e.1 e.2)
    let x := (x.setCell acc e.1 e.2 c).flag (flagIf inv fINV ||| flagIf o fOVF)
    if o then x.setOvf acc true else x) x

/-- The pairs (m, n) with m < rows, n < cols. -/
def grid (rows cols : Nat) : List (Nat × Nat) :=
  ((List.range rows).map (fun m => (List.range cols).map (fun n => (m, n)))).flatten

/-- Where the plane of branch b lies (R177): accumulator and first column. -/
def planeAt (lb : BitVec 2) (b : Nat) : Nat × Nat :=
  match lb.toNat with
  | 2 => (b / 2, 16 * (b % 2))
  | 3 => (b / 4, 8 * (b % 4))
  | _ => (b, 0)

def anchInt (a : Byte) : Int := a.toInt

/-- The formats of an XN. -/
def State.xfa (s : State) (d r sl : Nat) : Nat := faOf ((s.die d).act.xnCfg r sl).fcfg
def State.xfd (s : State) (d r sl : Nat) : Nat := fdOf ((s.die d).act.xnCfg r sl).fcfg
def State.xrm (s : State) (d r sl : Nat) : Nat := rmOf ((s.die d).act.xnCfg r sl).fcfg

/-- The super-scale that closes a Q16 segment: that of step 0. DESIGN CHOICE (log 11): also where the steps of an issue lie
in two super-blocks, which R79 refuses, R171 and R374 make the program's duty, and for which R181 names no trap. -/
def segSuper (fd : Nat) (l : List Byte) (base rows r : Nat) : Option (FVal × Bool) :=
  if fd = 20 then some (planeSuper l base rows r) else none

/-! ### Effects at completion -/

/-- XMM: `steps` K steps of tile products (R374). -/
def State.xmmEffect (s : State) (d r sl : Nat) (f : XFlight) (acc steps : Nat) (anch : Byte) : Xn :=
  let fa := s.xfa d r sl
  let fd := s.xfd d r sl
  (s.xn d r sl).updateCells acc (grid 32 32) (fun m n c =>
    c.accumulate (anchInt anch) (segSuper fd f.dataB 0 32 n)
      (((List.range steps).map (fun t => (List.range 64).map (fun k =>
        (planeElem f.dataA (t * planeStride fa 32) fa 32 m k, planeElem f.dataB (t * planeStride fd 32) fd 32 n k)))).flatten))

/-- XCLR (R368). -/
def Xn.clear (x : Xn) (acc : Nat) (anch : Byte) : Xn :=
  let x := { x with acc := x.acc.filter (fun e => e.1 / 1024 != acc), anch := tset 0 x.anch acc anch }
  let x := x.setOvf acc false
  if acc = 0 then { x with gc := 0 } else x

/-- A cell as R80 reads it, before rounding into `dst`: an exact value, or a finished pattern with its flags. -/
def Xn.readCell (x : Xn) (acc m n : Nat) : FVal :=
  let c := x.cell acc m n
  if c.st = 3 then .nan
  else if c.st = 1 then .inf false
  else if c.st = 2 then .inf true
  else FVal.ofRat ((c.x.toInt : Rat) * pow2 (anchInt (x.anchor acc)))

/-- The cell is finite in an overflowed accumulator (R80). -/
def Xn.lost (x : Xn) (acc m n : Nat) : Bool := decide ((x.cell acc m n).st = 0) && x.ovfBit acc

/-- The scale of an XWB: `none` is a format error (R73, R80). -/
def xwbScale (sfmt : BitVec 1) (w : BitVec 32) : Option FVal :=
  if sfmt = 1 then (sb20 w.toNat).map (fun q => FVal.ofRat q)
  else
    let v := (ffmt 0).decode w.toNat
    if finite v then some v else none

/-- One cell of XWB (R80). -/
def Xn.writeBack (x : Xn) (rm acc m n dst : Nat) (scale : Option (Option FVal)) (clip : Option (FVal × FVal)) : Nat × Flags :=
  match scale with
  | some none =>
    let (y, f) := nanOf dst
    (y, f ||| fINV)
  | _ =>
    let neg := decide ((x.cell acc m n).x.toInt < 0)
    if x.lost acc m n then
      match clip with
      | some (lo, hi) => ((roundTo dst 0 (if neg then lo else hi)).1, fSAT)
      | none => (extreme dst neg, fSAT)
    else
      let v := x.readCell acc m n
      let (v, i) := match scale with
        | some (some q) => mulNum v q
        | _ => (v, false)
      let (v, sat) := match clip with
        | some (lo, hi) =>
          let y := if v.isNan then .nan else if belowNum v lo then lo else if belowNum hi v then hi else v
          (y, !v.isNan && !eqNum y v)
        | none => (v, false)
      let (y, f) := roundTo dst rm v
      (y, f ||| flagIf i fINV ||| flagIf sat fSAT)

/-- Elements packed into bytes as R69 gives. -/
def packBytes (w : Nat) (l : List Nat) : List Byte := leBytes (l.length * w / 8) (joinNat w l)

def par (f : XFlight) (n : Nat) : BitVec 32 := (f.par[n]?).getD 0

/-- The bytes that an XWB writes, and its flags (R80, R379). -/
def State.xwbOut (s : State) (d r sl : Nat) (f : XFlight) (acc dst : Nat) (sfmt clip scale : BitVec 1) : List Byte × Flags :=
  let sc := if scale = 1 then some (xwbScale sfmt (par f 0)) else none
  let cl := if clip = 1 then some ((ffmt 0).decode (par f 1).toNat, (ffmt 0).decode (par f 2).toNat) else none
  let l := (grid 32 32).map (fun e => (s.xn d r sl).writeBack (s.xrm d r sl) acc e.1 e.2 dst sc cl)
  (packBytes (laneWidth dst) (l.map (·.1)), l.foldl (fun k e => k ||| e.2) 0)

/-- XWB, when it completes: its flags, and its last beat in the result latch (R52, R379). -/
def State.xwbEffect (s : State) (d r sl : Nat) (f : XFlight) (acc dst : Nat) (sfmt clip scale : BitVec 1) : Xn :=
  let (bytes, fl) := s.xwbOut d r sl f acc dst sfmt clip scale
  { (s.xn d r sl).flag fl with latch := BitVec.ofNat 512 (leNat (bytes.drop (bytes.length - 64))) }

/-- XDND: products into the planes of their branches (R177, R372). A plane that no granule of the issue names gets none, and
with Q16 no segment. -/
def State.xdndEffect (s : State) (d r sl : Nat) (f : XFlight) (map lb : Nat) (steps : Nat) (anch : Byte) : Xn :=
  let fa := s.xfa d r sl
  let fd := s.xfd d r sl
  let lbv := BitVec.ofNat 2 lb
  let nb := planeCols lbv
  match tget none (s.die d).act.maps (mapKey r sl map) with
  | none => s.xn d r sl
  | some t =>
    ((List.range (branches lbv)).filter (fun b => (mapSpan t f.gc (8 * steps)).contains b)).foldl (fun x b =>
      let (acc, c0) := planeAt lbv b
      x.updateCells acc ((grid 32 nb).map (fun e => (e.1, c0 + e.2))) (fun m c cell =>
        let n := c - c0
        cell.accumulate (anchInt anch) (segSuper fd f.dataB 0 nb n)
          (((List.range steps).map (fun st => ((List.range 64).filter (fun k =>
              mapBranch t (f.gc + 8 * st + k / 8) == b)).map (fun k =>
            (planeElem f.dataA (st * planeStride fa 32) fa 32 m k,
             planeElem f.dataB (st * planeStride fd nb) fd nb n k)))).flatten))) (s.xn d r sl)

/-- XDBX (R179, R370). -/
def State.xdbxEffect (s : State) (d r sl : Nat) (f : XFlight) (map lb steps : Nat) (anch : Byte) : Xn :=
  let fa := s.xfa d r sl
  let fd := s.xfd d r sl
  let nbr := branches (BitVec.ofNat 2 lb)
  match tget none (s.die d).act.maps (mapKey r sl map) with
  | none => s.xn d r sl
  | some t =>
    (s.xn d r sl).updateCells 0 (grid 32 32) (fun m k c =>
      let b := mapBranch t (f.gc + k / 8)
      c.accumulate (anchInt anch) (segSuper fd f.dataB 0 32 k)
        (((List.range steps).map (fun st => (List.range 64).map (fun n =>
          (planeElem f.dataA ((st * nbr + b) * planeStride fa 32) fa 32 m n,
           planeElem f.dataB (st * planeStride fd 32) fd 32 k n)))).flatten))

/-- XDBW (R179, R370). -/
def State.xdbwEffect (s : State) (d r sl : Nat) (f : XFlight) (map lb steps : Nat) (anch : Byte) : Xn :=
  let fa := s.xfa d r sl
  let fd := s.xfd d r sl
  let nbr := branches (BitVec.ofNat 2 lb)
  match tget none (s.die d).act.maps (mapKey r sl map) with
  | none => s.xn d r sl
  | some t =>
    (s.xn d r sl).updateCells 0 (grid 32 32) (fun k n c =>
      let b := mapBranch t (f.gc + k / 8)
      c.accumulate (anchInt anch) (segSuper fd f.dataB (b * planeStride fd 32) 32 n)
        (((List.range steps).map (fun st => (List.range 64).map (fun m =>
          (planeElem f.dataA (st * planeStride fa 32) fa 32 k m,
           planeElem f.dataB ((st * nbr + b) * planeStride fd 32) fd 32 n m)))).flatten))

/-- One branch of an XDFIN cell (R178): y, the tap, and flags. -/
def dfinBranch (x : Xn) (curve : BitVec 8320) (acc m n : Nat) (tap : Bool) : FVal × Nat × Flags :=
  let (sp, f1) := if x.lost acc m n then (extreme 0 (decide ((x.cell acc m n).x.toInt < 0)), fSAT)
    else roundTo 0 0 (x.readCell acc m n)
  let sv := (ffmt 0).decode sp
  let (g, f2) := tabEval curve 0 false sv
  let (p, i) := mulNum g (tabGain curve)
  let (y, f3) := roundTo 0 0 p
  let (gd, f4) := tabEval curve 0 true sv
  let (q, j) := mulNum gd (tabGain curve)
  let (t, f5) := roundTo 0 0 q
  ((ffmt 0).decode y, t, f1 ||| f2 ||| f3 ||| flagIf i fINV ||| (if tap then f4 ||| f5 ||| flagIf j fINV else 0))

/-- What a branch of an XDFIN gives at a cell of its plane. -/
def State.dfinAt (s : State) (d r sl : Nat) (t : BitVec 8320) (lb : BitVec 2) (tap : Bool) (b m n : Nat) : FVal × Nat × Flags :=
  dfinBranch (s.xn d r sl) ((tget none (s.die d).act.curves (curveKey r sl (mapCurve t b))).getD 0)
    (planeAt lb b).1 m ((planeAt lb b).2 + n) tap

/-- The taps that an XDFIN writes (R178, R371). -/
def State.xdfinTaps (s : State) (d r sl : Nat) (map : Nat) (lb : BitVec 2) : List Byte :=
  match tget none (s.die d).act.maps (mapKey r sl map) with
  | none => []
  | some t => packBytes 32 (((List.range (branches lb)).map (fun b =>
      (grid 32 (planeCols lb)).map (fun (e : Nat × Nat) => (s.dfinAt d r sl t lb true b e.1 e.2).2.1))).flatten)

/-- XDFIN, when it completes (R178, R371). -/
def State.xdfinEffect (s : State) (d r sl : Nat) (map lb : Nat) (anch : Byte) (tap : Bool) : Xn :=
  let x := s.xn d r sl
  let lbv := BitVec.ofNat 2 lb
  let nb : Nat := planeCols lbv
  match tget none (s.die d).act.maps (mapKey r sl map) with
  | none => x
  | some t =>
    let one (b m n : Nat) : FVal × Nat × Flags := s.dfinAt d r sl t lbv tap b m n
    let sums : List ((Nat × Nat) × (Cell × Flags × Bool)) := (grid 32 nb).map (fun (e : Nat × Nat) =>
      (e, (List.range (branches lbv)).foldl (fun (k : Cell × Flags × Bool) b =>
      let (y, _, fl) := one b e.1 e.2
      let z := k.1.addVal (anchInt anch) y false
      (z.1, k.2.1 ||| fl ||| flagIf z.2.1 fINV ||| flagIf z.2.2 fOVF, k.2.2 || z.2.2)) (({} : Cell), (0 : Flags), false)))
    let x' := { x with acc := x.acc.filter (fun e => e.1 / 1024 != 0), anch := tset 0 x.anch 0 anch }
    let x' := sums.foldl (fun (x : Xn) (e : (Nat × Nat) × (Cell × Flags × Bool)) =>
      (x.setCell 0 e.1.1 e.1.2 e.2.1).flag e.2.2.1) x'
    x'.setOvf 0 (sums.any (fun (e : (Nat × Nat) × (Cell × Flags × Bool)) => e.2.2.2))

/-- The tile that an XTRQ writes for the tile `l` of format `fa`, and its flags (R83, R377). -/
def xtrqOut (fa : Nat) (l : List Byte) : List Byte × Flags :=
  let old (i : Nat) : Nat := sliceNat l (1024 + i) 1
  let el (i j : Nat) : FVal × Bool := decodeBlock fa (sliceNat l (32 * i + j) 1) (old i) 0
  let rows : List (List (Nat × Flags) × Nat × Flags) := (List.range 32).map (fun i =>
    let v := (List.range 32).map (fun j => el j i)
    let (bad, a) := absMax (v.map (·.1))
    let (sc, f0) := blockScale fa bad a
    let q := e8m0 sc
    let es := v.map (fun e =>
      let (y, g) := match q with
        | none => nanOf (blockElem fa)
        | some q => roundElem fa 0 (mulNum e.1 (.fin (1 / q))).1
      (y, g ||| flagIf e.2 fINV))
    (es, sc, es.foldl (fun k e => k ||| e.2) f0))
  (packBytes 8 ((rows.map (fun e => e.1.map (·.1))).flatten ++ rows.map (·.2.1)),
    rows.foldl (fun k e => k ||| e.2.2) 0 &&& (fSAT ||| fINV))

/-- XTRQ, when it completes (R83, R377). The last beat holds the scales of rows 0 to 31 in its low half; the spec gives no
other bytes. -/
def State.xtrqEffect (s : State) (d r sl : Nat) (f : XFlight) : State :=
  let (bytes, fl) := xtrqOut (s.xfa d r sl) f.dataA
  let (c, s) := s.free
  let x := s.xn d r sl
  let high := (Config.freeWord c ++ Config.freeWord (c + 1) ++ Config.freeWord (c + 2) ++ Config.freeWord (c + 3) : BitVec 256)
  { s.setXn d r sl { x.flag fl with latch := high ++ BitVec.ofNat 256 (leNat (bytes.drop 1024)) } with freeCtr := c + 4 }

/-- The spill image of an accumulator (R173). -/
def Xn.image (x : Xn) (acc : Nat) : List Byte :=
  let cells := (grid 32 32).map (fun e => x.cell acc e.1 e.2)
  (cells.map (fun c => leBytes 16 c.x.toNat)).flatten ++ packBytes 2 (cells.map (fun c => c.st.toNat)) ++
    [x.anchor acc, if x.ovfBit acc then 1 else 0] ++ List.replicate 62 0

/-- XSTA: from its completion on, the copy stage holds the image (R373). -/
def State.xstaEffect (s : State) (d r sl : Nat) (f : XFlight) (acc : Nat) : Xn :=
  let x := s.xn d r sl
  { x with flight := x.flight.map (fun g => if g = f then { f with out := x.image acc } else g) }

/-- XLDA (R373). -/
def State.xldaEffect (s : State) (d r sl : Nat) (f : XFlight) (acc : Nat) (dside : BitVec 1) : Xn :=
  let l := if dside = 1 then f.dataB else f.dataA
  let x := s.xn d r sl
  let x := (grid 32 32).foldl (fun x e =>
    let i := 32 * e.1 + e.2
    x.setCell acc e.1 e.2 ⟨BitVec.ofNat 128 (sliceNat l (16 * i) 16),
      BitVec.ofNat 2 (sliceNat l (16384 + i / 4) 1 / 4 ^ (i % 4))⟩) x
  ({ x with anch := tset 0 x.anch acc (BitVec.ofNat 8 (sliceNat l 16640 1)) }).setOvf acc (sliceNat l 16641 1 % 2 == 1)

/-- What an operation does when it completes. -/
def State.xnEffect (s : State) (d r sl : Nat) (f : XFlight) : State :=
  match xnInstr f.entry with
  | some (.xmm acc _ _ _ k a) => s.setXn d r sl (s.xmmEffect d r sl f acc.toNat k.toNat a)
  | some (.xclr acc _ a) => s.setXn d r sl ((s.xn d r sl).clear acc.toNat a)
  | some (.xwb acc _ _ _ k sfmt clip scale _) => s.setXn d r sl (s.xwbEffect d r sl f acc.toNat k.toNat sfmt clip scale)
  | some (.xdnd _ _ _ k a m lb) => s.setXn d r sl (s.xdndEffect d r sl f m.toNat lb.toNat k.toNat a)
  | some (.xdfin _ _ a m lb tap) => s.setXn d r sl (s.xdfinEffect d r sl m.toNat lb.toNat a (tap == 1))
  | some (.xdbx _ _ _ k a m lb) => s.setXn d r sl (s.xdbxEffect d r sl f m.toNat lb.toNat k.toNat a)
  | some (.xdbw _ _ _ k a m lb) => s.setXn d r sl (s.xdbwEffect d r sl f m.toNat lb.toNat k.toNat a)
  | some (.xtrq _ _) => s.xtrqEffect d r sl f
  | some (.xsta acc _ _ _ _) => s.setXn d r sl (s.xstaEffect d r sl f acc.toNat)
  | some (.xlda acc _ _ _ dside) => s.setXn d r sl (s.xldaEffect d r sl f acc.toNat dside)
  | _ => s

/-! ### The cycles of an operation in flight (R173) -/

/-- Bytes of the west and of the east operand that one K step of an array operation takes (R171, R177, R179). -/
def stepBytes (fa fd : Nat) (i : Instr) : Option (Nat × Nat) :=
  match i with
  | .xmm _ _ _ _ _ _ => some (planeStride fa 32, planeStride fd 32)
  | .xdnd _ _ _ _ _ _ lb => some (planeStride fa 32, planeStride fd (planeCols lb))
  | .xdbx _ _ _ _ _ _ lb => some (branches lb * planeStride fa 32, planeStride fd 32)
  | .xdbw _ _ _ _ _ _ lb => some (planeStride fa 32, branches lb * planeStride fd 32)
  | _ => none

/-- K steps of an entry; 1 where it has none. -/
def kSteps (i : Instr) : Nat :=
  match i with
  | .xmm _ _ _ _ k _ => max k.toNat 1
  | .xdnd _ _ _ k _ _ _ => max k.toNat 1
  | .xdbx _ _ _ k _ _ _ => max k.toNat 1
  | .xdbw _ _ _ k _ _ _ => max k.toNat 1
  | _ => 1

/-- What an operation has read after this cycle: a beat of 64 B of a buffer that it reads in a run, or the planes of a K
step whose last cycle this is (the tile pattern within a step is not given: log 17). -/
def State.xnTake (s : State) (d r sl : Nat) (f : XFlight) : XFlight :=
  let gone := f.total - f.busy
  let rd (east : Bool) (o n : Nat) : List Byte := s.bytes (sramKey d r (nodeOfSlot (mnOfXn sl east)) o) n
  match xnInstr f.entry with
  | none => f
  | some i =>
    match stepBytes (s.xfa d r sl) (s.xfd d r sl) i with
    | some (na, nb) =>
      let len := f.total / kSteps i
      let t := gone / max len 1
      if (gone + 1) % max len 1 = 0 ∧ gone < f.total then
        { f with dataA := f.dataA ++ rd false (f.baseA + t * na) na, dataB := f.dataB ++ rd true (f.baseB + t * nb) nb }
      else f
    | none => f.ports.foldl (fun f p =>
        match p.base with
        | some o =>
          if p.write ∨ gone < p.first ∨ p.last < gone then f
          else if p.east then { f with dataB := f.dataB ++ rd true (o + 64 * gone) 64 }
          else { f with dataA := f.dataA ++ rd false (o + 64 * gone) 64 }
        | none => f) f

/-- The bytes that an operation of the output unit writes, as they stand in the cycle of its first beat; XSTA's are formed
when it completes. XTRQ writes its first beats before R173 has it read the last of its tile: the rest is taken as it stands
(DEDUCED, log 17). -/
def State.xnForm (s : State) (d r sl : Nat) (f : XFlight) : List Byte :=
  match xnInstr f.entry with
  | some (.xwb acc _ _ _ k sfmt clip scale _) => (s.xwbOut d r sl f acc.toNat k.toNat sfmt clip scale).1
  | some (.xdfin _ _ _ m lb _) => s.xdfinTaps d r sl m.toNat lb
  | some (.xtrq _ _) =>
    let n := f.dataA.length
    (xtrqOut (s.xfa d r sl) (f.dataA ++ s.bytes (sramKey d r (nodeOfSlot (mnOfXn sl false)) (f.baseA + n)) (1056 - n))).1
  | _ => f.out

/-- The port through which an operation writes in this cycle (R173). -/
def XFlight.writePort (f : XFlight) : Option XPort :=
  f.ports.find? (fun p => p.write && decide (p.first ≤ f.total - f.busy ∧ f.total - f.busy ≤ p.last))

/-- The bytes to write are formed with the first beat. -/
def State.xnFormed (s : State) (d r sl : Nat) (f : XFlight) : XFlight :=
  match f.writePort with
  | some p => if f.total - f.busy = p.first then { f with out := s.xnForm d r sl f } else f
  | none => f

/-- The beat that is due is written: it arrives in the cycle that ends, `t` (R173, R159). -/
def State.xnBeat (s : State) (d r sl t : Nat) (f : XFlight) : State :=
  match f.writePort with
  | some p =>
    let o := 64 * (f.total - f.busy - p.first)
    s.nodeStore d r (nodeOfSlot (mnOfXn sl p.east)) (f.baseD + o) ((f.out.drop o).take 64) t
  | none => s

/-- The operations in flight of an XN go through one cycle; a region's entry stands with its region, a command does not
(R37, R173, R175). Applied operations leave when their unit and ports are free. -/
def State.xnCycle (s : State) (d r sl : Nat) (moving stopped : Bool) : State :=
  let stands (f : XFlight) : Bool := stopped || (!moving && f.cmd.isNone)
  let x := s.xn d r sl
  let s := s.setXn d r sl { x with flight := x.flight.map (fun f => if stands f then f else s.xnFormed d r sl f) }
  let s := (s.xn d r sl).flight.foldl (fun s f => if stands f then s else s.xnBeat d r sl (s.cycle - 1) f) s
  let x := s.xn d r sl
  let go (f : XFlight) : XFlight := if stands f then f
    else
      let f := s.xnTake d r sl f
      { f with left := f.left - 1, busy := f.busy - 1 }
  s.setXn d r sl { x with flight := (x.flight.map go).filter (fun f => !(f.applied && f.busy == 0)) }

/-! ### Firing (R170, R181, R367) -/

/-- A buffer an entry names: its node offset, or ACCESS for a shelf that is not valid. -/
def State.xnBuf (s : State) (d r sl : Nat) (e : Bool × Nat) (write : Bool) : Option (Nat × Nat) :=
  let mn := mnOfXn sl e.1
  let w := s.shelf d r mn e.2
  let b := s.buf d r mn e.2
  if shValid w then
    let o := bufBase w (if write then b.prod w else b.cons w)
    some (o, min (shBytes w) (nodeSize (s.die d).g2 - o))
  else none

/-- Bytes an entry reads and writes from the start of each named buffer: (side, shelf, write, length). -/
def State.xnSpans (s : State) (d r sl : Nat) (i : Instr) : List (Bool × Nat × Bool × Nat) :=
  let fa := s.xfa d r sl
  let fd := s.xfd d r sl
  let side (dside : BitVec 1) (a b : BitVec 8) (wr : Bool) (n : Nat) := ((sideOf dside a b).1, (sideOf dside a b).2, wr, n)
  match i with
  | .xmm _ _ a b k _ => [(false, a.toNat, false, k.toNat * planeStride fa 32), (true, b.toNat, false, k.toNat * planeStride fd 32)]
  | .xdnd _ a b k _ _ lb =>
    [(false, a.toNat, false, k.toNat * planeStride fa 32), (true, b.toNat, false, k.toNat * planeStride fd (planeCols lb))]
  | .xdbx _ a b k _ _ lb =>
    [(false, a.toNat, false, k.toNat * branches lb * planeStride fa 32), (true, b.toNat, false, k.toNat * planeStride fd 32)]
  | .xdbw _ a b k _ _ lb =>
    [(false, a.toNat, false, k.toNat * planeStride fa 32), (true, b.toNat, false, k.toNat * branches lb * planeStride fd 32)]
  | .xwb _ _ a b k _ clip scale dside =>
    (if clip = 1 ∨ scale = 1 then [(dside == 0, 0, false, 12)] else []) ++ [side dside a b true (128 * laneWidth k.toNat)]
  | .xdfin _ a _ _ lb tap => if tap = 1 then [(false, a.toNat, true, 128 * branches lb * planeCols lb)] else []
  | .xtrq a b => [(false, a.toNat, false, 1056), (true, b.toNat, true, 1056)]
  | .xsta _ _ a b dside => [side dside a b true 16704]
  | .xlda _ _ a b dside => [side dside a b false 16704]
  | _ => []

/-- The parts of those spans that an entry touches: of gradient planes, only those of the branches that its granules name
(R179). -/
def State.xnTouches (s : State) (d r sl : Nat) (i : Instr) : List (Bool × Nat × Bool × Nat × Nat) :=
  let named : List Nat := match tget none (s.die d).act.maps (mapKey r sl (xnMap i)) with
    | some t => mapSpan t (s.xn d r sl).gc.toNat 4
    | none => []
  let planes (east : Bool) (sh : BitVec 8) (k : BitVec 8) (lb : BitVec 2) (ps : Nat) : List (Bool × Nat × Bool × Nat × Nat) :=
    (List.range k.toNat).flatMap (fun st => named.map (fun b => (east, sh.toNat, false, (st * branches lb + b) * ps, ps)))
  match i with
  | .xdbx _ a b k _ _ lb =>
    planes false a k lb (planeStride (s.xfa d r sl) 32) ++ [(true, b.toNat, false, 0, k.toNat * planeStride (s.xfd d r sl) 32)]
  | .xdbw _ a b k _ _ lb =>
    (false, a.toNat, false, 0, k.toNat * planeStride (s.xfa d r sl) 32) :: planes true b k lb (planeStride (s.xfd d r sl) 32)
  | _ => (s.xnSpans d r sl i).map (fun e => (e.1, e.2.1, e.2.2.1, 0, e.2.2.2))

/-- A format or profile that makes the entry ILL (R120, R169, R367). -/
def State.xnIllegal (s : State) (d r sl : Nat) (i : Instr) : Bool :=
  let fa := s.xfa d r sl
  let g2 := (s.die d).g2
  match i with
  | .xnop => false
  | .xclr _ _ _ => false
  | .xdnd _ _ _ _ _ _ _ => g2 || !pairOk fa (s.xfd d r sl)
  | .xdfin _ _ _ _ _ _ => g2 || !pairOk fa (s.xfd d r sl)
  | .xdbx _ _ _ _ _ _ _ => g2 || !pairOk fa (s.xfd d r sl)
  | .xdbw _ _ _ _ _ _ _ => g2 || !pairOk fa (s.xfd d r sl)
  | .xtrq _ _ => g2 || !pairOk fa (s.xfd d r sl) || !(fa == 12 || fa == 13)
  | _ => !pairOk fa (s.xfd d r sl)

/-- An anchor mismatch of an entry (R122, R177). -/
def Xn.anchorBad (x : Xn) (i : Instr) : Bool :=
  match i with
  | .xmm acc _ _ _ _ a => x.anchor acc.toNat != a
  | .xdnd _ _ _ _ a _ lb => (List.range (branches lb)).any (fun b => x.anchor (planeAt lb b).1 != a)
  | .xdbx _ _ _ _ a _ _ => x.anchor 0 != a
  | .xdbw _ _ _ _ a _ _ => x.anchor 0 != a
  | _ => false

/-- Granules an entry uses, and its branch count, when it is dendritic with a map check. -/
def granulesOf (i : Instr) : Option (Nat × BitVec 2) :=
  match i with
  | .xdnd _ _ _ k _ _ lb => some (8 * k.toNat, lb)
  | .xdbx _ _ _ _ _ _ lb => some (4, lb)
  | .xdbw _ _ _ _ _ _ lb => some (4, lb)
  | _ => none

/-- TABLE and SCHED of the map, then TABLE of a curve (R181 causes 4 to 6). -/
def State.mapFault (s : State) (d r sl : Nat) (i : Instr) (word : Word) : Option NFault :=
  let act := (s.die d).act
  let map := tget none act.maps (mapKey r sl (xnMap i))
  let bad (m : Nat) : Option NFault := some ⟨tTABLE, BitVec.ofNat 64 m, 0, 0⟩
  match i, granulesOf i with
  | .xdfin _ _ _ m lb _, _ =>
    match map with
    | none => bad m.toNat
    | some t => (List.range (branches lb)).findSome? (fun b =>
        if (tget none act.curves (curveKey r sl (mapCurve t b))).isNone then bad (mapCurve t b) else none)
  | _, some (n, lb) =>
    match map with
    | none => bad (xnMap i)
    | some t =>
      let gc := (s.xn d r sl).gc.toNat
      if mapGranules t < gc + n ∨ (mapSpan t gc n).any (fun b => decide (branches lb ≤ b)) then some ⟨tSCHED, word, 0, word⟩
      else none
  | _, none => none

/-- The parameter words of an XWB: scale, lo, hi (R122). -/
def State.xwbPar (s : State) (d r sl : Nat) (i : Instr) : List (BitVec 32) :=
  match i with
  | .xwb _ _ _ _ _ _ clip scale dside =>
    if clip = 1 ∨ scale = 1 then
      match s.xnBuf d r sl (dside == 0, 0) false with
      | some (o, _) =>
        let k := sramKey d r (nodeOfSlot (mnOfXn sl (dside == 0))) o
        (List.range 3).map (fun j => BitVec.ofNat 32 (leNat (s.bytes (k + 4 * j) 4)))
      | none => []
    else []
  | _ => []

/-- A bound an XWB refuses: the first bad word (R80, R379). -/
def xwbBounds (i : Instr) (l : List (BitVec 32)) : Option (BitVec 32) :=
  match i with
  | .xwb _ _ _ _ k _ clip _ _ =>
    if clip = 0 then none
    else
      let w (n : Nat) : BitVec 32 := (l[n]?).getD 0
      let v (n : Nat) : FVal := (ffmt 0).decode (w n).toNat
      let rep (n : Nat) : Bool := !(v n).isNan && eqNum (decodeScalar k.toNat (roundTo k.toNat 0 (v n)).1).1 (v n)
      if !rep 1 then some (w 1) else if !rep 2 then some (w 2) else if ltNum (v 2) (v 1) then some (w 1) else none
  | _ => none

/-- The first fault of an entry at firing, in the order of R181. -/
def State.xnFaultOf (s : State) (d r sl : Nat) (i : Instr) (word : Word) : Option NFault :=
  let spans := s.xnSpans d r sl i
  if s.xnIllegal d r sl i then some ⟨tILL, word, 0, 0⟩
  else if spans.any (fun e => (s.xnBuf d r sl (e.1, e.2.1) e.2.2.1).isNone) then some ⟨tACCESS, 0, 0, 0⟩
  else if (s.xn d r sl).anchorBad i then some ⟨tSCHED, word, 0, word⟩
  else match s.mapFault d r sl i word with
    | some e => some e
    | none =>
      match spans.findSome? (fun e => match s.xnBuf d r sl (e.1, e.2.1) e.2.2.1 with
          | some (o, n) => if n < e.2.2.2 then some (accessAt (o + n)) else none
          | none => none) with
      | some e => some e
      | none => match xwbBounds i (s.xwbPar d r sl i) with
        | some w => some ⟨tSCHED, w.setWidth 64, 0, w.setWidth 64⟩
        | none => (s.xnTouches d r sl i).findSome? (fun e => match s.xnBuf d r sl (e.1, e.2.1) e.2.2.1 with
          | some (o, _) =>
            let node := nodeOfSlot (mnOfXn sl e.1)
            let o := o + e.2.2.2.1
            if s.inShadow d r node o e.2.2.2.2 then some (accessAt o)
            else if !e.2.2.1 && s.poisoned (sramKey d r node o) e.2.2.2.2 then
              some ⟨tECC, BitVec.ofNat 64 o, BitVec.ofNat 64 o, 0⟩
            else none
          | none => none)

/-- The start of an operation: its buffers, parameters and GC are fixed, and it occupies its unit and ports. -/
def State.xnStart (s : State) (d r sl : Nat) (i : Instr) (word : Word) (j : Nat) (expect : Byte) (rc : Nat)
    (cmd : Option Word) (cn : Nat := 0) : State :=
  let n := s.xnNeeds d r sl i
  let x := s.xn d r sl
  let base (east write : Bool) : Option Nat :=
    (s.xnSpans d r sl i).findSome? (fun e =>
      if e.1 == east && e.2.2.1 == write then (s.xnBuf d r sl (e.1, e.2.1) write).map (·.1) else none)
  let dst : Nat := ((base false true).or (base true true)).getD 0
  let ports := n.ports.map (fun p => if n.unit = 1 then p else { p with base := base p.east p.write })
  let f : XFlight := ⟨word, j, expect, rc, n.busy, n.left, n.busy, cmd, (base false false).getD 0, (base true false).getD 0,
    dst, x.gc.toNat, false, s.xwbPar d r sl i, n.unit, ports, [], [], [], cn⟩
  let g := match granulesOf i with
    | some (k, _) => x.gc + BitVec.ofNat 12 k
    | none => x.gc
  s.setXn d r sl { x with gc := g, flight := x.flight ++ [f] }

/-- The slot of an XN in this cycle: its context, and whether an admitted instance has its index (R170). -/
def State.xnSlot (s : State) : Option (RowCtx × Bool) :=
  let (d, r, sl) := s.cur
  match (s.die d).act.regionAt r with
  | none => none
  | some (n, desc) =>
    let x := s.region d n
    if !x.live || x.ringStopped r then none
    else match s.rowIn d r sl n desc x with
      | some c => some (c, true)
      | none =>
        let mc := x.mc desc
        let w := x.wrap desc
        if mc = 0 ∧ isXn sl then some (⟨d, r, sl, n, x.rc, 0, w, w % 32, 0, 0, 0⟩, false) else none

/-- An XN raises a fault at an entry. -/
def State.xnRaise (s : State) (c : RowCtx) (e : NFault) : State :=
  s.raiseFault c.d c.reg c.r c.sl 2 e.code c.idx c.stage e.val e.faddr e.detail

/-- VERSION's value: V and EV (R231, R233). -/
def versionWord (v ev : Byte) : Word := BitVec.ofNat 64 (v.toNat + ev.toNat * 2 ^ 8)

/-- How far the expected version of an entry is ahead of its accumulator's; 0 for an entry without one (R174). -/
def State.entryGap (s : State) (c : RowCtx) (word : Word) : Nat :=
  let x := s.xn c.d c.r c.sl
  match xnAccOf (s.die c.d).g2 word with
  | some a => versionGap (tget 0 x.ev c.idx) (x.ver a)
  | none => 0

/-- The freeze cause of an XN entry that is not nullified: a version not yet reached, a buffer, a unit or a port. An illegal
word waits for its version alone, one with a reserved opcode for nothing. -/
def State.xnCause (s : State) (c : RowCtx) (word : Word) : Bool :=
  let gap := s.entryGap c word
  decide (1 ≤ gap ∧ gap ≤ 127) || (gap == 0 && !((s.die c.d).g2 && g2Reserved word) && match xnInstr word with
    | none => false
    | some .xnop => false
    | some i => s.xnShelfWaits c.d c.r c.sl i || s.xnBusy c.d c.r c.sl i)

/-- The expected version of an entry moves on, where it has one. -/
def State.xnMoveOn (s : State) (c : RowCtx) (word : Word) : State :=
  match xnAccOf (s.die c.d).g2 word with
  | some a => s.setXn c.d c.r c.sl ((s.xn c.d c.r c.sl).nextEv (s.die c.d).g2 ((s.die c.d).act.xnCfg c.r c.sl) c.idx a)
  | none => s

/-- The slot occurrence of an entry (R174): nullified, it only makes its null completion; VERSION and the freeze are decided
before `fire`. -/
def State.xnOccurrence (s : State) (c : RowCtx) (served : Bool) (word : Word) (fire : State) : State :=
  let x := s.xn c.d c.r c.sl
  let ev := tget 0 x.ev c.idx
  if !served then
    match xnAccOf (s.die c.d).g2 word with
    | some a => (s.setXn c.d c.r c.sl (x.nullDone a ev)).xnMoveOn c word
    | none => s
  else if 128 ≤ s.entryGap c word then
    let v := versionWord (x.ver ((xnAccOf (s.die c.d).g2 word).getD 0)) ev
    s.xnRaise c ⟨tVERSION, v, 0, v⟩
  else if s.xnCause c word then s.freeze c.d c.reg c.r c.sl false
  else fire

/-- The word of the entry in whose slot the XN stands. -/
def State.xnWord (s : State) (c : RowCtx) : Word := tget 0 ((s.die c.d).act.xnCfg c.r c.sl).rows c.idx

/-- The meaning of an XN entry at its slot (R174, R367). -/
def xnFire (s : State) (i : Instr) : Out :=
  match s.xnSlot with
  | none => .next s
  | some (c, served) =>
    let word := s.xnWord c
    .next (s.xnOccurrence c served word (match s.xnFaultOf c.d c.r c.sl i word with
      | some e => s.xnRaise c e
      | none => (s.xnStart c.d c.r c.sl i word c.idx (tget 0 (s.xn c.d c.r c.sl).ev c.idx) c.rc none).xnMoveOn c word))

/-- A word that is no entry at its slot: ILL when it would fire (R120, R181). -/
def State.xnNoEntry (s : State) (c : RowCtx) (served : Bool) : State :=
  s.xnOccurrence c served (s.xnWord c) (s.xnRaise c ⟨tILL, s.xnWord c, 0, 0⟩)

/-- XNOP (R315). -/
def execXnop (s : State) : Out := .next s

/-- XMM (R374); the products are added at completion. -/
def execXmm (acc : BitVec 2) (ver ash bsh kst anch : BitVec 8) (s : State) : Out := xnFire s (.xmm acc ver ash bsh kst anch)
/-- XCLR (R368). -/
def execXclr (acc : BitVec 2) (ver anch : BitVec 8) (s : State) : Out := xnFire s (.xclr acc ver anch)
/-- XWB (R379). -/
def execXwb (acc : BitVec 2) (ver ash bsh kst : BitVec 8) (sfmt clip scale dside : BitVec 1) (s : State) : Out :=
  xnFire s (.xwb acc ver ash bsh kst sfmt clip scale dside)
/-- XDND (R372). -/
def execXdnd (ver ash bsh kst anch : BitVec 8) (map : BitVec 3) (lb : BitVec 2) (s : State) : Out :=
  xnFire s (.xdnd ver ash bsh kst anch map lb)
/-- XDFIN (R371). -/
def execXdfin (ver ash anch : BitVec 8) (map : BitVec 3) (lb : BitVec 2) (tap : BitVec 1) (s : State) : Out :=
  xnFire s (.xdfin ver ash anch map lb tap)
/-- XDBX (R370). -/
def execXdbx (ver ash bsh kst anch : BitVec 8) (map : BitVec 3) (lb : BitVec 2) (s : State) : Out :=
  xnFire s (.xdbx ver ash bsh kst anch map lb)
/-- XDBW (R370). -/
def execXdbw (ver ash bsh kst anch : BitVec 8) (map : BitVec 3) (lb : BitVec 2) (s : State) : Out :=
  xnFire s (.xdbw ver ash bsh kst anch map lb)
/-- XTRQ (R377). -/
def execXtrq (ash bsh : BitVec 8) (s : State) : Out := xnFire s (.xtrq ash bsh)
/-- XSTA (R373). -/
def execXsta (acc : BitVec 2) (ver ash bsh : BitVec 8) (dside : BitVec 1) (s : State) : Out :=
  xnFire s (.xsta acc ver ash bsh dside)
/-- XLDA (R373). -/
def execXlda (acc : BitVec 2) (ver ash bsh : BitVec 8) (dside : BitVec 1) (s : State) : Out :=
  xnFire s (.xlda acc ver ash bsh dside)

/-! ### Completion (R173, R175, R181) -/

/-- The accumulators that an operation itself has overflowed, from OVF after it; XDFIN sets that of accumulator 0 anew, and
only the operations that add products can set others (R78, R178). -/
def ovfOf (i : Instr) (ovf : BitVec 4) : BitVec 4 :=
  match i with
  | .xmm _ _ _ _ _ _ => ovf
  | .xdnd _ _ _ _ _ _ _ => ovf
  | .xdbx _ _ _ _ _ _ _ => ovf
  | .xdbw _ _ _ _ _ _ _ => ovf
  | .xdfin _ _ _ _ _ _ => ovf &&& 1
  | _ => 0

/-- An operation that only adds to accumulators, and so reads no OVF. -/
def addsOnly (i : Instr) : Bool :=
  match i with
  | .xmm _ _ _ _ _ _ => true
  | .xdnd _ _ _ _ _ _ _ => true
  | .xdbx _ _ _ _ _ _ _ => true
  | .xdbw _ _ _ _ _ _ _ => true
  | _ => false

/-- The flag traps of an XN at completion: OVF with the lowest accumulator that overflowed, FPX otherwise (R181). -/
def State.xnFlagTrap (s : State) (d r sl : Nat) (f : XFlight) (new : Flags) (lost : BitVec 4) : State :=
  let te := teOf ((s.die d).act.xnCfg r sl).fcfg
  let hit := new &&& te
  match (s.die d).act.regionAt r with
  | none => s
  | some (n, _) =>
    let st := (tget 0 ((s.die d).act.xnCfg r sl).stages f.slotj).toNat
    if hit = 0 then s
    else if hit &&& fOVF ≠ 0 ∧ lost ≠ 0 then
      let acc := if lost.getLsbD 0 then 0 else if lost.getLsbD 1 then 1 else if lost.getLsbD 2 then 2 else 3
      s.raiseFault d n r sl 2 tOVF f.slotj st (BitVec.ofNat 64 acc) 0 0
    else s.raiseFault d n r sl 2 tFPX f.slotj st (hit.setWidth 64) 0 0

/-- The flags and overflows of the operation in flight alone: what it sets when it starts from none. -/
def State.xnComplete (s : State) (d r sl k : Nat) : State :=
  match ((s.xn d r sl).flight[k]?) with
  | none => s
  | some f =>
    if f.applied ∨ f.left ≠ 0 then s
    else
      let before := s.xn d r sl
      let i := (xnInstr f.entry).getD .xnop
      let s := s.setXn d r sl { before with flags := 0, ovf := if addsOnly i then 0 else before.ovf }
      let s := s.xnEffect d r sl f
      let new := (s.xn d r sl).flags
      let lost := ovfOf i (s.xn d r sl).ovf
      let x := { s.xn d r sl with
        flags := before.flags ||| new
        ovf := if addsOnly i then before.ovf ||| (s.xn d r sl).ovf else (s.xn d r sl).ovf }
      let x := { x with flight :=
        if f.busy = 0 then x.flight.eraseIdx k
        else x.flight.set k { (x.flight[k]?).getD f with applied := true } }
      let x := match xnAccOf (s.die d).g2 f.entry with
        | some a => x.advance a f.expect
        | none => x
      let s := s.setXn d r sl x
      let s := match f.cmd with
        | some w =>
          if w.getLsbD 25 then
            s.setCore d { s.core d with slots := (s.core d).slots ||| (1#8 <<< bitsOf w 22 3) }
          else s
        | none => s
      s.xnFlagTrap d r sl f new lost

/-- XN_COMPLETION (R173). -/
def execXnCompletion (die ring slot k : Nat) (s : State) : Out := .next (s.xnComplete die ring slot k)

/-- The region of a ring has no tile task in progress, or runs idle wraps (R175). -/
def State.regionIdle (s : State) (d n : Nat) (desc : Word) : Bool :=
  let x := s.region d n
  let w := x.wrap desc
  !x.run || x.hold || x.tasks.all (fun t => decide (t.1 + t.2 + rNS desc ≤ w + 1))

/-- The head command of an XN meets the conditions of R175, and no operation holds its unit or ports: the command, and
whether its version has passed. -/
def State.xnHead (s : State) (d r sl : Nat) : Option (Word × Word × Instr × Bool) :=
  let x := s.xn d r sl
  match x.cmds, (s.die d).act.regionAt r with
  | (dsc, word) :: _, some (n, desc) =>
    match xnInstr word with
    | none => none
    | some i =>
      let mask := bitsOf dsc 14 8
      let slots := (s.core d).slots.toNat
      let ver : Byte := BitVec.ofNat 8 (bitsOf word 48 8)
      let gap := match xnAcc i with
        | some a => versionGap ver (x.ver a)
        | none => 0
      if mask &&& slots ≠ mask ∨ !s.regionIdle d n desc ∨ (s.region d n).halted ∨ (s.region d n).fstop.isSome then none
      else if 128 ≤ gap then some (dsc, word, i, true)
      else if gap ≠ 0 ∨ s.xnBusy d r sl i then none
      else some (dsc, word, i, false)
  | _, _ => none

/-- The head command would start, but a buffer it names is empty to read or full to write: it acts like the entry and
freezes its region (R38, R367). -/
def State.headBlocked (s : State) (d r sl : Nat) : Bool :=
  match s.xnHead d r sl with
  | some (_, _, i, false) => s.xnShelfWaits d r sl i
  | _ => false

/-- The region stands frozen for the command of this XN, which then starts in the cycle in which the freeze ends. -/
def State.headFrozen (s : State) (d n r sl : Nat) : Bool :=
  match (s.region d n).frz with
  | some f => !f.thr && f.ring == r && f.slot == sl
  | none => false

/-- XN_COMMAND_START (R175): VERSION discards the command; the faults of R181 perform nothing. -/
def execXnCommandStart (die ring slot : Nat) (s : State) : Out :=
  match s.xnHead die ring slot, (s.die die).act.regionAt ring with
  | some (dsc, word, i, late), some (n, _) =>
    if !late && (s.headBlocked die ring slot || s.headFrozen die n ring slot) then .next s else
    let x := s.xn die ring slot
    let s := s.setXn die ring slot { x with cmds := x.cmds.tail }
    let ver : Byte := BitVec.ofNat 8 (bitsOf word 48 8)
    let raise (e : NFault) : State := s.raiseFault die n ring slot 2 e.code 0 0 e.val e.faddr e.detail
    if late then
      let v := versionWord (x.ver ((xnAcc i).getD 0)) ver
      .next (raise ⟨tVERSION, v, 0, v⟩)
    else match s.xnFaultOf die ring slot i word with
      | some e => .next (raise e)
      | none => .next (s.xnStart die ring slot i word 0 ver ((s.region die n).rc) (some dsc) (x.ncmd - x.cmds.length))
  | _, _ => .next s

end Sys2Proof.Machine
end

