-- ==== Sys2Proof/Machine/Fabric.lean ====
section
/-! DEFINITION. The control fabric of a die: controller and lookup-table cells (R33 to R35), tile tasks (R27), freezes and
their ends (R37 to R39), drives and results becoming visible (R54, R55), the fault stop (R229, R230). -/

namespace Sys2Proof.Machine

/-! ### Controller cells -/

def cellKind (w0 : Word) : Nat := bitsOf w0 62 2
def cellParent (w0 : Word) : Nat := bitsOf w0 56 6
def cellWindow (w0 : Word) : Nat := bitsOf w0 48 8
def cellChildren (w0 : Word) : Nat := bitsOf w0 45 3 + 1
def cellLut (w0 : Word) : Nat := bitsOf w0 39 6
def cellGated (w0 : Word) : Bool := w0.getLsbD 38
def cellCountReg (w0 : Word) : Bool := w0.getLsbD 37
def cellCount (w0 : Word) : Nat := bitsOf w0 0 32
def childIsRegion (w1 : Word) (k : Nat) : Bool := w1.getLsbD (8 * k + 7)
def childIdx (w1 : Word) (k : Nat) : Nat := bitsOf w1 (8 * k) 6

def Die.cell (x : Die) (c : Nat) : Word × Word := tget (0, 0) x.act.cells c
def Die.cellRun (x : Die) (c : Nat) : CellRun := tget {} x.cellRuns c
def Die.setCellRun (x : Die) (c : Nat) (r : CellRun) : Die := { x with cellRuns := tset {} x.cellRuns c r }
def Die.reg (x : Die) (n : Nat) : Region := tget {} x.regs n
def Die.setReg (x : Die) (n : Nat) (r : Region) : Die := { x with regs := tset {} x.regs n r }

/-- The child of a cell that is region or cell `idx`. -/
def Die.childOf (x : Die) (c : Nat) (isReg : Bool) (idx : Nat) : Option Nat :=
  let (w0, w1) := x.cell c
  (List.range (cellChildren w0)).find? (fun k => childIsRegion w1 k == isReg && childIdx w1 k == idx)

/-- The cell that names a region as its child, and which child (R33: at most one). -/
def Die.regionParent (x : Die) (n : Nat) : Option (Nat × Nat) :=
  x.act.cells.findSome? (fun e => if cellKind e.2.1 = 0 then none else (x.childOf e.1 true n).map (fun k => (e.1, k)))

/-- The cells of the tree under a cell, the cell first. -/
def Die.treeCells (x : Die) : Nat → Nat → List Nat
  | 0, _ => []
  | fuel + 1, c =>
    let (w0, w1) := x.cell c
    c :: ((List.range (cellChildren w0)).map (fun k =>
      if childIsRegion w1 k then [] else x.treeCells fuel (childIdx w1 k))).flatten

/-- The regions of the tree under a cell. -/
def Die.treeRegions (x : Die) (c : Nat) : List Nat :=
  ((x.treeCells 64 c).map (fun k =>
    let (w0, w1) := x.cell k
    ((List.range (cellChildren w0)).filter (childIsRegion w1)).map (childIdx w1))).flatten

/-- The root above a cell. -/
def Die.rootOf (x : Die) : Nat → Nat → Nat
  | 0, c => c
  | fuel + 1, c => if cellParent (x.cell c).1 = c then c else x.rootOf fuel (cellParent (x.cell c).1)

/-- A region belongs to a tree that a GO has started and whose root is not done (R40). -/
def Die.treeRuns (x : Die) (n : Nat) : Bool :=
  match x.regionParent n with
  | none => false
  | some (c, _) => (x.cellRun (x.rootOf 64 c)).active

/-- Child `k` of a cell completes one task or run; a cell whose children have all completed N is done and tells its
parent (R34). -/
def Die.childDone : Nat → Die → Nat → Nat → Die
  | 0, x, _, _ => x
  | fuel + 1, x, c, k =>
    let (w0, _) := x.cell c
    let r := x.cellRun c
    if !r.active ∨ tget 0 r.started k ≤ tget 0 r.completed k then x
    else
      let comp := tset 0 r.completed k (tget 0 r.completed k + 1)
      let least := (List.range (cellChildren w0)).foldl (fun m j => min m (tget 0 comp j)) r.n
      let r := { r with completed := comp, iter := least }
      if least = r.n then
        let x := x.setCellRun c { r with active := false, done := true }
        let p := cellParent w0
        if p = c then x
        else match x.childOf p false c with
          | some j => Die.childDone fuel x p j
          | none => x
      else x.setCellRun c r

/-- A cell starts: with N = 0 it is done in the same cycle (R34). -/
def Die.startCell (x : Die) (c : Nat) : Die :=
  let (w0, _) := x.cell c
  let n := (x.cellRun c).n
  if n = 0 then
    let x := x.setCellRun c { active := false, done := true, n := 0 }
    let p := cellParent w0
    if p = c then x
    else match x.childOf p false c with
      | some j => Die.childDone 64 x p j
      | none => x
  else x.setCellRun c { active := true, done := false, n }

/-- A region's done token (R27, R35). -/
def Die.regionDone (x : Die) (n : Nat) : Die :=
  let x := x.setReg n { x.reg n with done := true }
  match x.regionParent n with
  | none => x
  | some (c, k) => Die.childDone 64 x c k

/-- One input of a lookup-table cell (R35). -/
def Die.lutInput (x : Die) (code : Nat) : Bool :=
  if code < 64 then (x.cellRun code).done
  else if code < 128 then (x.reg (code - 64)).done
  else if code < 136 then x.core.pred (BitVec.ofNat 3 (code - 128))
  else false

/-- The output of a lookup-table cell (R35). -/
def Die.lutOut (x : Die) (n : Nat) : Bool :=
  let w := tget 0 x.act.luts n
  let bit (lo : Nat) : Nat := if x.lutInput (bitsOf w lo 8) then 1 else 0
  w.getLsbD (48 + bit 16 + 2 * bit 24 + 4 * bit 32 + 8 * bit 40)

/-- Cell `c` may start child `k` now (R34, R35). -/
def Die.childReady (x : Die) (c k : Nat) : Bool :=
  let (w0, w1) := x.cell c
  let r := x.cellRun c
  let st (j : Nat) : Nat := tget 0 r.started j
  let co (j : Nat) : Nat := tget 0 r.completed j
  let m := cellChildren w0
  let total (f : Nat → Nat) : Nat := (List.range m).foldl (fun a j => a + f j) 0
  r.active && decide (k < m ∧ st k < r.n) &&
  (match cellKind w0 with
   | 1 => decide (total st = total co ∧ k = total st % m)
   | 2 => decide (k + 1 = m ∨ st k < co (k + 1) + cellWindow w0)
   | 3 => true
   | _ => false) &&
  (if childIsRegion w1 k then decide ((x.reg (childIdx w1 k)).enables = 0) else decide (st k = co k)) &&
  (!cellGated w0 || x.lutOut (cellLut w0))

/-- Start it: a region's next tile task is enabled, a cell runs. -/
def Die.startChild (x : Die) (c k : Nat) : Die :=
  let (_, w1) := x.cell c
  let r := x.cellRun c
  let x := x.setCellRun c { r with started := tset 0 r.started k (tget 0 r.started k + 1) }
  let i := childIdx w1 k
  if childIsRegion w1 k then x.setReg i { x.reg i with enables := (x.reg i).enables + 1 } else x.startCell i

/-! ### Tile tasks (R27) -/

/-- Every admitted instance of the region has run its last epilogue row. -/
def Region.finished (x : Region) (desc : Word) : Bool :=
  x.tasks.all (fun t => decide (t.2 = 0 ∨ t.1 + t.2 + rNS desc ≤ x.wrap desc + 1))

/-- The enabled tile task begins in this cycle. -/
def Region.mayBegin (x : Region) (desc : Word) : Bool :=
  x.live && decide (0 < x.enables ∧ x.mc desc = 0) &&
  x.tasks.all (fun t => decide (t.1 + t.2 ≤ x.wrap desc))

/-- It begins: with T = 0 it only sends its done token. -/
def Die.beginTask (x : Die) (n : Nat) (desc : Word) : Die :=
  let r := x.reg n
  let w := r.wrap desc
  let keep := r.tasks.filter (fun t => decide (w < t.1 + t.2 + rNS desc + 80))
  let r := { r with enables := r.enables - 1, done := false }
  if r.trip = 0 then (x.setReg n { r with tasks := keep }).regionDone n
  else x.setReg n { r with tasks := keep ++ [(w, r.trip)] }

/-! ### Freezes (R37 to R39) -/

/-- The units that a configuration names, ring by ring and slot by slot; in the G2 profile those of rings 40 to 63 and of
slots 32 to 47 do not run (R139). -/
def Bank.unitsOf (b : Bank) (g2 : Bool) (desc : Word) : List (Nat × Nat) :=
  ((List.range (ringsOf g2)).filter (fun r => decide (rFirst desc ≤ r ∧ r ≤ rLast desc))).flatMap (fun r =>
    ((List.range (slotsOf g2)).filter (fun sl =>
      let k := ukey r sl
      b.ce.any (fun e => e.1 == k) || b.mn.any (fun e => e.1 == k) || b.xn.any (fun e => e.1 == k))).map (fun sl => (r, sl)))

/-- The MN and the side of the XN that the operand port of a CE belongs to (R172). -/
def portMn (sl : Nat) : Nat := if sl % 6 = 2 then sl - 1 else sl + 1
def portXn (sl : Nat) : Nat := if sl % 6 = 2 then sl + 1 else sl - 1
def portEast (sl : Nat) : Bool := sl % 6 != 2

/-- The freeze cause of one unit in this cycle (R38). -/
def State.unitCause (s : State) (d n : Nat) (desc : Word) (r sl : Nat) : Bool :=
  let x := s.region d n
  if x.ringStopped r then false
  else if isXn sl && s.headBlocked d r sl then true
  else if isCe sl then
    match tget none (s.die d).xports (ukey r sl) with
    | some _ => s.shelfBlocks d r (portMn sl) 63 true
    | none => false
  else match s.rowIn d r sl n desc x with
    | none => false
    | some c =>
      if isMn sl then match decoded (decodeMn (s.mnEntry c)) with
        | some i => s.mnCause c i
        | none => false
      else s.xnCause c (s.xnWord c)

/-- The unit with a freeze cause in the lowest ring and slot of a region. -/
def State.regionCause (s : State) (d n : Nat) (desc : Word) : Option (Nat × Nat) :=
  let units := (s.die d).act.unitsOf (s.die d).g2 desc ++ ((s.die d).xports.filter (fun e =>
    decide (rFirst desc ≤ e.1 / 48 ∧ e.1 / 48 ≤ rLast desc))).map (fun e => (e.1 / 48, e.1 % 48)) ++
    ((s.die d).xns.filter (fun e => !e.2.cmds.isEmpty &&
      decide (rFirst desc ≤ e.1 / 48 ∧ e.1 / 48 ≤ rLast desc))).map (fun e => (e.1 / 48, e.1 % 48))
  let bad := units.filter (fun e => s.unitCause d n desc e.1 e.2)
  bad.foldl (fun m e => match m with
    | none => some e
    | some p => if e.1 < p.1 ∨ e.1 = p.1 ∧ e.2 < p.2 then some e else some p) none

/-- A region that contains an XN in use is frozen in one global frame of every eight while power or heat demands it; asked
at the frame's first cycle (R21, R22). -/
def State.throttled (s : State) (d : Nat) (desc : Word) : Bool :=
  (s.mgmt.thrPower || s.mgmt.thrHot) && decide (s.cycle / 256 % 8 = Config.throttleFrame % 8) &&
  ((s.die d).act.unitsOf (s.die d).g2 desc).any (fun e => isXn e.2) &&
  ((s.die d).act.xn.any (fun e => decide (rFirst desc ≤ e.1 / 48 ∧ e.1 / 48 ≤ rLast desc) && !e.2.rows.isEmpty) ||
   (s.die d).xns.any (fun e => decide (rFirst desc ≤ e.1 / 48 ∧ e.1 / 48 ≤ rLast desc) && !e.2.flight.isEmpty))

/-- The region executes its rows in this cycle or stands still: its freeze line is formed from the causes before the
cycle, and the units that will execute are listed (R38). -/
def State.issueRegion (s : State) (d n : Nat) (desc : Word) : State × List Turn :=
  let x := s.region d n
  if !x.run ∨ x.hold ∨ x.halted then (s, [])
  else match s.regionCause d n desc with
    | some (r, sl) => (s.freeze d n r sl false, [])
    | none =>
      if x.thr then (s.freeze d n (rFirst desc) 0 true, [])
      else match x.frz with
        | some f => (if f.clear.isNone then s.setRegion d n { x with frz := some { f with clear := some s.cycle } } else s, [])
        | none => (s, ((s.die d).act.unitsOf (s.die d).g2 desc).filterMap (fun e =>
            if isXn e.2 && x.mc desc != 0 then none else some (.unit d e.1 e.2)))

/-- The turn `issue`: every region of the die, each by the causes before the cycle. -/
def State.issueDie (s : State) (d : Nat) : State :=
  let (s', l) := ((s.die d).act.rdesc).foldl (fun (t : State × List Turn) e =>
    match e.2 with
    | none => t
    | some desc =>
      let (u, l) := t.1.issueRegion d e.1 desc
      (u, t.2 ++ l)) (s, [])
  { s' with agenda := l ++ s'.agenda }

/-- A global frame begins: a region takes its throttling for the whole frame. -/
def State.frameThrottle (s : State) (d n : Nat) (desc : Word) : State :=
  if s.cycle % 256 = 0 then s.setRegion d n { s.region d n with thr := s.throttled d desc } else s

/-- The region has faulted with WDOG: its freeze stands while its rings stop (R39). -/
def Region.wdogStands (x : Region) : Bool := match x.fstop with
  | some f => f.code == tWDOG
  | none => false

/-- The end of a freeze: two cycles after its cause cleared (R38); never after WDOG (R39). -/
def Region.mayUnfreeze (x : Region) (now : Nat) : Bool :=
  !x.wdogStands && match x.frz with
  | some f => (match f.clear with
    | some c => decide (c + 2 ≤ now)
    | none => false)
  | none => false

/-- A freeze of 2^26 cycles for a cause other than throttling (R39). -/
def Region.wdogDue (x : Region) (now : Nat) : Bool :=
  match x.frz with
  | some f => !f.thr && decide (f.since + 2 ^ 26 ≤ now) && x.fstop.isNone && f.clear.isNone
  | none => false

/-- WDOG at the unit whose cause is present (R39): ROW is the MC of its held row, for an XN its slot counter. -/
def State.wdogFault (s : State) (d n : Nat) (desc : Word) : State :=
  let x := s.region d n
  match x.frz with
  | none => s
  | some f =>
    let (r, sl) := (s.regionCause d n desc).getD (f.ring, f.slot)
    let mc := x.mc desc
    let w := x.wrap desc
    let (row, st) := ((s.die d).act.rowAt r sl mc w).getD (if isXn sl then w % 32 else mc, 0)
    s.raiseFault d n r sl 8 tWDOG row st 0 0 0

/-! ### Drives and visible results (R54, R55, R118) -/

/-- A value driven on a lane from a slot. -/
def State.driveLane (s : State) (d r ln sl : Nat) (v : Vec) : State :=
  s.setDie d { s.die d with lanes := tset 0 (s.die d).lanes (laneKey r ln sl) v }

/-- ACCESS of a value on an operand port whose shelf 63 is not valid or too small (R172). -/
def State.portFault (s : State) (d r sl : Nat) : Option NFault :=
  let w := s.shelf d r (portMn sl) 63
  let x := s.xn d r (portXn sl)
  let o := 64 * (if portEast sl then x.cursE else x.cursW).toNat
  let b := bufBase w ((s.buf d r (portMn sl) 63).prod w) + o
  if !shValid w then some ⟨tACCESS, 0, 0, 0⟩
  else if shBytes w < o + 64 ∨ nodeSize (s.die d).g2 < b + 64 then
    let a := BitVec.ofNat 64 b
    some ⟨tACCESS, a, a, 0⟩
  else none

/-- A result driven by DIR (R55); a port holds it for this cycle. -/
def State.drive (s : State) (d n r sl row stage dir : Nat) (v : Vec) : State :=
  if dir = 0 then s
  else if dir ≤ 12 then s.driveLane d r (dir - 1) sl v
  else if dir = 13 then s.setDie d { s.die d with wports := tset none (s.die d).wports (ukey r sl) (some v) }
  else match s.portFault d r sl with
    | some e => s.raiseFault d n r sl 0 e.code row stage e.val e.faddr e.detail
    | none => s.setDie d { s.die d with xports := tset none (s.die d).xports (ukey r sl) (some v) }

/-- An effect becomes visible. DESIGN CHOICE (log 23): of two results of one element visible in one cycle, a later guarded one
leaves the earlier one's new value in its unguarded lane elements; R55 says only that the later row wins. -/
def State.applyEff (s : State) (d n : Nat) (p : Pend) : State :=
  let ce := s.ce d p.ring p.slot
  match p.eff with
  | .result v mask dir fpx =>
    let l := merge ce.l v mask
    let s := (s.setCe d p.ring p.slot { ce with l }).drive d n p.ring p.slot p.row p.stage dir l
    if fpx = 0 then s
    else s.raiseFault d n p.ring p.slot 0 tFPX p.row p.stage (fpx.setWidth 64) 0 0
  | .rot i v mask dir =>
    let k := merge (tget 0 ce.k i) v mask
    (s.setCe d p.ring p.slot { ce with k := tset 0 ce.k i k }).drive d n p.ring p.slot p.row p.stage dir k
  | .pred q => s.setCe d p.ring p.slot { ce with p := q }
  | .latch v mask ln =>
    let m := s.mn d p.ring p.slot
    let l := merge m.latch v mask
    let s := s.setMn d p.ring p.slot { m with latch := l }
    if ln = 0 then s else s.driveLane d p.ring (ln - 1) p.slot l
  | .pub sh tag => s.publish d p.ring p.slot sh tag
  | .rel sh => s.release d p.ring p.slot sh

/-- Values of the operand ports of the region's rings are written to shelf 63 (R172). -/
def State.portWrites (s : State) (d n : Nat) (desc : Word) : State :=
  ((s.die d).xports).foldl (fun s e =>
    let r := e.1 / 48
    let sl := e.1 % 48
    match e.2 with
    | none => s
    | some v =>
      if rFirst desc ≤ r ∧ r ≤ rLast desc ∧ !(s.region d n).ringStopped r then
        let w := s.shelf d r (portMn sl) 63
        let b := s.buf d r (portMn sl) 63
        let x := s.xn d r (portXn sl)
        if (s.portFault d r sl).isSome then s
        else
          let o := bufBase w (b.prod w) + 64 * (if portEast sl then x.cursE else x.cursW).toNat
          let s := s.nodeStore d r (nodeOfSlot (portMn sl)) o (leBytes 64 v.toNat)
          let x := s.xn d r (portXn sl)
          s.setXn d r (portXn sl) (if portEast sl then { x with cursE := x.cursE + 1 } else { x with cursW := x.cursW + 1 })
      else s) s

/-- The lanes of some rings move one slot (R54): cw to the next, aw to the previous. -/
def shiftLanes (g2 : Bool) (move : Nat → Bool) (t : Tab Vec) : Tab Vec :=
  let m := slotsOf g2
  t.foldl (fun (u : Tab Vec) e =>
    let ring := e.1 / 576
    let ln := e.1 / 48 % 12
    let sl := e.1 % 48
    let sl' := if !move ring then sl else if ln < 6 then (sl + 1) % m else (sl + m - 1) % m
    tset 0 u (laneKey ring ln sl') e.2) []

/-- The rings of a region that have not stopped. -/
def Region.moves (x : Region) (desc : Word) (ring : Nat) : Bool :=
  decide (rFirst desc ≤ ring ∧ ring ≤ rLast desc) && !x.ringStopped ring

/-- One cycle of a region that is not frozen ends and the next begins (R25, R37, R54, R55): ports are written and emptied,
lanes move, RC counts unless the region holds, and results of the new cycle become visible. -/
def State.tickRegion (s : State) (d n : Nat) (desc : Word) : State :=
  let x := s.region d n
  if !x.run ∨ x.halted ∨ x.frz.isSome then s
  else
    let die := s.die d
    let mv := x.moves desc
    let s := s.setDie d { die with
      lanes := shiftLanes die.g2 mv die.lanes
      wports := die.wports.filter (fun e => !mv (e.1 / 48))
      xports := die.xports.filter (fun e => !mv (e.1 / 48)) }
    let step (p : Pend) : Pend := if mv p.ring then { p with left := p.left - 1 } else p
    let pipe := x.pipe.map step
    let due (p : Pend) : Bool := mv p.ring && p.left == 0
    let s := s.setRegion d n { x with
      rc := if x.hold then x.rc else x.rc + 1
      pipe := pipe.filter (fun p => !due p) }
    (pipe.filter due).foldl (fun s p => s.applyEff d n p) s

/-- GO reaches a region: RC is 0 (R25, R295). -/
def Region.takeGo (x : Region) (now : Nat) : Region :=
  match x.goAt with
  | none => x
  | some g => if g ≤ now then { x with run := true, hold := false, goAt := none, rc := 0, tasks := [] } else x

/-- GO reaches a region: with RC starting again, the stores of its nodes before it are visible (R309). -/
def State.takeGo (s : State) (d n : Nat) (desc : Word) : State :=
  let x := s.region d n
  let s := s.setRegion d n (x.takeGo s.cycle)
  match x.goAt with
  | none => s
  | some g =>
    if g ≤ s.cycle then (s.die d).mns.foldl (fun s e =>
      if rFirst desc ≤ e.1 / 48 ∧ e.1 / 48 ≤ rLast desc then s.setMn d (e.1 / 48) (e.1 % 48) { e.2 with recent := [] } else s) s
    else s

/-! ### The fault stop (R229, R230) -/

/-- The rings of a faulting region that stop by now: ring r stops in wall cycle F + 3 + |r − rf|. -/
def Region.ringsDue (x : Region) (desc : Word) (now : Nat) : List Nat :=
  match x.fstop with
  | none => []
  | some f => (List.range 64).filter (fun r => decide (rFirst desc ≤ r ∧ r ≤ rLast desc) && tget 0 f.stops r == 0 &&
      decide (f.wall + 3 + (if f.ring ≤ r then r - f.ring else f.ring - r) ≤ now))

/-- K steps of an operation in flight that are already added (R229, R231). -/
def stepsDone (f : XFlight) : Nat :=
  match xnInstr f.entry with
  | some i => if f.unit = 1 then (f.total - f.busy) / max (f.total / kSteps i) 1 else 0
  | none => 0

/-- A stopping XN: whole steps of its operations in flight stand in the accumulators; a Q16 segment is not yet closed. -/
def State.xnHalt (s : State) (d r sl : Nat) : State :=
  let s := (s.xn d r sl).flight.foldl (fun s f =>
    if f.applied ∨ s.xfd d r sl = 20 then s
    else
      let n := stepsDone f
      match xnInstr f.entry with
      | some (.xmm acc _ _ _ _ a) => s.setXn d r sl (s.xmmEffect d r sl f acc.toNat n a)
      | some (.xdnd _ _ _ _ a m lb) => s.setXn d r sl (s.xdndEffect d r sl f m.toNat lb.toNat n a)
      | some (.xdbx _ _ _ _ a m lb) => s.setXn d r sl (s.xdbxEffect d r sl f m.toNat lb.toNat n a)
      | some (.xdbw _ _ _ _ a m lb) => s.setXn d r sl (s.xdbwEffect d r sl f m.toNat lb.toNat n a)
      | _ => s) s
  let x := s.xn d r sl
  s.setXn d r sl { x with flight := x.flight.map (fun f => ({ f with applied := true } : XFlight)) }

/-- The rings due stop: STOP is the RC of this cycle (held one higher, 0 for not stopped); with the last ring the region
is halted. -/
def State.stopRings (s : State) (d n : Nat) (desc : Word) : State :=
  let x := s.region d n
  match x.fstop with
  | none => s
  | some f =>
    let due := x.ringsDue desc s.cycle
    let stops := due.foldl (fun t r => tset 0 t r (x.rc % 2 ^ 32 + 1)) f.stops
    let last := decide (stops.length = rLast desc + 1 - rFirst desc)
    let s := s.setRegion d n { x with fstop := some { f with stops }, halted := x.halted || last }
    (due.flatMap (fun r => (List.range 8).map (fun b => (r, 6 * b + 3)))).foldl (fun s e => s.xnHalt d e.1 e.2) s

/-! ### Rows of the control fabric -/

/-- DONE (R27, R276). -/
def execDone (s : State) : Out :=
  rowExec s 0 s.fmtAny (fun c =>
    let s := s.rowVec c 1 (s.faW c) 0 0 (s.ce c.d c.r c.sl).l
    if c.inst + 1 = c.trip then s.setDie c.d ((s.die c.d).regionDone c.reg) else s)

end Sys2Proof.Machine
end

