-- ==== Sys2Proof/Machine/Mgmt.lean ====
section
/-! DEFINITION. Shared operations of the management processor: drawers freed (R188, R191), dies released, completion
records (R17), fault records (R231), the end of a launch, security alarms (R244). -/

namespace Sys2Proof.Machine

/-! ### Drawers (R188, R191, R192) -/

/-- The slot is freed: it holds no row, and GEN counts on. -/
def Drawer.freed (x : Drawer) : Drawer := { gen := x.gen + 1 }

/-- The drawers of a launch on every stack, changed by `f`. -/
def State.mapDrawers (s : State) (l : Nat) (f : Drawer → Drawer) : State :=
  s.stackTab.foldl (fun s e =>
    let st := s.stack e.1
    s.setStack e.1 { st with drawers := st.drawers.foldl (fun t x =>
      if (x.2.row.isSome ∨ x.2.resv) ∧ x.2.owner = l then tset {} t x.1 (f x.2) else t) st.drawers }) s

/-- Every drawer of a launch is written back and freed. -/
def State.freeDrawers (s : State) (l : Nat) : State := s.mapDrawers l Drawer.freed

/-- Base-die commands of a launch are dropped. -/
def State.dropBaseCommands (s : State) (l : Nat) : State :=
  let f (e : BEng) : BEng := { e with q := e.q.filter (fun c => c.launch != l) }
  s.stackTab.foldl (fun s e =>
    let st := s.stack e.1
    s.setStack e.1 { st with
      cabs := st.cabs.foldl (fun t x => tset {} t x.1 (f x.2)) st.cabs
      red := f st.red
      opt := f st.opt }) s

/-! ### Dies -/

/-- Every derived region of a die is dropped (R162, R296). -/
def State.dropDerivs (s : State) (d : Nat) : State :=
  (s.die d).derivs.foldl (fun s e =>
    let dix := e.1 % 8
    let node := e.1 / 8 % 16
    let ring := e.1 / 128
    s.dropDeriv d ring node dix) s

/-- An engine without commands: counts and states run on since start-up (R201, R352). -/
def Engine.idle (e : Engine) : Engine := { e with cmds := [], tlb := [] }

/-- A die that no launch holds: nothing of it runs; engines keep their counts, the core its registers, and the fabric what
it held, until another load replaces it. -/
def Die.released (x : Die) (keydom : Nat) : Die :=
  { x with
    launch := none
    lastKeydom := keydom
    core := { x.core with
      running := false, wait := .none, evq := [], tokIn := [], stq := [], dcache := [], ccache := [], early := [],
      fences := [], deferred := none, stallAt := none }
    xns := x.xns.foldl (fun t e => tset {} t e.1 { e.2 with flight := [], cmds := [], nulls := [] }) x.xns
    regs := []
    cellRuns := []
    engines := x.engines.foldl (fun t e => tset {} t e.1 e.2.idle) []
    token := none
    prefetch := none
    phase := false
    derivs := []
    vcache := []
    tlb := [] }

/-- The dies of a launch are released, once its stores are performed and its derived regions dropped (R217, R296). -/
def State.releaseDies (s : State) (l : Nat) : State :=
  let x := s.launch l
  (s.localDies x).foldl (fun s e =>
    let s := (s.performAll e.2).dropDerivs e.2
    s.setDie e.2 ((s.die e.2).released x.keydom)) s

/-- Launches that hold dies now. -/
def Phase.holds (p : Phase) : Bool :=
  match p with
  | .admitted => true
  | .running => true
  | .stopping => true
  | _ => false

/-! ### The completion record (R17) -/

/-- The host address a CREC names, with bits 5:0 cleared. -/
def crecKey (crec : Word) : Nat := hostKey (bitsOf crec 6 46 * 64)

/-- The eight words of a completion record. -/
def Launch.crecWords (x : Launch) (ran : Bool) : List Word :=
  [BitVec.ofNat 64 (2 ^ 63 + x.trap % 256 * 2 ^ 16 + (if ran then x.cls % 4 else 0) * 2 ^ 8 + x.status % 256),
   x.word 15, BitVec.ofNat 64 (bitsOf (x.word 6) 0 32), x.lcyc, x.frec, BitVec.ofNat 64 (x.precnt % 2 ^ 32), 0, 0]

/-- The completion record is written, then the message signalled (R17). -/
def State.writeCompletion (s : State) (l : Nat) (ran : Bool) : State :=
  let x := s.launch l
  let s := s.putBytes (crecKey (x.word 5)) (wordsBytes (x.crecWords ran))
  if (x.word 0).getLsbD 33 then { s with mgmt := { s.mgmt with msix := s.mgmt.msix ++ [bitsOf (x.word 0) 48 11] } } else s

/-- A launch ends: its queue forgets it, its drawers and dies are free, its record is written, and a pass is due (R17,
R42, R296). -/
def State.endLaunch (s : State) (l status trap : Nat) (frec : Word) (ran : Bool) : State :=
  let x := s.launch l
  let s := if ran then (s.freeDrawers l).dropBaseCommands l else s
  let s := if x.phase.holds then s.releaseDies l else s
  let s := s.setLaunch l { x with phase := .ended, status, trap, frec, saved := none, grants := [] }
  let q := s.queue x.queue
  let s := s.setQueue x.queue { q with items := q.items.filter (fun k => k != l) }
  let s := s.writeCompletion l ran
  { s with mgmt := { s.mgmt with passDue := true } }

/-! ### Fault records (R231) -/

/-- Entry cycles of the instances in flight, oldest first: e < max STOP and e + NS·II > f. -/
def Region.inFlight (x : Region) (desc : Word) (f : FStop) : List Nat :=
  (x.tasks.map (fun t => ((List.range t.2).map (fun i => (t.1 + i) * rII desc)).filter (fun e =>
    decide (e < x.rc % 2 ^ 32 ∧ f.f < e + rNS desc * rII desc)))).flatten

/-- XN entries in flight as XIP gives them. -/
def Die.xipOf (x : Die) (desc : Word) : List Nat :=
  (x.xns.map (fun e =>
    let ring := e.1 / 48
    let sl := e.1 % 48
    if rFirst desc ≤ ring ∧ ring ≤ rLast desc then
      e.2.flight.map (fun f => ring * 2 ^ 58 + sl / 6 * 2 ^ 55 + f.slotj % 32 * 2 ^ 50 + stepsDone f % 256 * 2 ^ 42 + f.rc % 2 ^ 32)
    else [])).flatten

/-- A list of numbers of `n` bytes each, cut or padded with `pad` to `k` numbers. -/
def packList (n k pad : Nat) (l : List Nat) : List Byte :=
  (((l.take k) ++ List.replicate (k - l.length) pad).map (leBytes n)).flatten

def padTo (k : Nat) (l : List Byte) : List Byte := l ++ List.replicate ((k - l.length % k) % k) 0

/-- The parts of one fault record. -/
structure FaultParts where
  info : FaultInfo
  fstop : Option (FStop × Nat)
  entry : List Nat
  xip : List Nat
  sup : List Nat

/-- The extension and the length of a record. -/
def FaultParts.ext (p : FaultParts) : List Byte :=
  padTo 8 ((p.entry.drop 64).map (leBytes 4)).flatten ++ ((p.xip.drop 32).map (leBytes 8)).flatten ++
    ((p.sup.drop 16).map (leBytes 8)).flatten

def FaultParts.len (p : FaultParts) : Nat := 1024 + (p.ext.length + 1023) / 1024 * 1024

/-- A fault of a control core or an engine, whose record names no unit (R231). -/
def FaultInfo.plain (i : FaultInfo) : Bool := decide (i.src = 3 ∨ i.src = 4 ∨ i.src = 5)

/-- The bytes of a record: `first` gives the count of records of the launch in the first one, `nx` the next record. -/
def FaultParts.bytes (p : FaultParts) (first : Option Nat) (nx : Word) : List Byte :=
  let n (l : List Nat) (k : Nat) : Nat := min l.length k
  let st := p.fstop
  let step : Nat := match st with
    | some (f, _) => f.step
    | none => p.info.step
  let w0 := 2 ^ 63 + step * 2 ^ 40 + n p.entry 64 * 2 ^ 32 + n p.xip 32 * 2 ^ 24 + n p.sup 16 * 2 ^ 17 +
    (if 16 < p.sup.length then 2 ^ 16 else 0) + min ((first.getD 0)) 15 * 2 ^ 12 + p.info.src * 2 ^ 8 + p.info.code
  let w1 := match st with
    | some (f, rg) => p.info.die * 2 ^ 48 + rg * 2 ^ 42 + f.ring * 2 ^ 36 + f.slot * 2 ^ 30 + f.row % 32 * 2 ^ 25 + f.stage % 64 * 2 ^ 19
    | none => match p.info.unit with
      | some (ring, slot) => p.info.die * 2 ^ 48 + ring * 2 ^ 36 + slot * 2 ^ 30
      | none => if p.info.plain then 0 else p.info.die * 2 ^ 48
  let fcyc := match st with
    | some (f, _) => f.f
    | none => 0
  let stops := match st with
    | some (f, _) => (List.range 64).map (fun r => if tget 0 f.stops r = 0 then 0xFFFFFFFF else tget 0 f.stops r - 1)
    | none => List.replicate 64 (if p.info.plain then 0 else 0xFFFFFFFF)
  let words := [w0, w1, fcyc, p.info.faddr.toNat, p.info.detail.toNat,
    p.entry.length % 2 ^ 16 * 2 ^ 48 + p.xip.length % 2 ^ 16 * 2 ^ 32 + p.sup.length % 2 ^ 16 * 2 ^ 16,
    first.getD 0 % 2 ^ 32 * 2 ^ 32 + p.len, nx.toNat]
  let head := (words.map (leBytes 8)).flatten ++ (stops.map (leBytes 4)).flatten ++ packList 4 64 0 p.entry ++
    packList 8 32 0 p.xip ++ packList 8 16 0 p.sup ++ List.replicate 64 0
  head ++ p.ext ++ List.replicate (p.len - 1024 - p.ext.length) 0

/-- What the record of one fault of a launch holds. -/
def State.faultParts (s : State) (l : Nat) (i : FaultInfo) : FaultParts :=
  let x := s.launch l
  match s.physDie x i.die, i.region with
  | some (some d), some rg =>
    let r := s.region d rg
    match r.fstop, tget none (s.die d).act.rdesc rg with
    | some f, some desc =>
      ⟨{ i with faddr := f.faddr, detail := f.detail, code := f.code, src := f.src }, some (f, rg),
        (r.inFlight desc f).map (fun e => e % 2 ^ 32), (s.die d).xipOf desc,
        f.sup.map (fun e => e.1 * 2 ^ 58 + e.2.1 * 2 ^ 52 + e.2.2 % 2 ^ 32)⟩
    | _, _ => ⟨i, none, [], [], []⟩
  | _, _ => ⟨i, none, [], [], []⟩

/-- A launch has run: its cores started at some time (R17). -/
def Launch.hasRun (x : Launch) : Bool :=
  match x.phase with
  | .accepted => false
  | .queued => false
  | .ended => false
  | .asking => x.saved.isSome
  | _ => true

/-- FRZREC: base and size of the record area (R235). -/
def Mgmt.frzBase (m : Mgmt) : Nat := bitsOf m.frzrec 10 29 * 1024
def Mgmt.frzSize (m : Mgmt) : Nat := 2 ^ bitsOf m.frzrec 0 5 * 2 ^ 20

/-- Bytes at a form-0 offset of the stacks under key slot 0, in pieces that stay in one granule. -/
def State.putForm0 (s : State) (off : Nat) (l : List Byte) : State :=
  ((chunks 64 ((l.length + 63) / 64) l).foldl (fun (t : State × Nat) b =>
    ((t.1.reopenRow (stackKey (linOf t.2))).store (stackKey (linOf t.2)) (some 0) b, t.2 + 64)) (s, off)).1

/-- The records of a launch in die order as one contiguous span, placed after the last span or at the area's base
(R231); the address of the first. -/
def State.writeFaultRecords (s : State) (l : Nat) : State × Word :=
  let fs := (List.range ((s.launch l).dieCount)).filterMap (fun i => (s.launch l).faults.find? (fun f => f.die == i))
  let ps := fs.map (s.faultParts l)
  let total := (ps.map FaultParts.len).foldl (· + ·) 0
  let pos := if s.mgmt.frzSize < s.mgmt.frzPos + total then 0 else s.mgmt.frzPos
  let addr (o : Nat) : Word := BitVec.ofNat 64 (6 * 2 ^ 60 + s.mgmt.frzBase + o)
  let (s', _, _) := ps.foldl (fun (t : State × Nat × Nat) p =>
    let (u, o, k) := t
    let last := decide (k + 1 = ps.length)
    let b := p.bytes (if k = 0 then some ps.length else none) (if last then 0 else addr (o + p.len))
    (u.putForm0 (s.mgmt.frzBase + o) b, o + p.len, k + 1)) (s, pos, 0)
  ({ s' with mgmt := { s'.mgmt with frzPos := pos + total } }, addr pos)

/-- Firmware writes the records and ends the launch with STATUS 0x06 and the code of its first fault (R230, R234). -/
def State.endFaulted (s : State) (l : Nat) : State :=
  let code := match (s.launch l).faults with
    | f :: _ => f.code
    | [] => 0
  let ran := (s.launch l).hasRun
  let (s, a) := s.writeFaultRecords l
  s.endLaunch l 6 code a ran

/-- DETAIL of a refusal by the loader (R145, R231): the kind, which one, the number of the code. -/
def loaderDetail (kind place code : Nat) : Word := BitVec.ofNat 64 (kind * 2 ^ 60 + place % 2 ^ 32 * 2 ^ 16 + code)

/-- A launch that never started ends with a fault of the loader or the scheduler (R31, R131, R137, R145). -/
def State.refuse (s : State) (l code : Nat) (faddr detail : Word) : State :=
  let x := s.launch l
  (s.setLaunch l { x with faults := [⟨6, code, 0, none, faddr, detail, s.cycle, 0, none⟩] }).endFaulted l

/-! ### Alarms (R244) -/

def State.holders (s : State) : List Nat := (s.launches.filter (fun e => e.2.phase.holds)).map (·.1)

/-- SRAM is scrubbed: no byte, no poison and no build stands. -/
def State.scrub (s : State) : State :=
  { s with mem := s.mem.filter (fun e => decide (2 ^ 60 ≤ e.1)), poison := s.poison.filter (fun e => decide (2 ^ 60 ≤ e.1)) }

/-- ALARM is raised to firmware on die 0. -/
def State.alarmTrap (s : State) : State :=
  let c := s.core 0
  s.setCore 0 (c.trapEntry 7 tALARM c.pc (s.mgmt.alarms.setWidth 64))

/-- An alarm source acts by the LEVEL of ALARMP. -/
def State.raiseAlarm (s : State) (src : Nat) : State :=
  let m := s.mgmt
  let s := { s with mgmt := { m with alarms := m.alarms ||| (1#7 <<< src) } }
  let lv := m.alarmLevel.toNat
  let s := if lv = 0 then s else s.holders.foldl (fun s l => s.endLaunch l 7 0 0 true) s
  let s := if lv < 2 then s else
    let s := s.scrub
    { s with keys := [(0, some ⟨0, Config.slot0Key s.freeCtr⟩)], freeCtr := s.freeCtr + 1 }
  let s := if lv < 3 then s else
    (List.range 16).foldl (fun s q => s.setQueue q { s.queue q with qstate := 3, booterr := 0 }) s
  s.alarmTrap

/-! ### The remote link (R199) -/

/-- The key slot of the lowest entry of the ACT that serves a request of a package. -/
def Stack.actMatch (x : Stack) (pkg off : Nat) : Option Nat :=
  x.act.findSome? (fun e =>
    let (w0, w1) := e.2
    let u := off / 2 ^ 15
    if w0.getLsbD 63 && w0.getLsbD 62 && decide (bitsOf w0 44 8 = pkg ∧ bitsOf w0 0 21 ≤ u ∧ u ≤ bitsOf w1 0 21)
    then some (bitsOf w0 52 10) else none)

/-- A denial is counted; the 64th of a window raises the alarm source. -/
def State.actDeny (s : State) (st : Nat) : State :=
  let x := s.stack st
  let s := s.setStack st { x with denials := x.denials + 1 }
  if x.denials + 1 = 64 then s.raiseAlarm 4 else s

/-- This package as the ACT writes it: PX, PY. -/
def Mgmt.pkgCode (m : Mgmt) : Nat := m.pkgX * 16 + m.pkgY

end Sys2Proof.Machine
end

