-- ==== Sys2Proof/Machine/Streams.lean ====
section
/-! DEFINITION. Stream engines (R106 to R111, R200, R214, R345 to R354): the record, its checks, starting, moving data,
completing. -/

namespace Sys2Proof.Machine

/-! ### The record (R106) -/

def scWord (w : List Word) (n : Nat) : Word := (w[n]?).getD 0
def scCount (w : List Word) (k : Nat) : Nat := bitsOf (scWord w 2) (16 * k) 16
def scTotal (w : List Word) : Nat := scCount w 0 * scCount w 1 * scCount w 2 * scCount w 3
def scSize (w : List Word) : Nat := 2 ^ bitsOf (scWord w 5) 0 2
def scStride (w : List Word) (k : Nat) : Int := ival 32 (bitsOf (scWord w (3 + k / 2)) (32 * (k % 2)) 32)
def scTag (w : List Word) : Nat := bitsOf (scWord w 5) 32 16
def scShelf (w : List Word) : Nat := bitsOf (scWord w 6) 8 8
def scDstr (w : List Word) : Bool := (scWord w 6).getLsbD 3
def scDisc (w : List Word) : Bool := (scWord w 6).getLsbD 2
def scPub (w : List Word) : Bool := (scWord w 6).getLsbD 1
def scOrd (w : List Word) : Bool := (scWord w 6).getLsbD 0

/-- Byte offset of element L on the strided side (R107). -/
def scStrided (w : List Word) (l : Nat) : Int :=
  let n0 := max (scCount w 0) 1
  let n1 := max (scCount w 1) 1
  let n2 := max (scCount w 2) 1
  (l % n0 : Nat) * scStride w 0 + (l / n0 % n1 : Nat) * scStride w 1 + (l / n0 / n1 % n2 : Nat) * scStride w 2 +
    (l / n0 / n1 / n2 : Nat) * scStride w 3

/-- Offsets of element L from SRC and from DST. -/
def scSrcOff (w : List Word) (l : Nat) : Int := if scDstr w then ((l * scSize w : Nat) : Int) else scStrided w l
def scDstOff (w : List Word) (l : Nat) : Int := if scDstr w then scStrided w l else ((l * scSize w : Nat) : Int)
def scSrc (w : List Word) (l : Nat) : Word := scWord w 0 + BitVec.ofInt 64 (scSrcOff w l)
def scDst (w : List Word) (l : Nat) : Word := scWord w 1 + BitVec.ofInt 64 (scDstOff w l)

/-- FADDR of a rejection: the word and the lowest bit of the field (R110). -/
def fieldAt (word lo : Nat) : Word := BitVec.ofNat 64 (word + lo * 2 ^ 8)

/-- Reserved fields, in word order and then bit order. -/
def scReserved (w : List Word) : Option Word :=
  [(5, 2, 6), (5, 13, 19), (5, 48, 16), (6, 4, 4), (6, 16, 48)].findSome? (fun e =>
    if bitsOf (scWord w e.1) e.2.1 e.2.2 ≠ 0 then some (fieldAt e.1 e.2.1) else none)

/-- Alignment of SRC, DST, the strides and CREC. -/
def scMisaligned (w : List Word) : Option Word :=
  let n := scSize w
  if (scWord w 0).toNat % n ≠ 0 then some (fieldAt 0 0)
  else if (scWord w 1).toNat % n ≠ 0 then some (fieldAt 1 0)
  else match (List.range 4).find? (fun k => scStride w k % (n : Int) != 0) with
    | some k => some (fieldAt (3 + k / 2) (32 * (k % 2)))
    | none => if (scWord w 7).toNat % 32 ≠ 0 then some (fieldAt 7 0) else none

/-! ### Places -/

/-- The node byte that a NODE-path address names, in this package or (`tgt` 9) in another one. -/
def State.nodeAddr (s : State) (d : Nat) (a : Word) : Option Loc :=
  if pathOf a ≠ 1 then none
  else match s.locate d none a .sdst false with
    | .ok loc => if loc.tgt = 2 ∨ loc.tgt = 9 then some loc else none
    | .error _ => none

/-- Bytes of the running declared set (R111). -/
def State.declaredHit (s : State) (loc : Loc) (n : Nat) : Bool :=
  loc.tgt == 2 && (s.die loc.die).act.declared.any (fun r =>
    r.ring == loc.ring && r.node == loc.node && decide (loc.off < r.lo + r.len ∧ r.lo < loc.off + n))

/-- The bank whose shelf a command publishes to. -/
def State.bankOfDie (s : State) (d : Nat) (shadow : Bool) : Bank := if shadow then (s.die d).shd else (s.die d).act

def Loc.slotAt (l : Loc) : Nat := slotOfNode l.node

/-- A shelf of the running declared set at a node. -/
def State.runningShelf (s : State) (loc : Loc) (sh : Nat) : Bool :=
  let w := (s.die loc.die).act.shelfDesc loc.ring loc.slotAt sh
  shValid w && (s.die loc.die).act.declared.any (fun r =>
    r.ring == loc.ring && r.node == loc.node && decide (r.lo ≤ shBase w ∧ shBase w < r.lo + r.len))

/-- Whether a publish to a shelf goes to the shadow bank: SSTG and NEXT bindings always, other commands when the shelf
is no shelf of the running set but one of the shadow set (R111, R354). -/
def State.pubShadow (s : State) (loc : Loc) (sh : Nat) (forNext : Bool) : Bool :=
  forNext || (!s.runningShelf loc sh && shValid ((s.die loc.die).shd.shelfDesc loc.ring loc.slotAt sh) &&
    !shValid ((s.die loc.die).act.shelfDesc loc.ring loc.slotAt sh))

/-! ### Checks at issue (R110, R111, R349) -/

/-- A pattern's byte lies in shadow storage (R149). -/
def State.patternShadow (s : State) (d : Nat) (w : List Word) (f : List Word → Nat → Word) : Bool :=
  (List.range (scTotal w)).any (fun l => match s.nodeAddr d (f w l) with
    | some loc => loc.tgt == 2 && s.inShadow loc.die loc.ring loc.node loc.off (scSize w)
    | none => false)

/-- A destination byte lies in the running declared set, on any path that reaches SRAM. -/
def State.patternDeclared (s : State) (d : Nat) (w : List Word) : Bool :=
  (List.range (scTotal w)).any (fun l =>
    match s.locate d none (scDst w l) .sdst false with
    | .ok loc => s.declaredHit loc (scSize w)
    | .error _ => false)

/-- The path or mode of SRC, DST and CREC, and shadow storage (R149); the SRC of an SEVC is an offset in a buffer of its shelf, which
holds none (R93). -/
def State.scPathBad (s : State) (d : Nat) (w : List Word) (sevc sm : Bool) : Option (Nat × Word) :=
  match pathTrap (pathOf (scWord w 0)) .ssrc sm with
  | some c => some (c, fieldAt 0 0)
  | none => match pathTrap (pathOf (scWord w 1)) .sdst sm with
    | some c => some (c, fieldAt 1 0)
    | none =>
      let p := pathOf (scWord w 7)
      if p ≠ 0 ∧ p ≠ 1 ∧ p ≠ 9 then
        some (if (p = 6 ∨ p = 7) ∧ !sm then tPRIV else tACCESS, fieldAt 7 0)
      else if !sevc && s.patternShadow d w scSrc then some (tACCESS, fieldAt 0 0)
      else if !scPub w && s.patternShadow d w scDst then some (tACCESS, fieldAt 1 0)
      else none

/-- PUB, SHELF, TAG and DISC of a command that does not consume a shelf: the field at fault that comes first in the record.
What a node of another package answers is free (log 13). -/
def State.scPubBad (s : State) (d : Nat) (w : List Word) (forNext : Bool) : Option (Nat × Word) :=
  if scPub w then
    match s.nodeAddr d (scWord w 1) with
    | none => some (0, fieldAt 1 0)
    | some loc =>
      let sh := scShelf w
      let far := loc.tgt == 9
      let desc := (s.bankOfDie loc.die (s.pubShadow loc sh forNext)).shelfDesc loc.ring loc.slotAt sh
      let valid : Bool := if far then Config.freeBit s.freeCtr else shValid desc
      if sh ≤ 63 ∧ valid ∧ (if far then Config.freeBit (s.freeCtr + 1) = false else shBytes desc ≤ loc.off) then some (0, fieldAt 1 0)
      else if scTag w = 0xFFFF then some (0, fieldAt 5 32)
      else if 63 < sh ∨ !valid then some (0, fieldAt 6 1)
      else if (if far then Config.freeBit (s.freeCtr + 2) = false else scDisc w ≠ shDisc desc) then some (0, fieldAt 6 2)
      else none
  else if scShelf w ≠ 0xFF then some (0, fieldAt 6 1)
  else if scDisc w then some (0, fieldAt 6 2)
  else none

/-- The conditions of a command that consumes a shelf (R349). -/
def State.scSevcBad (s : State) (d : Nat) (w : List Word) : Option (Nat × Word) :=
  match s.nodeAddr d (scWord w 0) with
  | none => some (0, fieldAt 0 0)
  | some loc =>
    let sh := scShelf w
    let far := loc.tgt == 9
    let desc := (s.die loc.die).act.shelfDesc loc.ring loc.slotAt sh
    let valid : Bool := if far then Config.freeBit s.freeCtr else shValid desc
    if sh ≤ 63 ∧ valid ∧ (if far then Config.freeBit (s.freeCtr + 1) = false else shBytes desc ≤ loc.off) then some (0, fieldAt 0 0)
    else if scPub w then some (0, fieldAt 6 1)
    else if 63 < sh ∨ !valid then some (0, fieldAt 6 8)
    else if (if far then Config.freeBit (s.freeCtr + 2) = false else scDisc w ≠ shDisc desc) then some (0, fieldAt 6 2)
    else none

/-- Staging breaks R111: the destination of a publishing command is its shelf's storage. -/
def State.scStagingBad (s : State) (d : Nat) (w : List Word) (forNext : Bool) : Bool :=
  if scPub w then
    match s.nodeAddr d (scWord w 1) with
    | none => false
    | some loc =>
      let shadow := s.pubShadow loc (scShelf w) forNext
      let desc := (s.bankOfDie loc.die shadow).shelfDesc loc.ring loc.slotAt (scShelf w)
      s.declaredHit { loc with off := shBase desc } (shDepth desc * shBytes desc) &&
        (shadow || !s.runningShelf loc (scShelf w))
  else s.patternDeclared d w

/-- The first check that fails: FCODE and FADDR. -/
def State.streamReject (s : State) (d : Nat) (w : List Word) (sevc forNext sm : Bool) : Option (Nat × Word) :=
  match scReserved w with
  | some a => some (0, a)
  | none => match s.scPathBad d w sevc sm with
    | some e => some e
    | none => match scMisaligned w with
      | some a => some (0, a)
      | none => match (if sevc then s.scSevcBad d w else s.scPubBad d w forNext) with
        | some e => some e
        | none => if s.scStagingBad d w forNext then some (tSCHED, fieldAt 1 0) else none

/-! ### Engines -/

def Die.engine (x : Die) (n : Nat) : Engine := tget {} x.engines n
def State.engine (s : State) (d n : Nat) : Engine := (s.die d).engine n
def State.setEngine (s : State) (d n : Nat) (e : Engine) : State :=
  s.setDie d { s.die d with engines := tset {} (s.die d).engines n e }

/-- An engine holds at most 64 outstanding commands (R200). -/
def Engine.full (e : Engine) : Bool := decide (64 ≤ e.cmds.length)

/-- A command enters: its ticket, its state pending among the last 256 (R201, R352). -/
def Engine.accept (e : Engine) (n : Nat) (c : SCmd) : Engine × Nat :=
  let k := e.count + 1
  let t := n * 2 ^ 28 + k % 2 ^ 28
  ({ e with
      cmds := e.cmds ++ [{ c with ticket := t }]
      count := k
      hist := ((k % 2 ^ 28, 0, 0) :: e.hist).take 256 }, t)

/-- A command that the loader binds enters: it is not counted and has no state to ask for (R201, R352). DESIGN CHOICE (log 26):
the TICKET of its completion record has count 0. -/
def Engine.bound (e : Engine) (n : Nat) (c : SCmd) : Engine := { e with cmds := e.cmds ++ [{ c with ticket := n * 2 ^ 28 }] }

/-- The state of a command (R352). -/
def Engine.state (e : Engine) (k : Nat) : Nat :=
  match e.hist.find? (fun h => h.1 == k) with
  | some (_, st, fc) => st.toNat + fc.toNat * 256
  | none => 4

def Engine.setState (e : Engine) (k : Nat) (st fc : Byte) : Engine :=
  { e with hist := e.hist.map (fun h => if h.1 = k then (k, st, fc) else h) }

/-! ### Starting a command (R108, R111, R345, R349) -/

/-- The shelf of this package that a command claims: die, ring, slot, shelf, whether in the shadow bank. -/
def State.claims (s : State) (d : Nat) (c : SCmd) : Option (Nat × Nat × Nat × Nat × Bool) :=
  let here (a : Word) : Option Loc := (s.nodeAddr d a).filter (fun l => l.tgt == 2)
  if c.kind = 2 then (here (scWord c.words 0)).map (fun l => (l.die, l.ring, l.slotAt, scShelf c.words, false))
  else if scPub c.words then (here (scWord c.words 1)).map (fun l => (l.die, l.ring, l.slotAt, scShelf c.words, c.next))
  else none

/-- Another started command of the package holds the same claim. -/
def State.claimTaken (s : State) (k : Nat × Nat × Nat × Nat × Bool) (sevc : Bool) : Bool :=
  s.dies.any (fun e => e.2.engines.any (fun g => g.2.cmds.any (fun c =>
    c.started && (c.kind == 2) == sevc && s.claims e.1 c == some k)))

/-- The buffer a command would claim now: `none` while it waits. -/
def State.claimNow (s : State) (d : Nat) (c : SCmd) : Option (Option Nat) :=
  match s.claims d c with
  | none => some none
  | some (pd, r, sl, sh, shadow) =>
    let b := (s.bankOfDie pd shadow).buf r sl sh
    let w := (s.bankOfDie pd shadow).shelfDesc r sl sh
    if s.claimTaken (pd, r, sl, sh, shadow) (c.kind == 2) then none
    else if !shadow && s.shelfPending pd r sl sh (c.kind != 2) then none
    else if c.kind = 2 then (if b.isFull (b.cons w) then some (some (b.cons w)) else none)
    else if b.isFull (b.prod w) then none else some (some (b.prod w))

/-- An entry's SHPUB, or SHREL, has come first at the buffer that a started command holds (R350; for SHREL the model's choice,
log 18). -/
def State.claimLost (s : State) (d : Nat) (c : SCmd) : Bool :=
  match s.claims d c, c.claim with
  | some (pd, r, sl, sh, shadow), some j =>
    let b := (s.bankOfDie pd shadow).buf r sl sh
    let w := (s.bankOfDie pd shadow).shelfDesc r sl sh
    (!shadow && s.shelfPending pd r sl sh (c.kind != 2)) || (if c.kind = 2 then b.cons w else b.prod w) != j
  | _, _ => false

/-- The leaf and the place of an address of a bound fabric side, by the translation taken once (R104). -/
def State.pinPlace (s : State) (d : Nat) (c : SCmd) (a : Word) : Option (Word × Except Nat Loc) :=
  if pathOf a ≠ 0 then none
  else (c.pins.find? (fun p => p.1 == bitsOf a 15 33)).map (fun p =>
    (p.2.1, s.physLoc d (s.launchAt d) (leafAddr p.2.1 p.2.2 (bitsOf a 0 48)) (bitsOf p.2.1 10 10) false))

/-- An access there: the page must grant it to K mode (R102). -/
def State.pinned (s : State) (d : Nat) (c : SCmd) (a : Word) (u : Use) : Option (Except Trap Loc) :=
  (s.pinPlace d c a).map (fun p => match p.2 with
    | .error c => .error ⟨c, a⟩
    | .ok loc => if rightsOk p.1 u false then .ok loc else .error ⟨tACCESS, a⟩)

/-- The region that a bound command's sequencer is bound to: that of its fabric side's ring. -/
def State.streamRegion (s : State) (d : Nat) (c : SCmd) : Option (Nat × Nat) :=
  let a := if c.side then scSrc c.words 0 else scDst c.words 0
  match (match s.pinPlace d c a with
    | some (_, .ok loc) => some loc
    | _ => s.nodeAddr d a) with
  | some loc => if loc.tgt = 2 then ((s.die loc.die).act.regionAt loc.ring).map (fun e => (loc.die, e.1)) else none
  | none => none

/-- A bound command stands with its region: in a freeze (R37) and after a fault's last ring (R229). -/
def State.streamStands (s : State) (d : Nat) (c : SCmd) : Bool :=
  decide (3 ≤ c.kind) && (match s.streamRegion d c with
    | none => false
    | some (pd, n) =>
      let x := s.region pd n
      x.halted || x.frz.isSome)

/-- Command `k` of an engine could start but for the priority of R111: it waits for its load, its port, its ORDERED queue,
its region, its claim. -/
def State.couldStart (s : State) (d n k : Nat) : Bool :=
  let e := s.engine d n
  match e.cmds[k]? with
  | none => false
  | some c =>
    let earlier := e.cmds.take k
    !c.started && c.reject.isNone &&
    !(decide (3 ≤ c.kind) && c.next) && !s.streamStands d c &&
    !(c.port.isSome && earlier.any (fun b => b.port == c.port)) &&
    !(scOrd c.words && earlier.any (fun b => scOrd b.words)) &&
    (s.claimNow d c).isSome

/-- A command of a launch that stages for the running load could start (R111). -/
def State.stagesFirst (s : State) (l : Nat) : Bool :=
  s.dies.any (fun e => e.2.engines.any (fun g => (List.range g.2.cmds.length).any (fun k =>
    match g.2.cmds[k]? with
    | some b => b.launch == l && !b.next && scPub b.words && b.kind != 2 && s.couldStart e.1 g.1 k
    | none => false)))

/-- Command `k` of an engine may start: what stages for the running load goes before what stages for the next (R111). -/
def State.mayStart (s : State) (d n k : Nat) : Bool :=
  match (s.engine d n).cmds[k]? with
  | none => false
  | some c => s.couldStart d n k && !(c.next && s.stagesFirst c.launch)

/-- It starts. -/
def State.startStream (s : State) (d n k : Nat) : State :=
  let e := s.engine d n
  match e.cmds[k]? with
  | none => s
  | some c =>
    match s.claimNow d c with
    | none => s
    | some b => s.setEngine d n { e with cmds := e.cmds.set k { c with started := true, claim := b } }

/-! ### Moving data (R107 to R109) -/

/-- A read over the remote link (R199). -/
def State.remoteRead (s : State) (d : Nat) (a : Word) (n : Nat) : Except Trap (List Byte × State) :=
  let s' := s.noteHostRead d 8
  if bitsOf a 36 13 ≠ 0 then .error ⟨tACCESS, a⟩
  else if bitsOf a 56 4 = s.mgmt.pkgX ∧ bitsOf a 52 4 = s.mgmt.pkgY then
    let st := bitsOf a 49 3
    match (s.stack st).actMatch s.mgmt.pkgCode (bitsOf a 0 36) with
    | none => .error ⟨tACCESS, a⟩
    | some k =>
      let key := stackKey (linOf (st * 2 ^ 36 + bitsOf a 0 36))
      if s.poisoned key n then .error ⟨tECC, a⟩
      else
        let (l, s) := s'.lookBack none true key (some k) (s.plainBytes key (some k) n)
        .ok (l, s.reopenRow key)
  else if Config.freeBit s.freeCtr then .error ⟨tACCESS, a⟩
  else .ok ((List.range n).map (fun i => Config.remoteByte s.freeCtr (a.toNat + i)), { s' with freeCtr := s.freeCtr + 1 })

/-- One element read for a command. -/
def State.streamRead (s : State) (d n : Nat) (c : SCmd) (l : Nat) : Except Trap (List Byte × State) :=
  let a := scSrc c.words l
  let sz := scSize c.words
  if c.kind = 2 then
    match s.nodeAddr d (scWord c.words 0) with
    | none => .error ⟨tACCESS, a⟩
    | some loc =>
      if loc.tgt = 9 then .ok ((List.range sz).map (fun i => Config.remoteByte s.freeCtr (a.toNat + i)), { s with freeCtr := s.freeCtr + 1 })
      else
      let w := (s.die loc.die).act.shelfDesc loc.ring loc.slotAt (scShelf c.words)
      let o : Int := (loc.off : Int) + scSrcOff c.words l
      if o < 0 ∨ (shBytes w : Int) < o + sz then .error ⟨tACCESS, a⟩
      else
        let off := bufBase w (c.claim.getD 0) + o.toNat
        match s.readLoc { loc with key := sramKey loc.die loc.ring loc.node off, off } a sz with
        | .error t => .error t
        | .ok b => .ok (s.lookBack (some d) false (sramKey loc.die loc.ring loc.node off) none b)
  else match pathOf a with
    | 3 => s.viewRead d (some n) a sz
    | 4 => s.derivPath d a sz
    | 8 => s.remoteRead d a sz
    | _ =>
      match (s.pinned d c a .ssrc).getD (s.locate d (some n) a .ssrc c.smode) with
      | .error t => .error t
      | .ok loc =>
        match s.readLoc loc a sz with
        | .error t => .error t
        | .ok b =>
          let (b, s) := s.lookBack (some d) false loc.key loc.slot b
          .ok (b, (s.noteXlate d (some n) loc).noteHostRead d (pathOf a))

/-- One element written for a command. -/
def State.streamWrite (s : State) (d n : Nat) (c : SCmd) (l : Nat) (b : List Byte) : Except Trap State :=
  let a := scDst c.words l
  let sz := scSize c.words
  let put (loc : Loc) : Except Trap State :=
    if loc.tgt = 2 ∧ s.inShadow loc.die loc.ring loc.node loc.off sz then .error ⟨tACCESS, a⟩
    else .ok ((s.noteXlate d (some n) loc).writeLoc loc b)
  if scPub c.words then
    match s.nodeAddr d (scWord c.words 1) with
    | none => .error ⟨tACCESS, a⟩
    | some loc =>
      if loc.tgt = 9 then .ok s
      else
      let w := (s.bankOfDie loc.die c.next).shelfDesc loc.ring loc.slotAt (scShelf c.words)
      let o : Int := (loc.off : Int) + scDstOff c.words l
      if o < 0 ∨ (shBytes w : Int) < o + sz then .error ⟨tACCESS, a⟩
      else
        let off := bufBase w (c.claim.getD 0) + o.toNat
        put { loc with key := sramKey loc.die loc.ring loc.node off, off }
  else match (s.pinned d c a .sdst).getD (s.locate d (some n) a .sdst c.smode) with
    | .error t => .error t
    | .ok loc => put loc

/-- A read over the remote link came to the table of this package's own stack and was denied (R199); an address with reserved bits
set reaches no table (R97). -/
def State.deniedHere (s : State) (t : Trap) (a : Word) : Bool :=
  decide (t.code = tACCESS ∧ pathOf a = 8 ∧ bitsOf a 36 13 = 0 ∧ bitsOf a 56 4 = s.mgmt.pkgX ∧ bitsOf a 52 4 = s.mgmt.pkgY)

/-- Elements from index `l` on, in increasing order, until one faults (R109): how many were done. -/
def State.moveFrom (d n : Nat) (c : SCmd) : Nat → Nat → State → State × Nat × Option Trap
  | 0, l, s => (s, l, none)
  | fuel + 1, l, s =>
    match s.streamRead d n c l with
    | .error t => (if s.deniedHere t (scSrc c.words l) then s.actDeny (bitsOf (scSrc c.words l) 49 3) else s, l,
        some { t with val := scSrc c.words l })
    | .ok (b, s') =>
      match s'.streamWrite d n c l b with
      | .error t => (s', l, some { t with val := scDst c.words l })
      | .ok s'' => State.moveFrom d n c fuel (l + 1) s''

/-! ### Completing (R110, R214) -/

/-- The 32 bytes of a completion record. -/
def crecBytes (status fcode bytes : Nat) (faddr : Word) (ticket : Nat) : List Byte :=
  wordsBytes [BitVec.ofNat 64 (2 ^ 63 + fcode * 256 + status), BitVec.ofNat 64 bytes, faddr, BitVec.ofNat 64 ticket]

/-- The completion record written at CREC: `none`, or the trap of the write. DEDUCED (log 18): also for a command that was rejected
for CREC itself, of which the spec does not say where its record goes: on any path that a stream may store to it is written, and
one at a misaligned CREC is lost with FCODE ALIGN. -/
def State.putRecord (s : State) (d n : Nat) (c : SCmd) (b : List Byte) : State × Option Nat :=
  let a := scWord c.words 7
  if a.toNat % 32 ≠ 0 then (s, some tALIGN)
  else match s.locate d (some n) a .sdst c.smode with
    | .error t => (s, some t.code)
    | .ok loc =>
      if loc.tgt = 2 ∧ s.inShadow loc.die loc.ring loc.node loc.off 32 then (s, some tACCESS)
      else ((s.noteXlate d (some n) loc).writeLoc loc b, none)

/-- The command leaves its engine with its record and its state (R352). -/
def State.endStream (s : State) (d n k : Nat) (c : SCmd) (status fcode bytes : Nat) (faddr : Word) : State :=
  let (s, lost) := s.putRecord d n c (crecBytes status fcode bytes faddr c.ticket)
  let e := s.engine d n
  let e := { e with cmds := e.cmds.eraseIdx k }
  let kk := c.ticket % 2 ^ 28
  s.setEngine d n (if c.kind = 4 then e else match lost with
    | some t => e.setState kk 2 (BitVec.ofNat 8 t)
    | none => e.setState kk (BitVec.ofNat 8 status) (BitVec.ofNat 8 fcode))

/-- Publish in the bank the command writes (R94, R111). -/
def State.streamPublish (s : State) (d : Nat) (c : SCmd) : State :=
  match s.claims d c with
  | none => s
  | some (pd, r, sl, sh, shadow) =>
    let tag := BitVec.ofNat 16 (scTag c.words)
    if shadow then
      let b := (s.die pd).shd
      s.setDie pd { s.die pd with shd := b.setBuf r sl sh ((b.buf r sl sh).publish (b.shelfDesc r sl sh) tag) }
    else s.publish pd r sl sh tag

/-- Command `k` can end: it was rejected, or it has started and its region runs on. -/
def State.mayFinish (s : State) (d n k : Nat) : Bool :=
  match (s.engine d n).cmds[k]? with
  | none => false
  | some c =>
    (c.reject.isSome && !(scOrd c.words && ((s.engine d n).cmds.take k).any (fun b => scOrd b.words))) || 
      (c.started && !s.streamStands d c)

/-- The completion of command `k` of an engine: its data moves whole (log 18), a publish or a release, its record. One whose
buffer an entry has taken waits for the next buffer (R350). -/
def State.finishStream (s : State) (d n k : Nat) : State :=
  match (s.engine d n).cmds[k]? with
  | none => s
  | some c =>
    match c.reject with
    | some (code, a) => s.endStream d n k c 3 code 0 a
    | none =>
      if s.claimLost d c then
        s.setEngine d n { s.engine d n with cmds := (s.engine d n).cmds.set k { c with started := false, claim := none } }
      else
      let wrongTag : Bool := c.kind == 2 && (match s.claims d c with
        | some (pd, r, sl, sh, _) =>
          tget 0xFFFF ((s.die pd).act.buf r sl sh).tags (c.claim.getD 0) != BitVec.ofNat 16 (scTag c.words)
        | none => false)
      if wrongTag then s.endStream d n k c 2 tSCHED 0 0
      else
        let total := scTotal c.words
        let (s, l, t) := State.moveFrom d n c total 0 s
        match t with
        | some t => s.endStream d n k c 2 t.code (l * scSize c.words) t.val
        | none =>
          let s := if c.kind = 2 then (match s.claims d c with
              | some (pd, r, sl, sh, _) => s.release pd r sl sh
              | none => s)
            else if scPub c.words then s.streamPublish d c else s
          s.endStream d n k c 1 0 (total * scSize c.words) 0

/-! ### Bindings (R104, R105, R345) -/

/-- The translations of a bound fabric side, taken once; `none` when a page is not pinned SRAM of the launch (R104). -/
def State.pinSide (s : State) (d : Nat) (w : List Word) (f : List Word → Nat → Word) : Option (List (Nat × Word × Nat)) :=
  let sm := false
  (List.range (max (scTotal w) 1)).foldl (fun acc l =>
    match acc with
    | none => none
    | some ps =>
      let a := f w l
      if pathOf a = 1 then (match s.locate d none a .ld sm with
        | .ok _ => some ps
        | .error _ => none)
      else if pathOf a ≠ 0 ∨ bitsOf a 48 12 ≠ 0 then none
      else if ps.any (fun p => p.1 == bitsOf a 15 33) then some ps
      else match s.xlate d none (bitsOf a 0 48) with
        | .error _ => none
        | .ok (e, lvl) =>
          let pa := leafAddr e lvl (bitsOf a 0 48)
          let inside := match s.physDie (s.launchAt d) (pa / 2 ^ 32 % 2 ^ 16) with
            | some _ => true
            | none => false
          if e.getLsbD 6 && decide (pa / 2 ^ 48 = 2) && inside then some (ps ++ [(bitsOf a 15 33, e, lvl)]) else none) (some [])

/-- The status of a binding (kind 3 SBIND, 4 the loader) and, when bound, the command (R345). DEDUCED (log 23): what R110 rejects
in PUB, SHELF, TAG and DISC has status 2, after the checks of the two sides. -/
def State.bindCheck (s : State) (d kind : Nat) (w : List Word) (b : Word) (sm : Bool) : Nat × Option SCmd :=
  let side := b.getLsbD 9
  let next := b.getLsbD 8
  if bitsOf b 10 54 ≠ 0 ∨ bitsOf b 6 2 ≠ 0 ∨ (scReserved w).isSome ∨ (scMisaligned w).isSome then (2, none)
  else
    match s.pinSide d w (if side then scSrc else scDst) with
    | none => (3, none)
    | some pins =>
      if (s.scPathBad d w false sm).isSome then (3, none)
      else if (s.scPubBad d w next).isSome then (2, none)
      else if s.scStagingBad d w next then (4, none)
      else (1, some ⟨w, kind, 0, (s.launchOf d).getD 0, some (bitsOf b 0 6), next, next && scPub w && !side, side, pins, false, none, none, sm⟩)

end Sys2Proof.Machine
end

