-- ==== Sys2Proof/Machine/Load.lean ====
section
/-! DEFINITION. Fabric loads of a die (R134, R183), table and shelf contents, loader bindings and declarations, and the
swap at step 6 of the reconfiguration token (R40, R49, R65, R88, R96, R168, R265). -/

namespace Sys2Proof.Machine

/-! ### Writing a load into a bank (R134, R183, R264) -/

/-- A load begins: the set holds no region, cell, table cell, view or list of its own, and every unit an empty schedule. -/
def Bank.newLoad (b : Bank) (k : Nat) : Bank :=
  { b with
    load := k
    stale := false
    rdesc := []
    cells := []
    luts := []
    views := []
    declared := []
    binds := []
    derivs := []
    shelfInit := []
    ce := b.ce.foldl (fun t e => tset {} t e.1 ({ e.2 with rows := [], stages := [], named := false } : CeCfg)) []
    mn := b.mn.foldl (fun t e => tset {} t e.1 ({ e.2 with rows := [], stages := [], named := false } : MnCfg)) []
    xn := b.xn.foldl (fun t e => tset {} t e.1 ({ e.2 with rows := [], stages := [], named := false } : XnCfg)) [] }

/-- One table record written into a slot: kind 0 function table, 1 branch map, 2 curve (R62, R359). -/
def Bank.putTable (b : Bank) (kind ring slot idx : Nat) (t : Option (BitVec 8320)) : Bank :=
  match kind with
  | 0 => { b with ftabs := tset none b.ftabs (4 * ukey ring slot + idx) t }
  | 1 => { b with maps := tset none b.maps (mapKey ring slot idx) t }
  | _ => { b with curves := tset none b.curves (curveKey ring slot idx) t }

/-- One block of a load. A unit's block writes its configuration whole. -/
def Bank.applyItem (b : Bank) (i : CfgBlock) : Bank :=
  match i.item with
  | .region n w => { b with rdesc := tset none b.rdesc n (some w) }
  | .cell n w0 w1 => { b with cells := tset (0, 0) b.cells n (w0, w1) }
  | .lut n w => { b with luts := tset 0 b.luts n w }
  | .ce r sl c => { b with ce := tset {} b.ce (ukey r sl) { c with named := true, zset := 0 } }
  | .mn r sl c => { b with mn := tset {} b.mn (ukey r sl) { c with named := true } }
  | .xn r sl c => { b with xn := tset {} b.xn (ukey r sl) { c with named := true } }
  | .view n w => { b with views := tset [] b.views n w }
  | .circuit _ => b
  | .declared r => { b with declared := b.declared ++ [r] }
  | .bind _ _ => { b with binds := b.binds ++ [i] }
  | .derive _ => { b with derivs := b.derivs ++ [i] }
  | .table kind r sl n _ t => b.putTable kind r sl n (some t)
  | .shelf _ _ _ _ _ => { b with shelfInit := b.shelfInit ++ [i] }

/-- The blocks of fabric load `k`, in block order. -/
def loadBlocks (l : List CfgBlock) (k : Nat) : List CfgBlock := l.filter (fun e => e.load == k)
def Launch.loadItems (x : Launch) (k : Nat) : List CfgBlock := loadBlocks x.items k

/-- The section holds a load. -/
def Launch.hasLoad (x : Launch) (k : Nat) : Bool := x.items.any (fun e => e.load == k)

/-- A load written into a set. -/
def Bank.installBlocks (b : Bank) (l : List CfgBlock) (k : Nat) : Bank := (loadBlocks l k).foldl Bank.applyItem (b.newLoad k)
def Bank.install (b : Bank) (x : Launch) (k : Nat) : Bank := b.installBlocks x.items k

/-! ### What follows the activation of a load (R162, R183, R345) -/

/-- One filled buffer of a load's `.shelf` contents staged and published; its bytes that are not given are zero, and one that
gets no byte stays empty (R142). -/
def State.stageShelf (s : State) (d : Nat) (i : CfgBlock) : State :=
  match i.item with
  | .shelf ring node sh buf bytes =>
    let sl := slotOfNode node
    let w := s.shelf d ring sl sh
    if bytes.isEmpty then s
    else (s.nodeStore d ring node (bufBase w buf) (bytes ++ List.replicate (shBytes w - bytes.length) 0)).publishAt
      d ring sl sh buf (tagAt w buf)
  | _ => s

/-- The contents of a load in buffer order (R142). -/
def byBuffer (l : List CfgBlock) : List CfgBlock :=
  (List.range 8).flatMap (fun n => l.filter (fun i => match i.item with
    | .shelf _ _ _ buf _ => buf == n
    | _ => false))

/-- The derived region a record declares, its build still to run. -/
def newDerived (w : List Word) (building : Bool) : Derived := ⟨w, building, false, [], none⟩

/-- The loader refuses a fabric load: the launch ends with the code and the block's place, for a placement the record of the
loop (R145). -/
def State.refuseLoad (s : State) (d place code : Nat) : State :=
  match s.launchOf d with
  | some l => s.noteFault l
      ⟨6, tSCHED, (s.core d).dien.toNat, none, 0, loaderDetail (if (s.launch l).hex then 3 else 2) place code, s.cycle, (s.die d).tokenStep, none⟩
  | none => s

/-- A declaration of a load takes effect whole, on the die that its BASE names: a region of the same index is dropped first
(R97, R162). Shadow storage that another region's holds by then is refused (R149). -/
def State.declareLoad (s : State) (d : Nat) (i : CfgBlock) : State :=
  match i.item with
  | .derive w =>
    let x := newDerived w false
    let a := x.word 0
    let ring := bitsOf a 48 6
    let node := bitsOf a 44 4
    if bitsOf a 54 6 ≠ (s.core d).dien.toNat then s
    else if s.shadowBad d ring node w then s.refuseLoad d i.place 120
    else
      let s := s.dropDeriv d ring node x.dix
      s.setDeriv d ring node x.dix (some { x with dovf := x.overflows (fun o => s.nodeView d ring node [] o) })
  | _ => s

/-- The block that sets STREAM mode on a node that holds a derived region (R162). -/
def State.streamOverDerived (s : State) (d : Nat) (l : List CfgBlock) : Option Nat :=
  (l.find? (fun i => match i.item with
    | .mn r sl c => decide (bitsOf (c.ncfg.setWidth 64) 0 2 = 0) && !(s.derivsOf d r (nodeOfSlot sl)).isEmpty
    | _ => false)).map (·.place)

/-- A region of a node stays declared beside the blocks of a load: none of them replaces it (R162). -/
def State.staysDeclared (s : State) (d : Nat) (l : List CfgBlock) (ring node dix : Nat) : Bool :=
  !l.any (fun i => match i.item with
    | .derive w =>
      let a := (w[0]?).getD 0
      decide (bitsOf a 54 6 = (s.core d).dien.toNat ∧ bitsOf a 48 6 = ring ∧ bitsOf a 44 4 = node ∧ (newDerived w false).dix = dix)
    | _ => false)

/-- The block that lays a valid shelf over the shadow storage of a region that stays declared (R93). -/
def State.shelfOverDerived (s : State) (d : Nat) (l : List CfgBlock) : Option Nat :=
  (l.find? (fun i => match i.item with
    | .mn r sl c => (s.derivsOf d r (nodeOfSlot sl)).any (fun e => s.staysDeclared d l r (nodeOfSlot sl) e.1 &&
        c.shelf.any (fun f => shValid f.2 &&
          decide (shBase f.2 < e.2.shBase + e.2.shSize ∧ e.2.shBase < shBase f.2 + shDepth f.2 * shBytes f.2)))
    | _ => false)).map (·.place)

/-- The block of a load that the regions declared by then refuse, and the code. -/
def State.overDerived (s : State) (d : Nat) (l : List CfgBlock) : Option (Nat × Nat) :=
  match s.streamOverDerived d l with
  | some p => some (p, 3)
  | none => (s.shelfOverDerived d l).map (fun p => (p, 70))

/-- A stream command that a load's block binds enters its engine (R104, R108, R345). The block names no side: the fabric
side is the destination where that is pinned SRAM, else the source (log 26). A binding that the rules refuse ends the launch
with E090. -/
def State.bindLoad (s : State) (d : Nat) (i : CfgBlock) : State :=
  match i.item with
  | .bind port w =>
    let b (src : Bool) : Word := BitVec.ofNat 64 (port % 64 + (if src then 512 else 0))
    let src := (s.pinSide d w scDst).isNone
    match (s.bindCheck d 4 w (b src) false).2 with
    | some c => s.setEngine d (port % 16) ((s.engine d (port % 16)).bound (port % 16) { c with stage := scPub w && !src })
    | none => s.refuseLoad d i.place 90
  | _ => s

/-- The contents, declarations and bindings of the load that has become active. Each is used once. A node that the load sets
to STREAM mode must hold no derived region then, and no shelf of it may lie over a region's shadow storage (R93, R162). -/
def State.activateLoad (s : State) (d : Nat) : State :=
  let b := (s.die d).act
  let own := ((s.launchOf d).map (fun l => (s.launch l).loadItems b.load)).getD []
  let s := match s.overDerived d own with
    | some (p, code) => s.refuseLoad d p code
    | none => s
  let s := s.setDie d { s.die d with act := { b with shelfInit := [], derivs := [], binds := [] } }
  let s := (byBuffer b.shelfInit).foldl (fun s i => s.stageShelf d i) s
  let s := b.derivs.foldl (fun s i => s.declareLoad d i) s
  b.binds.foldl (fun s i => s.bindLoad d i) s

/-! ### The swap (R40, R65, R96, R134, R168, R265) -/

/-- The keys of two tables. -/
def keysOf {α β : Type} (a : Tab α) (b : Tab β) : List Nat :=
  a.map (·.1) ++ (b.map (·.1)).filter (fun k => !(a.any (fun e => e.1 == k)))

/-- The configuration a CE takes: its block's, or the outgoing one with an empty schedule; constants that CFGP replaced
stand (R265). -/
def ceTaken (new old : CeCfg) : CeCfg :=
  if new.named then { new with zset := 0 }
  else { new with
    fcfg := old.fcfg
    z := (List.range 6).foldl (fun t i => tset 0 t i (if new.zset.getLsbD i then tget 0 new.z i else tget 0 old.z i)) []
    zset := 0 }

def mnTaken (new old : MnCfg) : MnCfg :=
  if new.named then new else { new with ncfg := old.ncfg, ag := old.ag, shelf := old.shelf }

def xnTaken (new old : XnCfg) : XnCfg := if new.named then new else { new with fcfg := old.fcfg }

/-- The shadow set with the configuration its unnamed units keep. -/
def Bank.takenFrom (new old : Bank) : Bank :=
  { new with
    ce := (keysOf new.ce old.ce).foldl (fun t k => tset {} t k (ceTaken (tget {} new.ce k) (tget {} old.ce k))) []
    mn := (keysOf new.mn old.mn).foldl (fun t k => tset {} t k (mnTaken (tget {} new.mn k) (tget {} old.mn k))) []
    xn := (keysOf new.xn old.xn).foldl (fun t k => tset {} t k (xnTaken (tget {} new.xn k) (tget {} old.xn k))) [] }

/-- Shelf states of the new active set: carried, or accumulated in the shadow bank. -/
def Bank.carryBufs (new old : Bank) : Tab ShelfSt :=
  (keysOf new.bufs old.bufs).foldl (fun t k =>
    let named := (tget {} new.mn (k / 64)).named
    let w := tget 0 (tget {} new.mn (k / 64)).shelf (k % 64)
    tset {} t k (tget {} (if !named || shCarry w then old.bufs else new.bufs) k)) []

/-- The first shelf whose CARRY finds another descriptor outgoing: unit key and shelf (R96). -/
def Bank.carryBad (new old : Bank) : Option (Nat × Nat) :=
  new.mn.findSome? (fun e =>
    if !e.2.named then none
    else (e.2.shelf.find? (fun f =>
      let o := tget 0 (tget {} old.mn e.1).shelf f.1
      shValid f.2 && shCarry f.2 &&
        !(shValid o && decide (shBase o = shBase f.2 ∧ shBytes o = shBytes f.2 ∧ shDepth o = shDepth f.2 ∧ shTag o = shTag f.2)))).map
      (fun f => (e.1, f.1)))

/-- The flag summary of a die (R66, R181). -/
def Die.flagSummary (x : Die) : BitVec 6 :=
  (x.ces.map (·.2.flags)).foldl (· ||| ·) 0 ||| (x.xns.map (·.2.flags)).foldl (· ||| ·) 0

/-- An XN takes the entries made active: EV from their VER fields; flags, port cursors and latch cleared (R168, R172, R295). -/
def Xn.reload (x : Xn) (c : XnCfg) : Xn :=
  { x with
    ev := c.rows.foldl (fun t e => tset 0 t e.1 (BitVec.ofNat 8 (bitsOf e.2 48 8))) []
    flags := 0
    cursW := 0
    cursE := 0
    latch := 0 }

/-- Step 6 on a die: every double-banked item swaps, and what R49, R88, R100, R168, R172, R209 and R295
reset is reset: every lane, latch and rotating file among it. The DONE flags of cells and regions stand (R35). -/
def Die.swap (x : Die) : Die :=
  let new := { x.shd.takenFrom x.act with bufs := Bank.carryBufs x.shd x.act, stale := false }
  let eng (e : Engine) : Engine := { e with tlb := [], cmds := e.cmds.map (fun c => { c with next := false }) }
  { x with
    act := new
    shd := { x.act with bufs := [], stale := true }
    ces := []
    mns := []
    xns := (keysOf x.xns new.xn).foldl (fun t k => tset {} t k ((tget {} x.xns k).reload (tget {} new.xn k))) []
    regs := x.regs.foldl (fun t e => tset {} t e.1 { done := e.2.done }) []
    cellRuns := x.cellRuns.foldl (fun t e => tset {} t e.1 { done := e.2.done }) []
    lanes := []
    wports := []
    xports := []
    engines := x.engines.foldl (fun t e => tset {} t e.1 (eng e.2)) []
    token := none
    kth := x.kth + 1
    phase := false
    vcache := []
    tlb := []
    core := { x.core with
      dcache := []
      ccache := []
      early := []
      wait := if x.core.wait = .drain then .drained x.flagSummary else x.core.wait } }

/-- The load that is prefetched after a swap (R183, R264). -/
def Die.nextLoad (x : Die) : Nat := if x.core.cfgl then x.act.load + 1 else x.kth + 1

end Sys2Proof.Machine
end

