-- ==== Sys2Proof/Machine/BaseDie.lean ====
section
/-! DEFINITION. Commands of a base die (R188 to R198, R202, R225, R226, R320 to R325): operands and their regions, the
queues, the granule steps of cabinet, reduction engine and optimiser unit. -/

namespace Sys2Proof.Machine

/-! ### Places on a stack -/

/-- Stack, pseudo-channel, bank, row and column of a linear offset (R112). -/
def linStack (l : Nat) : Nat := l / 2 ^ 36 % 8
def linPch (l : Nat) : Nat := l / 2 ^ 30 % 64
def linBank (l : Nat) : Nat := l / 2 ^ 10 % 16
def linRow (l : Nat) : Nat := l / 2 ^ 14 % 2 ^ 16
def subarray (row : Nat) : Nat := row / 2 ^ 10

/-- An operand's first byte: linear offset, key slot, the linear offset where its CCAP region or drawer ends. -/
structure Opnd where
  lin : Nat
  key : Nat
  stop : Nat
  deriving DecidableEq, Repr

/-- The CCAP region of an operand: 2 MiB of one pseudo-channel. -/
def Opnd.region (o : Opnd) : Nat := o.lin / 2 ^ 21

/-- The operand that an address names, on the GEN path or (for NBOP) LINE; `none` when it lies in no CCAP region of the
launch that grants the use, and in no drawer the launch holds (R102, R202). Operands are translated as K-mode accesses. -/
def State.opndAt (s : State) (d : Nat) (line : Bool) (a : Word) (u : Use) : Option Opnd :=
  if pathOf a = 0 then
    match s.genLoc d none a u false with
    | .error _ => none
    | .ok loc =>
      match loc.pte with
      | some (_, e, _) =>
        if e.getLsbD 5 ∧ loc.tgt = 0 then
          let l := loc.key - 2 ^ 60
          some ⟨l, bitsOf e 10 10, (l / 2 ^ 21 + 1) * 2 ^ 21⟩
        else none
      | none => none
  else if line ∧ pathOf a = 5 then
    match s.lineLoc d a with
    | .error _ => none
    | .ok loc =>
      let l := loc.key - 2 ^ 60
      some ⟨l, loc.slot.getD 0, l - bitsOf a 0 10 + 1024⟩
  else none

/-- A number for the byte an address names, the same for every address that reaches it; addresses that reach nothing get
numbers of their own. -/
def State.placeKey (s : State) (d : Nat) (a : Word) : Nat :=
  let other := 2 ^ 70 + a.toNat
  let key (r : Except Nat Loc) : Nat := match r with
    | .ok loc => if loc.tgt = 9 then other else loc.key
    | .error _ => other
  match pathOf a with
  | 0 => match s.xlate d none (bitsOf a 0 48) with
    | .ok (e, lvl) => key (s.physLoc d (s.launchAt d) (leafAddr e lvl (bitsOf a 0 48)) (bitsOf e 10 10) false)
    | .error _ => other
  | 1 => key (s.nodeLoc d (s.launchAt d) (bitsOf a 54 6) (bitsOf a 48 6) (bitsOf a 44 4) (bitsOf a 0 21) tACCESS)
  | 5 => match s.lineLoc d a with
    | .ok loc => loc.key
    | .error _ => other
  | _ => other

/-! ### Arithmetic -/

/-- An element of an operand as the stack's engines read it. -/
def State.opElem (s : State) (o : Nat × Nat) (off code : Nat) : FVal :=
  ((ffmt code).decode (leNat (s.plainBytes (o.1 + off) (some o.2) ((ffmt code).bits / 8))))

/-- A format code of NBOP and NBRED: 0 FP32, 1 BF16, 2 FP16. -/
def nbFmt (f : Nat) : Nat := if f = 0 then 0 else if f = 1 then 2 else 1

/-- Product and fused product-sum, rounded once. -/
def mulRound (code : Nat) (a b : FVal) : Nat × Flags :=
  let (p, i) := mulNum a b
  let (x, f) := roundTo code 0 p
  (x, f ||| flagIf i fINV)

def fmaRound (code : Nat) (a b c : FVal) : Nat × Flags :=
  let (p, i) := mulNum a b
  let (t, j) := addNum 0 p c
  let (x, f) := roundTo code 0 t
  (x, f ||| flagIf (i || j) fINV)

/-- Integer square root by binary digits. -/
def isqrt : Nat → Nat → Nat
  | 0, _ => 0
  | fuel + 1, n =>
    if n = 0 then 0
    else
      let r := 2 * isqrt fuel (n / 4)
      if (r + 1) * (r + 1) ≤ n then r + 1 else r

/-- A square root for one later rounding: exact where it is a multiple of 2^−4096; else a number between the same two
neighbours of that grid. An FP32 result and its rounding boundaries stay on the same side of it, since a boundary and
the square root of an FP32 product differ by more than 2^−4096 or are equal. -/
def sqrtNum (a : FVal) : FVal × Bool :=
  match a with
  | .nan => (.nan, false)
  | .inf s => if s then (.nan, true) else (.inf false, false)
  | .zero s => (.zero s, false)
  | .fin q =>
    if q < 0 then (.nan, true)
    else
      let n := (q * pow2 8192).floor.toNat
      let r := isqrt 4500 n
      if ((r * r : Nat) : Rat) = q * pow2 8192 then (.fin ((r : Rat) / pow2 4096), false)
      else (.fin (((2 * r + 1 : Nat) : Rat) / pow2 4097), false)

/-- Exact quotient (R70, R72). -/
def divNum (a b : FVal) : FVal × Flags :=
  match a, b with
  | .nan, _ => (.nan, 0)
  | _, .nan => (.nan, 0)
  | .inf _, .inf _ => (.nan, fINV)
  | .inf s, b => (.inf (s != b.neg), 0)
  | a, .inf t => (.zero (a.neg != t), 0)
  | .zero _, .zero _ => (.nan, fINV)
  | .zero s, b => (.zero (s != b.neg), 0)
  | a, .zero t => (.inf (a.neg != t), fDZ)
  | .fin p, .fin q => (.fin (p / q), 0)

/-- Exact sums and products of values that carry flags. -/
def vAdd (a b : Val) : Val :=
  let (x, i) := addNum 0 a.1 b.1
  (x, a.2 ||| b.2 ||| flagIf i fINV)
def vMul (a b : Val) : Val :=
  let (x, i) := mulNum a.1 b.1
  (x, a.2 ||| b.2 ||| flagIf i fINV)
def vNeg (a : Val) : Val := (negNum a.1, a.2)
def vDiv (a b : Val) : Val :=
  let (x, f) := divNum a.1 b.1
  (x, a.2 ||| b.2 ||| f)
def vSqrt (a : Val) : Val :=
  let (x, i) := sqrtNum a.1
  (x, a.2 ||| flagIf i fINV)

/-- A value rounded into a format: its pattern, the value of the pattern, the flags. -/
def vRound (code : Nat) (a : Val) : Nat × Val :=
  let (x, f) := roundTo code 0 a.1
  (x, ((ffmt code).decode x, a.2 ||| f))

/-! ### Blocks -/

def blkWord (b : List Word) (n : Nat) : Word := (b[n]?).getD 0

/-- NBOP (R196). -/
def nbCount (b : List Word) : Nat := bitsOf (blkWord b 3) 0 32
def nbOpc (b : List Word) : Nat := bitsOf (blkWord b 3) 34 3
def nbCode (b : List Word) : Nat := if bitsOf (blkWord b 3) 32 2 = 0 then 0 else 2
def nbDstCode (b : List Word) : Nat := if nbOpc b = 4 then (if nbCode b = 0 then 2 else 0) else nbCode b

/-- NBRED (R197) and OPTM (R198). -/
def blkCount (b : List Word) : Nat := bitsOf (blkWord b 0) 8 32
def rdCode (b : List Word) : Nat := nbFmt (bitsOf (blkWord b 0) 4 2)
def rdSources (b : List Word) : Nat := bitsOf (blkWord b 0) 0 4 + 1
def rdSource (b : List Word) (j : Nat) : Word := blkWord b 2 + BitVec.ofNat 64 (j * (blkWord b 3).toNat)
def opKind (b : List Word) : Nat := bitsOf (blkWord b 0) 0 2
def opStride (b : List Word) (p : Nat) : Nat := bitsOf (blkWord b 6) (12 * p) 12
def opFmt (b : List Word) (p : Nat) : Nat := bitsOf (blkWord b 7) (4 * p) 4
def opBase (b : List Word) (p : Nat) : Word := blkWord b (1 + p)

def codeBytes (code : Nat) : Nat := (ffmt code).bits / 8

/-- Where a command's flag goes and its value: `none` without one. -/
def BCmd.flag (c : BCmd) : Option (Word × Word) :=
  match c.kind with
  | 0 => none
  | 1 => if blkWord c.blk 4 = 0 then none else some (blkWord c.blk 4, blkWord c.blk 5)
  | _ => if blkWord c.blk 8 = 0 then none else some (blkWord c.blk 8, blkWord c.blk 9)

def BCmd.elems (c : BCmd) : Nat := if c.kind = 0 then nbCount c.blk else blkCount c.blk

/-- Byte distance between elements of the plane whose granules are the steps, and their size. -/
def BCmd.stepBytes (c : BCmd) : Nat :=
  match c.kind with
  | 0 => codeBytes (nbDstCode c.blk)
  | 1 => codeBytes (rdCode c.blk)
  | _ => opStride c.blk 0

/-- Bytes of one of those elements. -/
def BCmd.stepSize (c : BCmd) : Nat :=
  match c.kind with
  | 0 => codeBytes (nbDstCode c.blk)
  | 1 => codeBytes (rdCode c.blk)
  | _ => codeBytes (opFmt c.blk 0)

/-- The key of the written plane's first byte. -/
def BCmd.first (c : BCmd) : Nat := ((c.ops[0]?).getD (0, 0)).1

/-- The number of granules that the written plane touches. -/
def BCmd.granules (c : BCmd) : Nat :=
  if c.elems = 0 then 0 else (c.first + (c.elems - 1) * c.stepBytes + c.stepSize - 1) / 64 - c.first / 64 + 1

/-- The elements with a byte in granule `g`, counted from that of the first. -/
def BCmd.span (c : BCmd) (g : Nat) : List Nat :=
  let k := c.first
  let b := (k / 64 + g) * 64
  let st := max c.stepBytes 1
  let lo := if b < k + c.stepSize then 0 else (b - k - c.stepSize) / st + 1
  ((List.range 65).map (fun i => lo + i)).filter (fun i =>
    decide (i < c.elems ∧ k + i * c.stepBytes < b + 64 ∧ b < k + i * c.stepBytes + c.stepSize))

def BCmd.op (c : BCmd) (n : Nat) : Nat × Nat := (c.ops[n]?).getD (0, 0)

/-- The operand elements of element `i`, as (operand, byte offset, bytes): what it reads. -/
def BCmd.readsOf (c : BCmd) (i : Nat) : List (Nat × Nat × Nat) :=
  match c.kind with
  | 0 =>
    let n := codeBytes (nbCode c.blk)
    (match nbOpc c.blk with
     | 0 => [(1, i * n, n), (2, i * n, n)]
     | 1 => [(1, i * n, n), (2, i * n, n)]
     | 2 => [(1, i * n, n), (2, i * n, n), (0, i * n, n)]
     | _ => [(1, i * n, n)])
  | 1 =>
    let n := codeBytes (rdCode c.blk)
    (List.range (rdSources c.blk)).map (fun j => (j + 1, i * n, n))
  | _ => ((List.range 5).filter (fun p => !(decide (p = 3 ∧ opKind c.blk = 0)) && !(decide (p = 4 ∧ opBase c.blk 4 = 0)) &&
      !(decide (p = 0 ∧ opBase c.blk 4 ≠ 0)))).map
      (fun p => (p, i * opStride c.blk p, codeBytes (opFmt c.blk p)))

/-- An uncorrectable error in what an element reads. -/
def State.opPoison (s : State) (c : BCmd) (i : Nat) : Bool :=
  (c.readsOf i).any (fun r => s.poisoned ((c.op r.1).1 + r.2.1) r.2.2)

/-- What element `i` of a command writes: (operand, byte offset, bytes), and its flags. -/
def State.opResult (s : State) (c : BCmd) (i : Nat) : List (Nat × Nat × List Byte) × Flags :=
  let b := c.blk
  match c.kind with
  | 0 =>
    let code := nbCode b
    let n := codeBytes code
    let x := s.opElem (c.op 1) (i * n) code
    let y := s.opElem (c.op 2) (i * n) code
    let dn := codeBytes (nbDstCode b)
    let (v, f) := match nbOpc b with
      | 0 => addRound code 0 x y
      | 1 => mulRound code x y
      | 2 => fmaRound code x y (s.opElem (c.op 0) (i * n) code)
      | 3 => mulRound code x ((ffmt 0).decode (bitsOf (blkWord b 2) 0 32))
      | _ => roundTo (nbDstCode b) 0 x
    ([(0, i * dn, leBytes dn v)], f)
  | 1 =>
    let code := rdCode b
    let n := codeBytes code
    let l := (List.range (rdSources b)).map (fun j =>
      let x := leNat (s.plainBytes ((c.op (j + 1)).1 + i * n) (some (c.op (j + 1)).2) n)
      ((x, 0) : Nat × Flags))
    let f (p q : Nat × Flags) : Nat × Flags :=
      let (v, g) := addRound code 0 ((ffmt code).decode p.1) ((ffmt code).decode q.1)
      (v, p.2 ||| q.2 ||| g)
    (match treeFold f 4 l with
     | [v] => ([(0, i * n, leBytes n v.1)], v.2)
     | _ => ([], 0))
  | _ =>
    let fp (w lo : Nat) : Val := ((ffmt 0).decode (bitsOf (blkWord b w) lo 32), 0)
    let ld (p : Nat) : Val := (s.opElem (c.op p) (i * opStride b p) (opFmt b p), 0)
    let lr := fp 10 0
    let b1 := fp 10 32
    let b2 := fp 11 0
    let eps := fp 11 32
    let wd := fp 12 0
    let c1 := fp 12 32
    let c2 := fp 13 0
    let one : Val := (.fin 1, 0)
    let master := opBase b 4 != 0
    let p := if master then ld 4 else ld 0
    let g := ld 1
    let sgd := opKind b == 0
    let (m1x, m1) := vRound (opFmt b 2)
      (if sgd then vAdd (vMul b1 (ld 2)) g else vAdd (vMul b1 (ld 2)) (vMul (vAdd one (vNeg b1)) g))
    let (m2x, m2) := if sgd then (0, m1)
      else vRound (opFmt b 3) (vAdd (vMul b2 (ld 3)) (vMul (vMul (vAdd one (vNeg b2)) g) g))
    let q := if sgd then m1 else vDiv (vMul m1 c1) (vAdd (vSqrt (vMul m2 c2)) eps)
    let (px, pv) := vRound 0 (vAdd p (vNeg (vMul lr (vAdd q (vMul wd p)))))
    let (wx, wv) := vRound (opFmt b 0) pv
    let put (n x : Nat) : Nat × Nat × List Byte := (n, i * opStride b n, leBytes (codeBytes (opFmt b n)) x)
    ([put 2 m1x] ++ (if sgd then [] else [put 3 m2x]) ++ (if master then [put 4 px] else []) ++ [put 0 wx],
      wv.2 ||| m1.2 ||| m2.2)

/-! ### Queues -/

/-- Which engine: 0 a cabinet (with its pseudo-channel), 1 reduction engine, 2 optimiser unit. -/
def State.beng (s : State) (st eng pch : Nat) : BEng :=
  let x := s.stack st
  match eng with
  | 0 => tget {} x.cabs pch
  | 1 => x.red
  | _ => x.opt

def State.setBeng (s : State) (st eng pch : Nat) (e : BEng) : State :=
  let x := s.stack st
  s.setStack st (match eng with
    | 0 => { x with cabs := tset {} x.cabs pch e }
    | 1 => { x with red := e }
    | _ => { x with opt := e })

/-- A command enters; the last 64 states are kept. -/
def BEng.accept (e : BEng) (c : BCmd) : BEng :=
  let k := (e.count + 1) % 2 ^ 21
  { e with q := e.q ++ [{ c with count := k }], count := e.count + 1, hist := ((k, 0, 0, 0) :: e.hist).take 64 }

def BEng.setState (e : BEng) (k : Nat) (st trap : Byte) (f : BitVec 6) : BEng :=
  { e with hist := e.hist.map (fun h => if h.1 = k then (k, st, trap, f) else h) }

/-- The head command leaves with a state. -/
def BEng.finish (e : BEng) (st trap : Byte) (f : BitVec 6) : BEng :=
  match e.q with
  | [] => e
  | c :: t => ({ e with q := t } : BEng).setState c.count st trap f

/-- The flag store of a command: the trap of a store that faults (R197). -/
def State.flagStore (s : State) (d : Nat) (a v : Word) : State × Option Nat :=
  match s.locate d none a .st false with
  | .error t => (s, some t.code)
  | .ok loc =>
    if loc.tgt = 2 ∧ s.inShadow loc.die loc.ring loc.node loc.off 8 then (s, some tACCESS)
    else ((s.noteXlate d none loc).writeLoc loc (leBytes 8 v.toNat), none)

/-- The head command has written its last granule: it releases its flag and is done, or faulted (R226). -/
def State.endBase (s : State) (st eng pch : Nat) (c : BCmd) : State :=
  match c.flag with
  | none => s.setBeng st eng pch ((s.beng st eng pch).finish 1 0 c.flags)
  | some (a, v) =>
    let (s, t) := s.flagStore c.die a v
    s.setBeng st eng pch (match t with
      | some code => (s.beng st eng pch).finish 2 (BitVec.ofNat 8 code) 0
      | none => (s.beng st eng pch).finish 1 0 c.flags)

/-- Bytes of one 64 B granule of the written plane, stored as one step; one that is written whole loses its poison (R246). -/
def State.storeGran (s : State) (g : Nat) (slot : Nat) (l : List (Nat × Byte)) : State :=
  let s := (s.rekey (64 * g) (some slot)).putAt l
  if (List.range 64).all (fun i => l.any (fun e => e.1 == 64 * g + i)) then s.heal (64 * g) 64 else s

/-- The elements that granule `g` has still to compute: one that straddles may have been computed with its other granule. -/
def BCmd.fresh (c : BCmd) (g : Nat) : List Nat :=
  (c.span g).filter (fun i => !(c.carry.any (fun e => e.1 == i && e.2.1 / 64 == c.first / 64 + g)))

/-- Granule `g` meets an uncorrectable error. -/
def State.granBad (s : State) (c : BCmd) (g : Nat) : Bool := (c.fresh g).any (fun i => s.opPoison c i)

/-- What the engine finds in the operands of some elements: of stores that are not yet performed for it, either side (R207, log 5).
The first state holds it, the second is the package. -/
def State.baseView (s : State) (c : BCmd) (l : List Nat) : State × State :=
  (l.flatMap c.readsOf).foldl (fun (t : State × State) r =>
    let k := (c.op r.1).1 + r.2.1
    let now := t.2.plainBytes k (some (c.op r.1).2) r.2.2
    let (b, s) := t.2.lookBack none false k (some (c.op r.1).2) now
    (if b = now then t.1 else t.1.putBytes k b, s)) (s, s)

/-- One granule step: its elements are read and computed, then written (R196, R198, R225). -/
def State.granuleStep (s : State) (c : BCmd) (g : Nat) : State × BCmd :=
  let at_ := c.first / 64 + g
  let mine (e : Nat × Nat × Byte) : Bool := e.2.1 / 64 == at_
  let (v, s) := s.baseView c (c.fresh g)
  let rs := (c.fresh g).map (fun i => (i, v.opResult c i))
  let w0 := rs.flatMap (fun r => r.2.1.flatMap (fun w =>
    if w.1 = 0 then w.2.2.mapIdx (fun j b => (r.1, c.first + w.2.1 + j, b)) else []))
  let s := (c.fresh g).foldl (fun s i => (c.readsOf i).foldl (fun s r => s.reopenRow ((c.op r.1).1 + r.2.1)) s) s
  let s := (rs.foldl (fun s r => r.2.1.foldl (fun s w => s.reopenRow ((c.op w.1).1 + w.2.1)) s)) s
  let s := rs.foldl (fun s r => r.2.1.foldl (fun s w =>
    if w.1 = 0 then s else s.store ((c.op w.1).1 + w.2.1) (some (c.op w.1).2) w.2.2) s) s
  let s := s.storeGran at_ (c.op 0).2 (((c.carry ++ w0).filter mine).map (·.2))
  (s, { c with flags := rs.foldl (fun f r => f ||| r.2.2) c.flags, carry := (c.carry ++ w0).filter (fun e => !mine e) })

/-- The head command of an engine does the granules that it has left for later (R195): an uncorrectable error that arises in one of
them finds it done. -/
def State.catchUp (s : State) (st eng pch : Nat) : State :=
  match (s.beng st eng pch).q with
  | [] => s
  | c :: t =>
    let (s, c) := c.skipped.foldl (fun (p : State × BCmd) g => p.1.granuleStep p.2 g) (s, c)
    s.setBeng st eng pch { s.beng st eng pch with q := { c with skipped := [] } :: t }

/-- A granule that the head command of an engine has left for later reads bytes of the granule of `k`. -/
def BEng.leftAt (e : BEng) (k : Nat) : Bool :=
  match e.q with
  | [] => false
  | c :: _ => c.skipped.any (fun g => (c.fresh g).any (fun i => (c.readsOf i).any (fun r =>
      decide ((c.op r.1).1 + r.2.1 < granule k + 64 ∧ granule k < (c.op r.1).1 + r.2.1 + r.2.2))))

/-- Every engine that has left the granule of `k` for later does what it has left. -/
def State.catchUpAt (s : State) (k : Nat) : State :=
  s.stackTab.foldl (fun s e =>
    let s := if e.2.red.leftAt k then s.catchUp e.1 1 0 else s
    let s := if e.2.opt.leftAt k then s.catchUp e.1 2 0 else s
    e.2.cabs.foldl (fun s b => if b.2.leftAt k then s.catchUp e.1 0 b.1 else s) s) s

/-- The granule an engine does next, or (`none`) that it leaves the lowest for later: no order is promised (R225), but a
granule with an uncorrectable error waits for those below it (R195). -/
def State.nextGran (s : State) (c : BCmd) : Option (Nat × List Nat × Nat) :=
  let bad := s.granBad c c.pos
  if c.skipped ≠ [] ∧ (c.granules ≤ c.pos ∨ bad ∨ Config.freeBit s.freeCtr) then
    let j := Config.freeNat (s.freeCtr + 1) % c.skipped.length
    some ((c.skipped[j]?).getD 0, c.skipped.eraseIdx j, c.pos)
  else if c.pos + 1 < c.granules ∧ !bad ∧ Config.freeBit (s.freeCtr + 2) then none
  else some (c.pos, c.skipped, c.pos + 1)

/-- One step of the head command of an engine: a granule, or its end. -/
def State.baseStep (s : State) (st eng pch : Nat) : State :=
  let e := s.beng st eng pch
  match e.q with
  | [] => s
  | c :: t =>
    if c.granules ≤ c.pos ∧ c.skipped = [] then s.endBase st eng pch c
    else
      let s' : State := { s with freeCtr := s.freeCtr + 3 }
      match s.nextGran c with
      | none => s'.setBeng st eng pch { e with q := { c with pos := c.pos + 1, skipped := c.skipped ++ [c.pos] } :: t }
      | some (g, skipped, pos) =>
        if s.granBad c g then s'.setBeng st eng pch (e.finish 2 (BitVec.ofNat 8 tECC) 0)
        else
          let (s, c) := s'.granuleStep c g
          let c := { c with skipped, pos }
          let s := s.setBeng st eng pch { s.beng st eng pch with q := c :: t }
          if c.granules ≤ c.pos ∧ c.skipped = [] ∧ c.flag = none then s.endBase st eng pch c else s

end Sys2Proof.Machine
end

