-- ==== Sys2Proof/Machine/CoreMem.lean ====
section
/-! DEFINITION. Control-core loads, stores, atomics, WAITV and FENCE (R205 to R212, R255, R308, R355, R366). -/

namespace Sys2Proof.Machine

/-- Bytes of an M-form access (R308). -/
def accessLen (w sz : BitVec 2) : Nat := if w = 0 then 2 ^ sz.toNat else 8 * 2 ^ w.toNat

/-- Its address. -/
def State.accessAddr (s : State) (base : BitVec 6) (sz : BitVec 2) (off : BitVec 4) : Word :=
  s.cc.get base + BitVec.ofNat 64 (off.toNat * 2 ^ sz.toNat)

/-- An access of `n` bytes at an aligned address, or ALIGN. -/
def aligned (s : State) (a : Word) (n : Nat) (f : Except Trap State) : Out :=
  if a.toNat % n ≠ 0 then .next (s.trapHere ⟨tALIGN, a⟩) else orTrap s f

/-- LD (R308). -/
def execLd (w : BitVec 2) (d base : BitVec 6) (sz : BitVec 2) (off g : BitVec 4) (s : State) : Out :=
  guarded s g (fun s =>
    let n := accessLen w sz
    let a := s.accessAddr base sz off
    aligned s a n (match s.loadBytes s.cdie a n with
      | .error t => .error t
      | .ok (l, s') =>
        .ok (s'.setCc (if w = 0 then s'.cc.set d (leWord l) else s'.cc.setN d (bytesWords (2 ^ w.toNat) l))).adv))

/-- ST (R355). -/
def execSt (w : BitVec 2) (t base : BitVec 6) (sz : BitVec 2) (off g : BitVec 4) (s : State) : Out :=
  guarded s g (fun s =>
    let n := accessLen w sz
    let a := s.accessAddr base sz off
    let l := if w = 0 then leBytes n (s.cc.get t).toNat else wordsBytes (s.cc.getN t (2 ^ w.toNat))
    aligned s a n (match s.storeBytes s.cdie a l with
      | .error t => .error t
      | .ok s' => .ok s'.adv))

/-- A store of the core in flight that an access on path `p` must not pass touches the location (R207). -/
def State.inFlight (s : State) (d : Nat) (p : Nat) (loc : Loc) (n : Nat) : Bool :=
  (s.core d).stq.any (fun e => e.on p && e.loc.tgt == loc.tgt &&
    decide (e.loc.key < loc.key + n ∧ loc.key < e.loc.key + e.bytes.length))

/-- One atomic (R255): `f old` is the new value, `none` writes nothing. It waits for the core's own store in flight to
the location on its path. -/
def atomic (z : BitVec 2) (d ar : BitVec 6) (g : BitVec 4) (s : State) (f : State → Nat → Nat → Option Nat) : Out :=
  guarded s g (fun s =>
    let n := if z = 2 then 4 else 8
    let a := s.cc.get ar
    if a.toNat % n ≠ 0 then .next (s.trapHere ⟨tALIGN, a⟩)
    else match s.locate s.cdie none a .amo s.cc.smode with
      | .error t => .next (s.trapHere t)
      | .ok loc =>
        if s.inFlight s.cdie (pathOf a) loc n then .next s
        else match s.readLoc loc a n with
          | .error t => .next (s.trapHere t)
          | .ok l =>
            let old := leNat l
            let s := ((s.noteXlate s.cdie none loc).noteHostRead s.cdie (pathOf a)).cacheDrop s.cdie (pathOf a) loc
            let s := match f s (8 * n) old with
              | some v => s.writeLoc loc (leBytes n v)
              | none => s
            .next (s.ret d (BitVec.ofNat 64 old)))

/-- The operand of n bits. -/
def State.opnd (s : State) (r : BitVec 6) (n : Nat) : Nat := (s.cc.get r).toNat % 2 ^ n

/-- AMADD (R255). -/
def execAmadd (z : BitVec 2) (d a t : BitVec 6) (g : BitVec 4) (s : State) : Out :=
  atomic z d a g s (fun s n old => some ((old + s.opnd t n) % 2 ^ n))
/-- AMAND (R255). -/
def execAmand (z : BitVec 2) (d a t : BitVec 6) (g : BitVec 4) (s : State) : Out :=
  atomic z d a g s (fun s n old => some (old &&& s.opnd t n))
/-- AMOR (R255). -/
def execAmor (z : BitVec 2) (d a t : BitVec 6) (g : BitVec 4) (s : State) : Out :=
  atomic z d a g s (fun s n old => some (old ||| s.opnd t n))
/-- AMMIN (R255): signed. -/
def execAmmin (z : BitVec 2) (d a t : BitVec 6) (g : BitVec 4) (s : State) : Out :=
  atomic z d a g s (fun s n old => some (if ival n (s.opnd t n) < ival n old then s.opnd t n else old))
/-- AMMAX (R255): signed. -/
def execAmmax (z : BitVec 2) (d a t : BitVec 6) (g : BitVec 4) (s : State) : Out :=
  atomic z d a g s (fun s n old => some (if ival n old < ival n (s.opnd t n) then s.opnd t n else old))
/-- AMXCH (R255). -/
def execAmxch (z : BitVec 2) (d a t : BitVec 6) (g : BitVec 4) (s : State) : Out :=
  atomic z d a g s (fun s n _ => some (s.opnd t n))
/-- AMCAS (R255): expected value in the even register, new value in the odd one. -/
def execAmcas (z : BitVec 2) (d a t : BitVec 6) (g : BitVec 4) (s : State) : Out :=
  atomic z d a g s (fun s n old => if old = s.opnd t n then some (s.opnd (t + 1) n) else none)

/-- The condition under which WAITV waits (R129). -/
def waitHolds (z : BitVec 2) (v x : Word) : Bool :=
  match z.toNat with
  | 0 => v == x
  | 1 => v != x
  | 2 => v.ult x
  | _ => !v.ult x

/-- WAITV (R366): one read; the instruction is executed again while the condition holds. -/
def execWaitv (z : BitVec 2) (d a t : BitVec 6) (g : BitVec 4) (s : State) : Out :=
  guarded s g (fun s =>
    let p := s.cc.get a
    if p.toNat % 8 ≠ 0 then .next (s.trapHere ⟨tALIGN, p⟩)
    else if pathOf p = 2 ∨ pathOf p = 3 then .next (s.trapHere ⟨tACCESS, p⟩)
    else match s.loadBytes s.cdie p 8 true with
      | .error e => .next (s.trapHere e)
      | .ok (l, s') =>
        if waitHolds z (leWord l) (s.cc.get t) then .next s' else .next (s'.ret d (leWord l)))

/-! ### Fences (R208, R209, R161) -/

/-- Unbound stream commands of the core that are not complete (R216). -/
def Die.streamsBusy (x : Die) : Bool := x.engines.any (fun e => e.2.cmds.any (fun c => decide (c.kind < 3)))

/-- XN commands that are not complete. -/
def Die.commandsBusy (x : Die) : Bool := x.xns.any (fun e => !e.2.cmds.isEmpty || e.2.flight.any (fun f => f.cmd.isSome))

/-- Base-die commands of the core that are not complete. -/
def State.baseBusy (s : State) (d : Nat) : Bool :=
  let mine (e : BEng) : Bool := e.q.any (fun c => c.die == d)
  s.stackTab.any (fun e => e.2.cabs.any (fun c => mine c.2) || mine e.2.red || mine e.2.opt)

/-- A store in flight belongs to a set of members (R208): ST, and LINE on its path. -/
def PendSt.inSet (pset : BitVec 8) (e : PendSt) : Bool := pset.getLsbD 1 || pset.getLsbD 6 && pathOf e.addr == 5

/-- The unbound stream commands of a die that are not complete, as (engine, ticket). -/
def Die.streamCmds (x : Die) : List (Nat × Nat) :=
  x.engines.flatMap (fun e => (e.2.cmds.filter (fun c => decide (c.kind < 3))).map (fun c => (e.1, c.ticket)))

/-- The base-die commands of a core that are not complete, as (stack, engine, count): cabinets by their number, then the
reduction engine and the optimiser unit. -/
def State.baseCmds (s : State) (d : Nat) : List (Nat × Nat × Nat) :=
  let mine (st n : Nat) (e : BEng) : List (Nat × Nat × Nat) := (e.q.filter (fun c => c.die == d)).map (fun c => (st, n, c.count))
  s.stackTab.flatMap (fun e => e.2.cabs.flatMap (fun c => mine e.1 (2 + c.1) c.2) ++ mine e.1 0 e.2.red ++ mine e.1 1 e.2.opt)

/-- A command of an XN below a number is not complete. -/
def Xn.commandBelow (x : Xn) (n : Nat) : Bool :=
  (!x.cmds.isEmpty && decide (x.ncmd - x.cmds.length < n)) || x.flight.any (fun f => f.cmd.isSome && decide (f.cn < n))

/-- A fence over what the core has issued up to now. -/
def State.fenceNow (s : State) (d : Nat) (pset sset : BitVec 8) (scope : Nat) : Fence :=
  let x := s.die d
  { pset, sset, scope
    upto := x.core.stSeq
    strm := if pset.getLsbD 3 then x.streamCmds else []
    xmat := if pset.getLsbD 4 then x.xns.map (fun e => (e.1, e.2.ncmd)) else []
    nb := if pset.getLsbD 7 then s.baseCmds d else []
    since := none }

/-- A store or a token of the core below a number is not performed at a scope: in flight, or not yet seen by the dies (PKG and
LAUNCH) or by the host (SYS). -/
def State.storesLeft (s : State) (d upto : Nat) (pset : BitVec 8) (scope : Nat) : Bool :=
  (s.core d).stq.any (fun e => decide (e.seq < upto) && e.inSet pset) ||
  (pset.getLsbD 1 && s.dies.any (fun e => e.2.core.tokIn.any (fun t => t.src == d && decide (t.seq < upto)))) ||
  (pset.getLsbD 1 && decide (2 ≤ scope) && s.stale.any (fun e => e.die == d && decide (e.seq < upto) && (decide (4 ≤ scope) || !e.host)))

/-- Every predecessor access is performed; the core's loads and atomics are performed by then. A fence at CORE scope performs
the stores for the core alone. -/
def State.fenceStores (s : State) (d : Nat) (f : Fence) : Bool :=
  let x := s.die d
  !(decide (f.scope ≠ 0) && s.storesLeft d f.upto f.pset f.scope) && !f.strm.any (fun e => x.streamCmds.contains e) &&
  !f.xmat.any (fun e => (tget ({} : Xn) x.xns e.1).commandBelow e.2) && !f.nb.any (fun e => (s.baseCmds d).contains e)

/-- The data and constant caches of a core and the view cache of its die are emptied. -/
def State.dropCaches (s : State) (d : Nat) : State :=
  let x := s.die d
  s.setDie d { x with vcache := [], core := { x.core with dcache := [], ccache := [] } }

/-- Every store that has arrived at a node of a die is reflected in its derived regions. -/
def State.reflectDie (s : State) (d : Nat) : State :=
  let x := s.die d
  s.setDie d { x with derivs := x.derivs.map (fun e => (e.1, e.2.map (Derived.reflect x.g2 s.cycle))) }

/-- The dies whose nodes a scope covers. -/
def scopeDies (d scope : Nat) : List Nat := if scope = 0 then [] else if scope = 1 then [d] else List.range 8

/-- A fence of ST before DRV waits for the regions of exact latency to show what had arrived when its stores were performed
(R139, R161). -/
def State.derivsLate (s : State) (d : Nat) (f : Fence) : Bool :=
  f.pset.getLsbD 1 && f.sset.getLsbD 5 && (scopeDies d f.scope).any (fun k => (s.die k).derivs.any (fun e => match e.2 with
    | some x => s.late k (f.since.getD s.cycle) x
    | none => false))

/-- A load read early belongs to a set of successors (R208): LD, DRV and LINE on their paths. -/
def Early.inSet (sset : BitVec 8) (e : Early) : Bool :=
  sset.getLsbD 0 || sset.getLsbD 5 && e.path == 4 || sset.getLsbD 6 && e.path == 5

/-- What a completed fence does to loads read early, caches and derived regions. -/
def State.fenceEffect (s : State) (d : Nat) (f : Fence) : State :=
  let s := s.setCore d ((s.core d).dropEarly (Early.inSet f.sset))
  if f.scope = 0 then
    let c := s.core d
    s.setCore d { c with stq := c.stq.map (fun e => { e with core := e.core || (e.inSet f.pset && decide (e.seq < f.upto)) }) }
  else
    let s := if f.sset.getLsbD 0 then s.dropCaches d
      else if f.sset.getLsbD 3 then s.setDie d { s.die d with vcache := [] } else s
    if f.pset.getLsbD 1 && f.sset.getLsbD 5 then (scopeDies d f.scope).foldl State.reflectDie s else s

/-- A fence completes. -/
def State.fenceDone (s : State) (d : Nat) (f : Fence) : Bool := s.fenceStores d f && !s.derivsLate d f

/-- The fences of a core complete in program order (R289); the first that cannot yet notes since when its stores are performed. -/
def State.settleFences (s : State) (d : Nat) : State :=
  ((s.core d).fences.foldl (fun (t : State × Bool) f =>
    let s := t.1
    if t.2 then t
    else if s.fenceDone d f then ((s.setCore d { s.core d with fences := (s.core d).fences.tail }).fenceEffect d f, false)
    else if f.since.isNone && s.fenceStores d f then
      (s.setCore d { s.core d with fences := { f with since := some s.cycle } :: (s.core d).fences.tail }, true)
    else (s, true)) (s, false)).1

/-- FENCE (R208, R289): it completes at once, or holds back the accesses of its successor set until it does. -/
def execFence (pset sset : BitVec 8) (scope : BitVec 3) (s : State) : Out :=
  let f := s.fenceNow s.cdie pset sset scope.toNat
  if s.cc.fences.isEmpty && s.fenceDone s.cdie f then .next (s.fenceEffect s.cdie f).adv
  else .next (s.setCc { s.cc with fences := s.cc.fences ++ [f] }).adv

end Sys2Proof.Machine
end

