-- ==== Sys2Proof/Machine/CoreFabric.lean ====
section
/-! DEFINITION. Control-core instructions that steer the fabric and meet other cores: CFGL, CFGP, GO, DRAIN, PBAR, XCMD,
XWAIT, COLL (R175, R216, R247, R264, R265, R277, R295, R330, R378). -/

namespace Sys2Proof.Machine

/-- A status in bits 7:0 of D. -/
def State.status (s : State) (d : BitVec 6) (v : Nat) : State := s.ret d (BitVec.ofNat 64 v)

/-- The instruction has no further effect yet: it is executed again (R241). -/
def State.hold (s : State) (w : Wait) : State := s.setCc { s.cc with wait := w }

/-- The stall is over. -/
def State.unhold (s : State) : State := s.hold .none

/-! ### CFGL and CFGP (R264, R265) -/

/-- CFGL (R264). -/
def execCfgl (d r : BitVec 6) (g : BitVec 4) (s : State) : Out :=
  guarded s g (fun s =>
    let v := s.cc.get r
    let k := v.toNat % 256
    if v.toNat / 256 ≠ 0 then .next (s.status d 2)
    else if !(s.launchAt s.cdie).hasLoad k then .next (s.status d 3)
    else
      let s := s.setDie s.cdie { s.die s.cdie with prefetch := some k }
      .next ((s.setCc { s.cc with cfgl := true }).status d 1))

/-- CFGP (R265): the constant waits with the shadow set. -/
def execCfgp (d r : BitVec 6) (g : BitVec 4) (s : State) : Out :=
  guarded s g (fun s =>
    let x := s.die s.cdie
    let w0 := s.cc.get r
    let w1 := s.cc.get (r + 1)
    let ring := bitsOf w0 12 6
    let sl := bitsOf w0 6 6
    let z := bitsOf w0 0 3
    if x.prefetch.isSome then .next s
    else if bitsOf w0 18 46 ≠ 0 ∨ bitsOf w0 3 3 ≠ 0 ∨ bitsOf w1 32 32 ≠ 0 ∨ 6 ≤ z then .next (s.status d 2)
    else if !isCe sl ∨ slotsOf x.g2 ≤ sl ∨ ringsOf x.g2 ≤ ring then .next (s.status d 3)
    else
      let c := x.shd.ceCfg ring sl
      let c := { c with z := tset 0 c.z z (w1.setWidth 32), zset := c.zset ||| (1#6 <<< z) }
      let s := s.setDie s.cdie { x with shd := { x.shd with ce := tset {} x.shd.ce (ukey ring sl) c } }
      .next (s.status d 1))

/-! ### GO (R295) -/

/-- A command stages for the running load before its GO: it has begun, or its buffer is free (R111, R345, R354). -/
def State.stagesNow (s : State) (d : Nat) (c : SCmd) : Bool :=
  c.stage && !c.next && (decide (c.kind = 1) || c.started || (s.claimNow d c).isSome)

/-- GO may act: no token, no staging command, no store of the core in flight. -/
def State.goReady (s : State) (d : Nat) : Bool :=
  let x := s.die d
  x.token.isNone && x.core.stq.isEmpty && !x.engines.any (fun e => e.2.cmds.any (s.stagesNow d))

/-- The trees' counts and trip counts are read, the tree's iteration counters cleared, its regions sent GO, the root
started. DONE of a child cell stands until the child starts (R35). -/
def Die.goTree (x : Die) (k now : Nat) : Die :=
  let low (r : Nat) : Nat := (x.core.get (BitVec.ofNat 6 r)).toNat % 2 ^ 32
  let x := (x.treeCells 64 k).foldl (fun x c =>
    let (w0, _) := x.cell c
    x.setCellRun c { done := (x.cellRun c).done, n := if cellCountReg w0 then low (cellCount w0 % 64) else cellCount w0 }) x
  let x := (x.treeRegions k).foldl (fun x n =>
    match tget none x.act.rdesc n with
    | none => x
    | some desc =>
      x.setReg n { x.reg n with
        trip := if rTripReg desc then low (regionTrips desc % 64) else regionTrips desc
        goAt := some (now + 2)
        enables := 0 }) x
  ({ x with phase := true }).startCell k

/-- GO (R295). -/
def execGo (r : BitVec 6) (g : BitVec 4) (s : State) : Out :=
  guarded s g (fun s =>
    let x := s.die s.cdie
    let v := s.cc.get r
    let k := v.toNat % 64
    let (w0, _) := x.cell k
    if !s.goReady s.cdie then .next s
    else if v.toNat / 64 ≠ 0 ∨ cellKind w0 = 0 ∨ cellParent w0 ≠ k ∨ (x.cellRun k).active then
      .next (s.trapHere ⟨tSCHED, v⟩)
    else .next (s.setDie s.cdie (x.goTree k s.cycle)).adv)

/-! ### DRAIN (R277) -/

/-- A fence of every access over every later one at a scope, on its way (R215, R216). -/
def State.fenceAll (s : State) (scope : Nat) : State :=
  s.setCc { s.cc with fences := s.cc.fences ++ [s.fenceNow s.cdie 0xFF 0xFF scope] }

/-- Its effect once it is complete. -/
def State.afterAll (s : State) (scope : Nat) : State := s.fenceEffect s.cdie (s.fenceNow s.cdie 0xFF 0xFF scope)

/-- DRAIN: it issues the token, stalls until step 6 has completed and what the core issued before it is performed (R215),
and returns the flag summary. -/
def execDrain (d : BitVec 6) (g : BitVec 4) (s : State) : Out :=
  guarded s g (fun s =>
    let x := s.die s.cdie
    match s.cc.wait with
    | .drained f =>
      if s.cc.fences.isEmpty then .next ((s.unhold.afterAll 1).ret d (f.setWidth 64)) else .next s
    | .drain => .next s
    | _ =>
      if x.token.isSome then .next s
      else .next (((s.setDie s.cdie { x with token := some ⟨1, s.cycle⟩ }).fenceAll 1).hold .drain))

/-! ### PBAR (R216, R330) -/

/-- The control cores of the executing core's launch in this package. -/
def State.partners (s : State) : List Core := (s.localDies (s.launchAt s.cdie)).map (fun e => s.core e.2)

/-- PBAR (R330): each core is counted once, and all complete when every core has issued it and its accesses are performed. -/
def execPbar (g : BitVec 4) (s : State) : Out :=
  guarded s g (fun s =>
    let c := s.cc
    if c.wait ≠ .pbar then
      let s := s.fenceAll 3
      .next (s.setCc { s.cc with pbars := c.pbars + 1, wait := .pbar })
    else
      let l := s.launchAt s.cdie
      let dies := s.localDies l
      if dies.any (fun e => (s.core e.2).halted && decide ((s.core e.2).pbars < c.pbars)) ||
          (!s.isLocal l && Config.remoteHalted s.cycle c.pbars) then .next (s.trapHere ⟨tSCHED, 0⟩)
      else if dies.all (fun e => decide (c.pbars ≤ (s.core e.2).pbars) &&
          (decide ((s.core e.2).wait ≠ .pbar ∨ (s.core e.2).pbars ≠ c.pbars) || (s.core e.2).fences.isEmpty)) &&
          (s.isLocal l || Config.remoteReady s.cycle c.pbars) then
        .next (s.unhold.afterAll 3).adv
      else .next s)

/-! ### XCMD and XWAIT (R175, R378) -/

/-- XN entries that the G2 profile lacks (R367). -/
def dendritic (i : Instr) : Bool :=
  match i with
  | .xdnd _ _ _ _ _ _ _ => true
  | .xdfin _ _ _ _ _ _ => true
  | .xdbx _ _ _ _ _ _ _ => true
  | .xdbw _ _ _ _ _ _ _ => true
  | .xtrq _ _ => true
  | _ => false

/-- An entry XCMD accepts: neither XNOP nor illegal. -/
def commandOk (g2 : Bool) (w : Word) : Bool :=
  match xnInstr w with
  | none => false
  | some .xnop => false
  | some i => !(g2 && dendritic i)

/-- XCMD (R175): it stalls while the XN's queue of 4 is full. -/
def execXcmd (d r : BitVec 6) (g : BitVec 4) (s : State) : Out :=
  guarded s g (fun s =>
    let x := s.die s.cdie
    let dsc := s.cc.get r
    let w := s.cc.get (r + 1)
    let ring := bitsOf dsc 3 6
    let sl := 6 * bitsOf dsc 0 3 + 3
    if bitsOf dsc 26 38 ≠ 0 ∨ bitsOf dsc 9 5 ≠ 0 ∨ !commandOk x.g2 w then .next (s.status d 2)
    else if (x.act.regionAt ring).isNone ∨ slotsOf x.g2 ≤ sl then .next (s.status d 3)
    else
      let n := s.xn s.cdie ring sl
      if 4 ≤ n.cmds.length then .next s
      else
        let s := s.setXn s.cdie ring sl { n with cmds := n.cmds ++ [(dsc, w)], ncmd := n.ncmd + 1 }
        let c := s.cc
        let s := if dsc.getLsbD 25 then s.setCc { c with slots := c.slots &&& ~~~(1#8 <<< bitsOf dsc 22 3) } else s
        .next (s.status d 1))

/-- XWAIT (R175, R378): a slot of the mask once seen set stays seen. -/
def execXwait (r : BitVec 6) (g : BitVec 4) (s : State) : Out :=
  guarded s g (fun s =>
    let c := s.cc
    let m : Byte := match c.wait with
      | .xwait m => m
      | _ => (c.get r).setWidth 8
    let left := m &&& ~~~c.slots
    if left = 0 then .next s.unhold.adv else .next (s.hold (.xwait left)))

/-! ### COLL (R247) -/

def collCount (w : Word) : Nat := bitsOf w 16 16
def collKind (w : Word) : Nat := bitsOf w 0 2
def collSize (w : Word) : Nat := if collKind w = 1 then 16 else 4

/-- Bytes of a participant's buffer, for N dies. -/
def collBytes (n : Nat) (w : Word) : Nat := (if collKind w = 3 then n else 1) * collCount w * collSize w

/-- Bytes of the page that a leaf translates. -/
def pageBytes (e : Word) (lvl : Nat) : Nat := if lvl = 1 then 2 ^ 27 else if e.getLsbD 7 then 2 ^ 21 else 2 ^ 15

/-- Where a participant's buffer lies, or the status of its first failing check. -/
def State.collLoc (s : State) (d : Nat) (a w : Word) : Except Nat Loc :=
  let n := collBytes (s.launchAt d).dieCount w
  if bitsOf w 32 32 ≠ 0 ∨ bitsOf w 2 14 ≠ 0 ∨ collCount w = 0 ∨ 4096 < collCount w ∨ a.toNat % collSize w ≠ 0 then .error 2
  else if pathOf a ≠ 0 ∧ pathOf a ≠ 1 then .error 3
  else match s.locate d none a .amo (s.core d).smode with
    | .error _ => .error 3
    | .ok loc =>
      let room := match loc.pte with
        | some (_, e, lvl) => pageBytes e lvl - bitsOf a 0 48 % pageBytes e lvl
        | none => nodeSize (s.die d).g2 - loc.off
      if room < n then .error 3 else .ok loc

/-- The place of a byte at an offset of a participant's buffer, which lies in one node or under one leaf. -/
def State.collSpot (s : State) (d : Nat) (a : Word) (loc : Loc) (o : Nat) : Loc :=
  match loc.pte with
  | none => { loc with key := loc.key + o, off := loc.off + o }
  | some (_, e, lvl) =>
    match s.physLoc d (s.launchAt d) (leafAddr e lvl (bitsOf (a + BitVec.ofNat 64 o) 0 48)) (bitsOf e 10 10) false with
    | .ok l => l
    | .error _ => loc

/-- A buffer touches shadow storage (R149). -/
def State.collShadow (s : State) (d : Nat) (a w : Word) : Bool :=
  match s.collLoc d a w with
  | .ok loc => (List.range (collBytes (s.launchAt d).dieCount w / collSize w)).any (fun i =>
    let l := s.collSpot d a loc (i * collSize w)
    l.tgt == 2 && s.inShadow l.die l.ring l.node l.off (collSize w))
  | .error _ => false

/-- The precise fault of S1: a translation fault, a NODE address that breaks its path (R247), or shadow storage in the buffer
(R149). -/
def State.collTrap (s : State) (d : Nat) (a w : Word) : Option Trap :=
  if s.collShadow d a w then some ⟨tACCESS, a⟩
  else if pathOf a = 0 ∨ pathOf a = 1 ∧ (s.physDie (s.launchAt d) (bitsOf a 54 6)).isSome then
    match s.locate d none a .amo (s.core d).smode with
    | .error t => some t
    | .ok _ => none
  else none

/-- COLL: it is counted once the core's stores are performed, and completes with the collective. -/
def execColl (d r x : BitVec 6) (g : BitVec 4) (s : State) : Out :=
  guarded s g (fun s =>
    let c := s.cc
    let a := c.get r
    match c.wait with
    | .collDone st => .next ((s.unhold.fenceEffect s.cdie (s.fenceNow s.cdie 3 3 3)).ret d (st.setWidth 64))
    | .coll =>
      if (s.partners).any (fun p => p.halted && decide (p.colls < c.colls)) ||
          (!s.isLocal (s.launchAt s.cdie) && Config.remoteHalted s.cycle c.colls) then .next (s.trapHere ⟨tSCHED, 0⟩)
      else .next s
    | _ =>
      match s.collTrap s.cdie a (c.get x) with
      | some t => .next (s.trapHere t)
      | none =>
        if !s.fenceDone s.cdie (s.fenceNow s.cdie 3 3 3) then .next s
        else .next (s.setCc { c with colls := c.colls + 1, collArgs := (a, c.get x), wait := .coll }))

end Sys2Proof.Machine
end

