-- ==== Sys2Proof/Machine/CoreBase.lean ====
section
/-! DEFINITION. Control-core instructions on drawers and base-die engines: ROPEN, RCLOSE, NBOP, NBRED, OPTM, NBSTAT (R188,
R189, R194, R195, R202, R320 to R325, R338, R343). -/

namespace Sys2Proof.Machine

/-! ### Drawers -/

/-- DRW of a launch for a stack (R15). -/
def Launch.drw (x : Launch) (st : Nat) : Nat := bitsOf (x.word 3) (8 * st) 8

/-- A drawer slot is held or reserved. -/
def Drawer.used (x : Drawer) : Bool := x.row.isSome || x.resv

/-- Drawers a launch uses on a stack. -/
def State.drawersUsed (s : State) (l st : Nat) : Nat :=
  ((s.stack st).drawers.filter (fun e => e.2.used && e.2.owner == l)).length

/-- The four slots of a bank. -/
def State.bankSlots (s : State) (st pch bank : Nat) : List Drawer :=
  (List.range 4).map (fun i => tget {} (s.stack st).drawers (drawerKey pch bank i))

def handleOf (pch bank slot gen : Nat) : Nat := pch * 2 ^ 10 + bank * 2 ^ 6 + slot * 2 ^ 4 + gen

/-- The row an address of ROPEN names, with the key of its page: `none` outside a CCAP page; a trap comes first (R189). -/
def State.rowAddr (s : State) (a : Word) : Except Trap (Option (Nat × Nat)) :=
  let sm := s.cc.smode
  if pathOf a = 6 then
    if !sm then .error ⟨tPRIV, a⟩
    else if bitsOf a 40 20 ≠ 0 then .error ⟨tACCESS, a⟩
    else .ok (if bitsOf a 39 1 = 1 then some (bitsOf a 0 39, 0) else none)
  else if pathOf a = 0 then
    match s.genLoc s.cdie none a .ld sm with
    | .error t => .error t
    | .ok loc => .ok ((s.opndAt s.cdie false a .ld).map (fun o => (loc.key - 2 ^ 60, o.key)))
  else .ok none

/-- The result of opening a row: D and the state (R189, R201, R343). -/
def State.openRow (s : State) (l lin key : Nat) (keep : Bool) : Nat × State :=
  let st := linStack lin
  let pch := linPch lin
  let bank := linBank lin
  let row := linRow lin
  let slots := s.bankSlots st pch bank
  match (List.range 4).find? (fun i => decide (((slots[i]?).getD {}).row = some row ∧ ((slots[i]?).getD {}).owner = l) &&
      !((slots[i]?).getD {}).resv) with
  | some i => (6 + handleOf pch bank i ((slots[i]?).getD {}).gen.toNat * 2 ^ 16, s)
  | none =>
    if (s.launch l).drw st ≤ s.drawersUsed l st then (4, s)
    else if slots.any (fun x => match x.row with
        | some r => subarray r == subarray row
        | none => false) then (5, s)
    else match (List.range 4).find? (fun i => !((slots[i]?).getD {}).used) with
      | none => (5, s)
      | some i =>
        let x : Drawer := (slots[i]?).getD {}
        let y := s.stack st
        let z : Drawer := { gen := x.gen, row := some row, owner := l, key, keep }
        (1 + handleOf pch bank i x.gen.toNat * 2 ^ 16,
          s.setStack st { y with drawers := tset {} y.drawers (drawerKey pch bank i) z })

/-- ROPEN (R189, R343). -/
def execRopen (d r x : BitVec 6) (g : BitVec 4) (s : State) : Out :=
  guarded s g (fun s =>
    let a := s.cc.get r
    let f := s.cc.get x
    match s.rowAddr a with
    | .error t => .next (s.trapHere t)
    | .ok o =>
      if f.toNat / 2 ≠ 0 then .next (s.status d 2)
      else match o, s.launchOf s.cdie with
        | some (lin, key), some l =>
          let (v, s') := s.openRow l lin key (f.getLsbD 0)
          .next (s'.ret d (BitVec.ofNat 64 v))
        | _, _ => .next (s.status d 3))

/-- A cabinet command reads or writes bytes of a row. -/
def BCmd.touches (c : BCmd) (lo : Nat) : Bool :=
  decide (c.kind = 0) && c.ops.zipIdx.any (fun o =>
    decide (lo < o.1.1 + c.elems * codeBytes (if o.2 = 0 then nbDstCode c.blk else nbCode c.blk) ∧ o.1.1 < lo + 1024))

/-- A store of a core in flight lands in a row. -/
def State.storesTo (s : State) (d lo : Nat) : Bool :=
  (s.core d).stq.any (fun e => decide (e.loc.tgt = 0 ∧ lo < e.loc.key + e.bytes.length ∧ e.loc.key < lo + 1024))

/-- RCLOSE (R189, R338): it waits for the core's own accesses to the drawer and for cabinet commands on it. -/
def execRclose (r : BitVec 6) (g : BitVec 4) (s : State) : Out :=
  guarded s g (fun s =>
    let a := s.cc.get r
    let st := bitsOf a 57 3
    let h := bitsOf a 40 16
    if pathOf a ≠ 5 ∨ bitsOf a 56 1 ≠ 0 ∨ bitsOf a 10 30 ≠ 0 then .next (s.trapHere ⟨tACCESS, a⟩)
    else match s.launchOf s.cdie with
      | none => .next (s.trapHere ⟨tLINE, a⟩)
      | some l =>
        match s.heldRow l st h with
        | none => .next (s.trapHere ⟨tLINE, a⟩)
        | some x =>
          let lo := stackKey (linAt st (hPch h) (hBank h) (x.row.getD 0) 0)
          if s.storesTo s.cdie lo ∨ (s.beng st 0 (hPch h)).q.any (fun c => c.touches lo) then .next s
          else
            let y := s.stack st
            .next (s.setStack st { y with
              drawers := tset {} y.drawers (drawerKey (hPch h) (hBank h) (hSlot h)) x.freed }).adv)

/-! ### Commands (R194, R202, R320) -/

/-- What the checks of a block end in. -/
inductive Checked where
  | ok (ops : List Opnd)
  | status (n : Nat)
  /-- status 4, with the first crossing address -/
  | rej (a : Word)

/-- Ranges [a, a + n) and [b, b + m) overlap. -/
def rangesMeet (a n b m : Nat) : Bool := decide (0 < n ∧ 0 < m ∧ a < b + m ∧ b < a + n)

/-- They overlap other than exactly. -/
def badOverlap (a n b m : Nat) : Bool := rangesMeet a n b m && !(decide (a = b ∧ n = m))

/-- Ranges of two operands of a block, by address and by place: as addresses they overlap as they stand (R225), as places only within
the region or the drawer of each. -/
def State.operandsMeet (s : State) (d : Nat) (exact : Bool) (a : Word) (n : Nat) (b : Word) (m : Nat) : Bool :=
  let f := if exact then badOverlap else rangesMeet
  let clip (x : Word) (k : Nat) : Nat :=
    if pathOf x = 0 then min k (2 ^ 21 - s.placeKey d x % 2 ^ 21) else if pathOf x = 5 then min k (1024 - bitsOf x 0 10) else k
  f a.toNat n b.toNat m || f (s.placeKey d a) (clip a n) (s.placeKey d b) (clip b m)

/-- The first operand (address, bytes) whose last byte lies beyond its region, as the first address beyond. -/
def crossing (l : List (Word × Nat × Opnd)) : Option Word :=
  l.findSome? (fun e => if e.2.2.stop < e.2.2.lin + e.2.1 then some (e.1 + BitVec.ofNat 64 (e.2.2.stop - e.2.2.lin)) else none)

/-- Checks 0x03 and 0x04 over operands of given sizes and uses; `same` says when two operands go together. -/
def State.opChecks (s : State) (d : Nat) (line : Bool) (l : List (Word × Nat × Use)) (same : Opnd → Opnd → Bool) : Checked :=
  let os := l.map (fun e => (e.1, e.2.1, s.opndAt d line e.1 e.2.2))
  if os.any (fun e => e.2.2.isNone) then .status 3
  else
    let os := os.filterMap (fun e => e.2.2.map (fun o => (e.1, e.2.1, o)))
    match crossing os with
    | some a => .rej a
    | none => match os with
      | [] => .ok []
      | (_, _, o) :: t => match t.find? (fun e => !same o e.2.2) with
        | some e => .rej e.1
        | none => .ok (os.map (·.2.2))

/-- The operands of an NBOP (address, bytes, use), destination first (R321); FMA reads its destination. -/
def nbOps (b : List Word) : List (Word × Nat × Use) :=
  let n := nbCount b * codeBytes (nbCode b)
  let dst := (blkWord b 0, nbCount b * codeBytes (nbDstCode b), if nbOpc b = 2 then Use.amo else Use.st)
  if nbOpc b < 3 then [dst, (blkWord b 1, n, .ld), (blkWord b 2, n, .ld)] else [dst, (blkWord b 1, n, .ld)]

def State.nbCheck (s : State) (d : Nat) (b : List Word) : Checked :=
  let l := nbOps b
  let sz (i : Nat) : Nat := codeBytes (if i = 0 then nbDstCode b else nbCode b)
  let dst := (l[0]?).getD (0, 0, .st)
  if bitsOf (blkWord b 3) 38 26 ≠ 0 ∨ 5 ≤ nbOpc b ∨ 2 ≤ bitsOf (blkWord b 3) 32 2 ∨
      (nbOpc b = 3 ∧ bitsOf (blkWord b 2) 32 32 ≠ 0) ∨ (nbOpc b = 4 ∧ blkWord b 2 ≠ 0) ∨
      (l.zipIdx.any (fun e => decide (e.1.1.toNat % sz e.2 ≠ 0))) ∨
      ((l.drop 1).any (fun e => s.operandsMeet d true dst.1 dst.2.1 e.1 e.2.1)) then .status 2
  else s.opChecks d true l (fun a b => decide (a.region = b.region))

/-- A flag address that is refused with 0x02: misaligned, or on another path (R197, R325). -/
def flagBad (a : Word) : Bool := decide (a ≠ 0 ∧ (a.toNat % 8 ≠ 0 ∨ (pathOf a ≠ 0 ∧ pathOf a ≠ 1)))

def State.rdCheck (s : State) (d : Nat) (b : List Word) : Checked :=
  let sz := codeBytes (rdCode b)
  let n := blkCount b * sz
  let srcs := (List.range (rdSources b)).map (rdSource b)
  let dst := blkWord b 1
  let flag := blkWord b 4
  let w0 := blkWord b 0
  if bitsOf w0 40 24 ≠ 0 ∨ bitsOf w0 6 1 ≠ 0 ∨ bitsOf w0 4 2 = 3 ∨ bitsOf w0 0 4 = 0 ∨ blkWord b 6 ≠ 0 ∨ blkWord b 7 ≠ 0 ∨
      flagBad flag ∨ dst.toNat % sz ≠ 0 ∨ srcs.any (fun a => decide (a.toNat % sz ≠ 0)) ∨
      srcs.any (fun a => s.operandsMeet d true dst n a n) ∨
      (srcs.zipIdx.any (fun e => srcs.zipIdx.any (fun f => decide (e.2 < f.2) && s.operandsMeet d false e.1 n f.1 n))) ∨
      (flag ≠ 0 ∧ (dst :: srcs).any (fun a => s.operandsMeet d false flag 8 a n)) then .status 2
  else s.opChecks d false ((dst, n, .st) :: srcs.map (fun a => (a, n, .ld))) (fun a b => decide (linStack a.lin = linStack b.lin))

/-- The planes an OPTM block uses. -/
def opPlanes (b : List Word) : List Nat :=
  (List.range 5).filter (fun p => !(decide (p = 3 ∧ opKind b = 0)) && !(decide (p = 4 ∧ opBase b 4 = 0)))

/-- Bytes of a plane's range. -/
def planeRange (b : List Word) (p : Nat) : Nat :=
  if blkCount b = 0 then 0 else (blkCount b - 1) * opStride b p + codeBytes (opFmt b p)

/-- Some element of one plane overlaps an element of another, both of `n` elements (base, stride, element size). -/
def planesMeet (n : Nat) (a b : Nat × Nat × Nat) : Bool :=
  (List.range n).any (fun i =>
    let x := a.1 + i * a.2.1
    let j0 := (x - b.1) / max b.2.1 1
    [j0, j0 + 1].any (fun j => decide (j < n ∧ x < b.1 + j * b.2.1 + b.2.2 ∧ b.1 + j * b.2.1 < x + a.2.2)))

/-- Place, stride and element size of a plane. -/
def State.planeShape (s : State) (d : Nat) (b : List Word) (p : Nat) : Nat × Nat × Nat :=
  (s.placeKey d (opBase b p), opStride b p, codeBytes (opFmt b p))

/-- What the unit does to a plane: it reads the gradient, writes the weights, and both to the others. -/
def planeUse (b : List Word) (p : Nat) : Use := if p = 1 then .ld else if p = 0 ∧ opBase b 4 ≠ 0 then .st else .amo

def opFmtOk (b : List Word) (p : Nat) : Bool :=
  match p with
  | 0 => decide (opFmt b 0 ≤ 2)
  | 1 => decide (opFmt b 1 ≤ 2)
  | 4 => decide (opFmt b 4 = 0)
  | p => decide (opFmt b p = 0 ∨ opFmt b p = 2)

def State.opCheck (s : State) (d : Nat) (b : List Word) : Checked :=
  let w0 := blkWord b 0
  let ps := opPlanes b
  let shape := s.planeShape d b
  if bitsOf w0 40 24 ≠ 0 ∨ bitsOf w0 3 5 ≠ 0 ∨ 2 ≤ opKind b ∨ bitsOf (blkWord b 6) 60 4 ≠ 0 ∨ bitsOf (blkWord b 7) 20 44 ≠ 0 ∨
      bitsOf (blkWord b 13) 32 32 ≠ 0 ∨ blkWord b 14 ≠ 0 ∨ blkWord b 15 ≠ 0 ∨ (List.range 5).any (fun p => !opFmtOk b p) ∨
      (opKind b = 0 ∧ opBase b 3 ≠ 0) ∨ ps.any (fun p => decide (opStride b p < codeBytes (opFmt b p))) ∨
      ps.any (fun p => decide ((opBase b p).toNat % codeBytes (opFmt b p) ≠ 0)) ∨ flagBad (blkWord b 8) ∨
      ps.any (fun p => ps.any (fun q => decide (p < q) && shape p != shape q && planesMeet (blkCount b) (shape p) (shape q))) then .status 2
  else if ps.any (fun p => decide (opBase b p = 0)) then .status 3
  else s.opChecks d false (ps.map (fun p => (opBase b p, planeRange b p, planeUse b p))) (fun a b => decide (linStack a.lin = linStack b.lin))

/-- The operands of an accepted command as (memory key, key slot); an OPTM lists one per plane. -/
def opsOf (kind : Nat) (b : List Word) (os : List Opnd) : List (Nat × Nat) :=
  let f (o : Opnd) : Nat × Nat := (stackKey o.lin, o.key)
  if kind = 2 then
    let z := (opPlanes b).zip os
    (List.range 5).map (fun p => match z.find? (fun e => e.1 == p) with
      | some e => f e.2
      | none => (0, 0))
  else os.map f

/-- The ticket of an engine's command (R194). -/
def ticketOf (st pch eng count : Nat) : Nat := st * 2 ^ 29 + pch * 2 ^ 23 + eng * 2 ^ 21 + count % 2 ^ 21

/-- The command is queued, or done at once when it has no element and nothing of this core is before it (R194). -/
def State.enqueue (s : State) (st eng pch : Nat) (c : BCmd) : State :=
  let e := s.beng st eng pch
  let before := e.q.any (fun b => b.die == c.die)
  let s := s.setBeng st eng pch (e.accept c)
  if c.elems = 0 ∧ !before then
    let e' := s.beng st eng pch
    match e'.q.getLast? with
    | none => s
    | some c' =>
      let rest := e'.q.dropLast
      let s := (s.setBeng st eng pch { e' with q := [c'] }).endBase st eng pch c'
      s.setBeng st eng pch { s.beng st eng pch with q := rest }
  else s

/-- D, a stall or NBREJ after the checks (R194, R320). -/
def State.issueBase (s : State) (d : BitVec 6) (kind : Nat) (b : List Word) (trap : Bool) (r : Checked) : Out :=
  match r with
  | .status n => .next (s.status d n)
  | .rej a => if trap then .next (s.trapHere ⟨tNBREJ, a⟩) else .next (s.status d 4)
  | .ok os =>
    let lin := match os with
      | o :: _ => o.lin
      | [] => 0
    let st := linStack lin
    let pch := if kind = 0 then linPch lin else 0
    let e := s.beng st kind pch
    if 16 ≤ e.q.length then .next s
    else
      let c : BCmd := ⟨kind, b, (s.launchOf s.cdie).getD 0, s.cdie, 0, opsOf kind b os, 0, 0, [], []⟩
      .next ((s.enqueue st kind pch c).ret d (BitVec.ofNat 64 (1 + ticketOf st pch kind (e.count + 1) * 2 ^ 32)))

/-- NBOP (R196, R321). -/
def execNbop (d r : BitVec 6) (g : BitVec 4) (s : State) : Out :=
  guarded s g (fun s =>
    let b := s.cc.getN r 4
    s.issueBase d 0 b ((blkWord b 3).getLsbD 37) (s.nbCheck s.cdie b))

/-- The block of NBRED and OPTM, read from memory by the base die, which sees the core's stores once they are performed
(R210): a wrong path is ACCESS, a misaligned block status 0x02 (R320). -/
def State.issueBlock (s : State) (d r : BitVec 6) (kind bytes trapBit : Nat) (f : State → List Word → Checked) : Out :=
  let a := s.cc.get r
  if pathOf a ≠ 0 ∧ pathOf a ≠ 1 then .next (s.trapHere ⟨tACCESS, a⟩)
  else if a.toNat % bytes ≠ 0 then .next (s.status d 2)
  else match s.locate s.cdie none a .ld s.cc.smode with
    | .error t => .next (s.trapHere t)
    | .ok loc => match s.readLoc loc a bytes with
      | .error t => .next (s.trapHere t)
      | .ok l =>
      let s1 := s.noteXlate s.cdie none loc
      let b := bytesWords (bytes / 8) l
      s1.issueBase d kind b ((blkWord b 0).getLsbD trapBit) (f s1 b)

/-- NBRED (R197, R322). -/
def execNbred (d r : BitVec 6) (g : BitVec 4) (s : State) : Out :=
  guarded s g (fun s => s.issueBlock d r 1 64 7 (fun s b => s.rdCheck s.cdie b))

/-- OPTM (R198, R325). -/
def execOptm (d r : BitVec 6) (g : BitVec 4) (s : State) : Out :=
  guarded s g (fun s => s.issueBlock d r 2 128 2 (fun s b => s.opCheck s.cdie b))

/-- The state a ticket names, as NBSTAT gives it (R323). -/
def State.baseState (s : State) (t : Word) : Nat :=
  let eng := bitsOf t 21 2
  if eng = 3 then 3
  else match (s.beng (bitsOf t 29 3) eng (bitsOf t 23 6)).hist.find? (fun h => h.1 == bitsOf t 0 21) with
    | none => 3
    | some (_, st, trap, f) =>
      st.toNat + (if st = 2 then trap.toNat * 2 ^ 8 else 0) + (if st = 1 then f.toNat * 2 ^ 16 else 0)

/-- NBSTAT (R323). -/
def execNbstat (d r : BitVec 6) (g : BitVec 4) (s : State) : Out :=
  guarded s g (fun s => .next (s.ret d (BitVec.ofNat 64 (s.baseState (s.cc.get r)))))

end Sys2Proof.Machine
end

