-- ==== Sys2Proof/Machine/Sha.lean ====
section
/-! DEFINITION. SHAKE256 with 256 bits of output (R133, R164, R245), and the verification of an XMSS-SHAKE256_20_256
signature (R13, R133). The spec names both schemes by their standards, FIPS 202 and RFC 8391 with the parameter set of SP
800-208, which are taken here (log 8). -/

namespace Sys2Proof.Machine

/-! ### The permutation, plane by plane

The 1,600 bits stand as five planes of 320 bits: lane x of a plane at its bits 64x and up, so that what FIPS 202 says of the
neighbour of every lane is one rotation of a plane. -/

abbrev Plane := BitVec 320

/-- Bit 0 of each lane. -/
def firstBits : Plane := (List.range 5).foldl (fun p x => p ||| 1#320 <<< (64 * x)) 0

/-- Each lane becomes the next one, in the order of x. -/
def Plane.next (p : Plane) : Plane := p.rotateRight 64

/-- Each lane is rotated left by one bit. -/
def Plane.turn (p : Plane) : Plane := p <<< 1 &&& ~~~firstBits ||| p >>> 63 &&& firstBits

/-- Theta: every column takes the parities of its two neighbours. -/
def theta (a : List Plane) : List Plane :=
  let par := a.foldl (fun p q => p ^^^ q) 0
  let add := par.rotateLeft 64 ^^^ par.next.turn
  a.map (fun p => p ^^^ add)

/-- Lane x of a plane, rotated left, at lane x' of an empty plane. -/
def Plane.moved (p : Plane) (x n x' : Nat) : Plane :=
  (((p >>> (64 * x)).setWidth 64).rotateLeft n).setWidth 320 <<< (64 * x')

/-- The walk of FIPS 202 over the lanes, from (x, y): each with its place t on the walk. -/
def laneWalk : Nat → Nat → Nat → Nat → List (Nat × Nat × Nat)
  | 0, _, _, _ => []
  | fuel + 1, x, y, t => (x, y, t) :: laneWalk fuel y ((2 * x + 3 * y) % 5) (t + 1)

/-- Rho and pi: the lane at place t of the walk turns by (t + 1)(t + 2)/2 bits and goes to the walk's next place; lane (0, 0)
stays. -/
def rhoPi (a : List Plane) : List Plane :=
  let plane (y : Nat) : Plane := (a[y]?).getD 0
  (List.range 5).map (fun y => (laneWalk 24 1 0 0).foldl (fun p e =>
    if (2 * e.1 + 3 * e.2.1) % 5 = y then
      p ||| (plane e.2.1).moved e.1 ((e.2.2 + 1) * (e.2.2 + 2) / 2 % 64) e.2.1
    else p) (if y = 0 then (plane 0).moved 0 0 0 else 0))

/-- Chi: a lane takes what the next lane lets through of the one after it. -/
def chi (a : List Plane) : List Plane := a.map (fun p => p ^^^ (~~~p.next &&& p.next.next))

/-- The register that makes the round constants: 8 bits, feedback x^8 + x^6 + x^5 + x^4 + 1. -/
def feed (r : Nat) : Nat := if r < 128 then 2 * r else (2 * r) ^^^ 0x171

/-- The constant of a round: bit 2^j − 1 is the register's low bit after j steps. -/
def roundBits (r : Nat) : Plane :=
  ((List.range 7).foldl (fun (t : Plane × Nat) j =>
    (if t.2 % 2 = 1 then t.1 ||| 1#320 <<< (2 ^ j - 1) else t.1, feed t.2)) (0, r)).1

/-- Iota: the first plane takes the round constant. -/
def iota (c : Plane) : List Plane → List Plane
  | [] => []
  | p :: t => (p ^^^ c) :: t

/-- `n` rounds from a state of the register, which moves seven steps a round. -/
def rounds : Nat → Nat → List Plane → List Plane
  | 0, _, a => a
  | n + 1, r, a => rounds n ((List.range 7).foldl (fun r _ => feed r) r) (iota (roundBits r) (chi (rhoPi (theta a))))

/-! ### The sponge -/

/-- A block of 136 bytes is added to the state, which is then permuted. -/
def absorb (a : List Plane) (blk : List Byte) : List Plane :=
  let n := leNat blk
  rounds 24 1 ((List.range 5).map (fun y => (a[y]?).getD 0 ^^^ BitVec.ofNat 320 (n / 2 ^ (320 * y))))

/-- The message with its suffix 1111 and the padding up to whole blocks. -/
def padded (m : List Byte) : List Byte :=
  let blocks := m.length / 136 + 1
  let n := leNat m + 0x1F * 256 ^ m.length + 0x80 * 256 ^ (136 * blocks - 1)
  leBytes (136 * blocks) n

def shake256 (m : List Byte) : List Byte :=
  let p := padded m
  let a := (chunks 136 (p.length / 136) p).foldl absorb []
  leBytes 32 ((a[0]?).getD 0).toNat

/-- The digest as a number, first byte lowest. -/
def digestOf (m : List Byte) : BitVec 256 := BitVec.ofNat 256 (leNat (shake256 m))

/-! ### XMSS-SHAKE256_20_256: n = 32, w = 16, 67 chains, height 20 -/

/-- A number as `n` bytes, the most significant first. -/
def beBytes (n v : Nat) : List Byte := (leBytes n v).reverse

/-- The keyed hashes: F with tag 0, H with 1, H_msg with 2, PRF with 3. -/
def keyed (tag : Nat) (key m : List Byte) : List Byte := shake256 (beBytes 32 tag ++ key ++ m)

def xorBytes (a b : List Byte) : List Byte := (a.zip b).map (fun e => e.1 ^^^ e.2)

/-- A hash address of one tree: its type (0 chain, 1 L-tree, 2 tree) and its last four words. -/
def hashAddr (type a b c mask : Nat) : List Byte :=
  beBytes 12 0 ++ ([type, a, b, c, mask].map (beBytes 4)).flatten

/-- A randomised tree node over two others; `adr` gives the address for a key or mask. -/
def joinNodes (seed : List Byte) (adr : Nat → List Byte) (l r : List Byte) : List Byte :=
  let prf (k : Nat) : List Byte := keyed 3 seed (adr k)
  keyed 1 (prf 0) (xorBytes l (prf 1) ++ xorBytes r (prf 2))

/-- A chain from step `i` on for `n` steps. -/
def chainFrom (seed : List Byte) (idx chain : Nat) : Nat → Nat → List Byte → List Byte
  | 0, _, v => v
  | n + 1, i, v =>
    let prf (k : Nat) : List Byte := keyed 3 seed (hashAddr 0 idx chain i k)
    chainFrom seed idx chain n (i + 1) (keyed 0 (prf 0) (xorBytes v (prf 1)))

/-- The 67 base-16 digits of a 32 B message and its checksum, high digit of a byte first. -/
def wotsDigits (m : List Byte) : List Nat :=
  let digits (l : List Byte) : List Nat := l.flatMap (fun b => [b.toNat / 16, b.toNat % 16])
  let d := digits m
  let sum := d.foldl (fun k x => k + (15 - x)) 0
  d ++ (digits (beBytes 2 (sum * 16))).take 3

/-- One level of an L-tree: neighbours are joined, a last odd node moves up as it is. -/
def treeLevel (seed : List Byte) (idx height : Nat) : Nat → List (List Byte) → List (List Byte)
  | k, l :: r :: t => joinNodes seed (hashAddr 1 idx height k) l r :: treeLevel seed idx height (k + 1) t
  | _, t => t

/-- The root of an L-tree, in at most `fuel` levels. -/
def treeRoot (seed : List Byte) (idx : Nat) : Nat → Nat → List (List Byte) → List Byte
  | 0, _, l => l.headD []
  | fuel + 1, h, l => if l.length ≤ 1 then l.headD [] else treeRoot seed idx fuel (h + 1) (treeLevel seed idx h 0 l)

/-- The root over a leaf and its authentication path, from height `h` on. -/
def pathRoot (seed : List Byte) (idx : Nat) : Nat → List (List Byte) → List Byte → List Byte
  | _, [], v => v
  | h, a :: t, v =>
    let adr := hashAddr 2 0 h (idx / 2 ^ (h + 1))
    pathRoot seed idx (h + 1) t (if idx / 2 ^ h % 2 = 0 then joinNodes seed adr v a else joinNodes seed adr a v)

/-- A signature (index, randomiser, 67 chain values, 20 nodes) of a message is valid under a public key (type, root, seed). -/
def xmssVerifies (m key sig : List Byte) : Bool :=
  let root := (key.drop 4).take 32
  let seed := (key.drop 36).take 32
  let idx := leNat (sig.take 4).reverse
  let digest := keyed 2 ((sig.drop 4).take 32 ++ root ++ beBytes 32 idx) m
  let parts := chunks 32 87 (sig.drop 36)
  let ends := (((parts.take 67).zip (wotsDigits digest)).zipIdx).map (fun e =>
    chainFrom seed idx e.2 (15 - e.1.2) e.1.2 e.1.1)
  decide (key.length = 68 ∧ sig.length = 2820 ∧ key.take 4 = beBytes 4 0x12 ∧ idx < 2 ^ 20) &&
    pathRoot seed idx 0 (parts.drop 67) (treeRoot seed idx 7 0 ends) == root

end Sys2Proof.Machine
end

