-- ==== Sys2Proof/Machine/CoreDerived.lean ====
section
/-! DEFINITION. Control-core instructions on derived regions and the result digest: DDECL, DDROP, DWAIT, RDIG (R150, R151,
R161, R164, R273, R274, R279, R339). -/

namespace Sys2Proof.Machine

/-- The node of this package that an address of the NODE or DERIV layout names (R97): `none` when its die lies outside the
launch or the node does not exist, `some none` in another package. -/
def State.nodeOf (s : State) (a : Word) : Option (Option (Nat × Nat × Nat)) :=
  match s.physDie (s.launchAt s.cdie) (bitsOf a 54 6) with
  | none => none
  | some none => some none
  | some (some pd) =>
    let ring := bitsOf a 48 6
    let node := bitsOf a 44 4
    if ringsOf (s.die pd).g2 ≤ ring ∨ nodesOf (s.die pd).g2 ≤ node then none else some (some (pd, ring, node))

/-- The status another package's node answers with (log 13). -/
def State.remoteStatus (s : State) (d : BitVec 6) : State :=
  ({ s with freeCtr := s.freeCtr + 1 } : State).status d (Config.remoteByte s.freeCtr 0).toNat

/-- A store of the core to a node is in flight. -/
def State.storing (s : State) (d pd ring node : Nat) : Bool :=
  (s.core d).stq.any (fun e => e.loc.tgt == 2 && e.loc.die == pd && e.loc.ring == ring && e.loc.node == node)

/-- The first check of R147 to R149 that fails, as a status; 1 when none does. -/
def State.declStatus (s : State) (pd ring node : Nat) (w : List Word) : Nat :=
  let x := newDerived w true
  let g2 := (s.die pd).g2
  if bitsOf (((s.die pd).act.mnCfg ring (slotOfNode node)).ncfg.setWidth 64) 0 2 = 0 then 4
  else if (s.deriv pd ring node x.dix).isSome ∨ 8 ≤ (s.derivsOf pd ring node).length then 5
  else if s.shadowBad pd ring node w then 6
  else if g2 ∧ x.kind = 7 then 7
  else 1

/-- DDECL (R273): it reserves the region once the core's stores to the node have arrived, and completes with the build. -/
def execDdecl (d r : BitVec 6) (g : BitVec 4) (s : State) : Out :=
  guarded s g (fun s =>
    let w := s.cc.getN r 8
    let a := (w[0]?).getD 0
    let x := newDerived w true
    match s.nodeOf a with
    | some (some (pd, ring, node)) =>
      if s.cc.wait = .ddecl then
        match s.deriv pd ring node x.dix with
        | some y => if y.building then .next s else .next (s.unhold.status d 1)
        | none => .next (s.unhold.status d 1)
      else if derivFieldsBad (nodeSize (s.die pd).g2) w then .next (s.status d 2)
      else if pathOf a ≠ 1 then .next (s.status d 3)
      else
        let st := s.declStatus pd ring node w
        if st ≠ 1 then .next (s.status d st)
        else if s.storing s.cdie pd ring node then .next s
        else .next ((s.setDeriv pd ring node x.dix (some x)).hold .ddecl)
    | other =>
      if derivFieldsBad (nodeSize (s.die s.cdie).g2) w then .next (s.status d 2)
      else if pathOf a ≠ 1 ∨ other.isNone then .next (s.status d 3)
      else .next (s.remoteStatus d))

/-- The rest of a DDROP on a region of the launch in this package: after its request it waits for the updates that were
pending then; before it, for a build and for another core's drop of the region (R151, R274). -/
def State.dropRegion (s : State) (d : BitVec 6) (pd ring node dix : Nat) (x : Option Derived) : State :=
  let now := s.cycle
  let g2 := (s.die pd).g2
  let dropped : State := (s.unhold.dropDeriv pd ring node dix).status d 1
  match x with
  | none => if s.cc.wait = .ddrop then s.unhold.status d 1 else s.status d 5
  | some x =>
    if s.cc.wait = .ddrop then
      (if x.dropAt.isNone then s.unhold.status d 1 else if x.quiet g2 now then dropped else s)
    else if x.building || x.dropAt.isSome then s
    else if x.quiet g2 now then dropped
    else (s.askDrop pd ring node dix x).hold .ddrop

/-- DDROP (R274). -/
def execDdrop (d r : BitVec 6) (g : BitVec 4) (s : State) : Out :=
  guarded s g (fun s =>
    let a := s.cc.get r
    let dix := bitsOf a 40 4
    if pathOf a ≠ 4 ∨ bitsOf a 0 40 ≠ 0 then .next (s.status d 3)
    else match s.nodeOf a with
      | none => .next (s.status d 3)
      | some none => .next (s.remoteStatus d)
      | some (some (pd, ring, node)) =>
        .next (s.dropRegion d pd ring node dix (if dix < 8 then s.deriv pd ring node dix else none)))

/-- DWAIT (R279): every store that has arrived by its request is reflected; the core's own earlier stores arrive first. Derived
reads that follow are performed after it. -/
def execDwait (r : BitVec 6) (g : BitVec 4) (s : State) : Out :=
  guarded s g (fun s =>
    let a := s.cc.get r
    if pathOf a ≠ 1 then .next (s.trapHere ⟨tACCESS, a⟩)
    else match s.nodeOf a with
      | none => .next (s.trapHere ⟨tACCESS, a⟩)
      | some none => .next (s.setCc (s.cc.dropEarly (fun e => e.path == 4))).adv
      | some (some (pd, ring, node)) =>
        let t := match s.cc.wait with
          | .dwait t => t
          | _ => s.cycle
        if s.storing s.cdie pd ring node then .next s
        else if s.reflecting pd ring node t then .next (s.hold (.dwait t))
        else .next ((s.unhold.setCc (s.unhold.cc.dropEarly (fun e => e.path == 4))).reflectAll pd ring node).adv)

/-! ### RDIG (R164, R339) -/

/-- Element size in bytes of the formats whose NaNs RDIG makes canonical; 0 for the others. -/
def nanSize (fmt : Nat) : Nat := if fmt = 0 then 4 else if fmt = 1 ∨ fmt = 2 then 2 else if fmt = 3 ∨ fmt = 4 then 1 else 0

/-- The bytes digested. -/
def canonBytes (fmt : Nat) (l : List Byte) : List Byte :=
  let n := nanSize fmt
  if n = 0 then l
  else ((chunks n (l.length / n) l).map (fun c =>
    if ((ffmt fmt).decode (leNat c)).isNan then leBytes n (ffmt fmt).canon else c)).flatten

/-- The paths RDIG reads from and writes to; STACK only to read, in S mode. -/
def rdigPath (p : Nat) : Bool := decide (p = 0 ∨ p = 1 ∨ p = 9)

/-- A NODE address names a die outside the launch. -/
def State.outsideLaunch (s : State) (a : Word) : Bool :=
  pathOf a == 1 && (s.physDie (s.launchAt s.cdie) (bitsOf a 54 6)).isNone

/-- RDIG (R339). DEDUCED (log 23): a destination that is not 32 B aligned raises ALIGN before anything is read, since R150 gives
status 0x02 to fields and limits, and R164 asks for an aligned store. -/
def execRdig (d r x : BitVec 6) (g : BitVec 4) (s : State) : Out :=
  guarded s g (fun s =>
    let a := s.cc.get r
    let w := s.cc.get (r + 1)
    let dest := s.cc.get x
    let len := bitsOf w 0 32
    let fmt := bitsOf w 32 5
    let sm := s.cc.smode
    if bitsOf w 37 27 ≠ 0 ∨ 11 < fmt ∨ (nanSize fmt ≠ 0 ∧ len % nanSize fmt ≠ 0) then .next (s.status d 2)
    else if pathOf a = 6 ∧ !sm then .next (s.trapHere ⟨tPRIV, a⟩)
    else if !(rdigPath (pathOf a) || pathOf a == 6) ∨ !rdigPath (pathOf dest) ∨ s.outsideLaunch a ∨ s.outsideLaunch dest then
      .next (s.status d 3)
    else if dest.toNat % 32 ≠ 0 then .next (s.trapHere ⟨tALIGN, dest⟩)
    else match s.loadRange s.cdie false true len a len with
      | .error t => .next (s.trapHere t)
      | .ok (l, s1) => match s1.storeBytes s1.cdie dest (shake256 (canonBytes fmt l)) with
        | .error t => .next (s1.trapHere t)
        | .ok s2 => .next (s2.status d 1))

end Sys2Proof.Machine
end

