-- ==== Sys2Proof/Machine/CoreFlow.lean ====
section
/-! DEFINITION. Control-core branches (R127, R261, R263, R306, R312, R342). -/

namespace Sys2Proof.Machine

/-- The pc set. -/
def State.jump (s : State) (a : Word) : State := s.setCc { s.cc with pc := a }

/-- Target of a word offset from the instruction's own word (R127). -/
def branchTo {n : Nat} (pc : Word) (off : BitVec n) : Word := pc + off.signExtend 64 * 4#64

/-- BR (R261). -/
def execBr (g : BitVec 4) (off : BitVec 20) (s : State) : Out :=
  guarded s g (fun s => .next (s.jump (branchTo s.cc.pc off)))

/-- CALL (R263). -/
def execCall (g : BitVec 4) (off : BitVec 20) (s : State) : Out :=
  guarded s g (fun s => .next ((s.setCc (s.cc.set 63 (s.cc.pc + 4))).jump (branchTo s.cc.pc off)))

/-- A jump to a register: ALIGN for a misaligned target (R306). -/
def jumpReg (s : State) (r : BitVec 6) (g : BitVec 4) : Out :=
  guarded s g (fun s =>
    let t := s.cc.get r
    if t.toNat % 4 ≠ 0 then .next (s.trapHere ⟨tALIGN, t⟩) else .next (s.jump t))

/-- RET (R342). -/
def execRet (g : BitVec 4) (s : State) : Out := jumpReg s 63 g
/-- JMPR (R306). -/
def execJmpr (r : BitVec 6) (g : BitVec 4) (s : State) : Out := jumpReg s r g

/-- LOOP (R312). -/
def execLoop (c : BitVec 6) (off : BitVec 18) (s : State) : Out :=
  let v := s.cc.get c - 1
  let s' := s.setCc (s.cc.set c v)
  if v = 0 then .next s'.adv else .next (s'.jump (branchTo s.cc.pc off))

end Sys2Proof.Machine
end

