-- ==== Sys2Proof/Machine/CoreStream.lean ====
section
/-! DEFINITION. Control-core stream instructions (R200, R345, R346, R349, R352, R354). -/

namespace Sys2Proof.Machine

/-- One command issued to engine a[S2][3:0] (R200): the core stalls while the engine is full; D takes the ticket. -/
def issueStream (s : State) (d r x : BitVec 6) (g : BitVec 4) (kind : Nat) : Out :=
  guarded s g (fun s =>
    let die := s.cdie
    let w := s.cc.getN r 8
    let n := (s.cc.get x).toNat % 16
    let e := s.engine die n
    if e.full then .next s
    else
      let rej := s.streamReject die w (kind == 2) (kind == 1) s.cc.smode
      let next := kind == 1 || (match s.nodeAddr die (scWord w 1) with
        | some loc => scPub w && kind != 2 && s.pubShadow loc (scShelf w) false
        | none => false)
      let c : SCmd := ⟨w, kind, 0, (s.launchOf die).getD 0, none, next && rej.isNone, next, false, [], false, none, rej, s.cc.smode⟩
      let (e, t) := e.accept n c
      .next ((({ s with freeCtr := s.freeCtr + 3 } : State).setEngine die n e).ret d (BitVec.ofNat 64 t)))

/-- SCPY (R200, R346). -/
def execScpy (d r x : BitVec 6) (g : BitVec 4) (s : State) : Out := issueStream s d r x g 0
/-- SSTG (R354). -/
def execSstg (d r x : BitVec 6) (g : BitVec 4) (s : State) : Out := issueStream s d r x g 1
/-- SEVC (R349). -/
def execSevc (d r x : BitVec 6) (g : BitVec 4) (s : State) : Out := issueStream s d r x g 2

/-- SBIND (R345). -/
def execSbind (d r x : BitVec 6) (g : BitVec 4) (s : State) : Out :=
  guarded s g (fun s =>
    let die := s.cdie
    let b := s.cc.get x
    let n := bitsOf b 0 6 % 16
    match s.bindCheck die 3 (s.cc.getN r 8) b s.cc.smode with
    | (st, none) => .next (s.ret d (BitVec.ofNat 64 st))
    | (st, some c) =>
      let e := s.engine die n
      if e.full then .next s
      else
        let (e, t) := e.accept n c
        .next ((s.setEngine die n e).ret d (BitVec.ofNat 64 (st + t * 2 ^ 32))))

/-- The state a ticket names (R352). -/
def State.ticketState (s : State) (t : Word) : Nat := (s.engine s.cdie (bitsOf t 28 4)).state (bitsOf t 0 28)

/-- SSTAT (R352). -/
def execSstat (d r : BitVec 6) (g : BitVec 4) (s : State) : Out :=
  guarded s g (fun s => .next (s.ret d (BitVec.ofNat 64 (s.ticketState (s.cc.get r)))))

/-- SWAIT (R352): it stalls while the command is pending. -/
def execSwait (d r : BitVec 6) (g : BitVec 4) (s : State) : Out :=
  guarded s g (fun s =>
    let st := s.ticketState (s.cc.get r)
    if st % 256 = 0 then .next s else .next (s.ret d (BitVec.ofNat 64 st)))

end Sys2Proof.Machine
end

