-- ==== Sys2Proof/Machine/CoreSys.lean ====
section
/-! DEFINITION. System instructions of a control core: TLOAD, QFEAT, RDSYS, WRSYS, TRAP, ERET, HALT, WAITE, SENDT, KEYLD,
ATTQ (R140, R185, R234 to R239, R242, R245, R296, R337, R340, R359). -/

namespace Sys2Proof.Machine

/-! ### TLOAD (R62, R64, R176, R185, R359) -/

def tlRing (w : Word) : Nat := bitsOf w 12 6
def tlSlot (w : Word) : Nat := bitsOf w 6 6
def tlIndex (w : Word) : Nat := bitsOf w 2 4
def tlKind (w : Word) : Nat := bitsOf w 0 2

/-- The target word names a place of the die in the running profile. -/
def tlTargetOk (g2 : Bool) (w : Word) : Bool :=
  let k := tlKind w
  let sl := tlSlot w
  decide (bitsOf w 18 46 = 0 ∧ k ≠ 3 ∧ tlRing w < ringsOf g2 ∧ sl < slotsOf g2) &&
  (if k = 0 then decide (tlIndex w < 4) && isCe sl else !g2 && isXn sl && (k == 2 || decide (tlIndex w < 8)))

/-- The status a record gives. -/
def tlRecord (kind : Nat) (t : BitVec 8320) : Nat :=
  if kind = 1 then (if mapOk t then 1 else 2)
  else if !tabShapeOk t then 2
  else if tabOk t then 1 else 4

/-- The active FCFG of the target. -/
def Bank.tlFcfg (b : Bank) (w : Word) : BitVec 32 :=
  if tlKind w = 0 then (b.ceCfg (tlRing w) (tlSlot w)).fcfg else (b.xnCfg (tlRing w) (tlSlot w)).fcfg

/-- TLOAD (R359); it waits for a prefetch in progress. -/
def execTload (d r : BitVec 6) (g : BitVec 4) (s : State) : Out :=
  guarded s g (fun s =>
    let x := s.die s.cdie
    let a := s.cc.get r
    let w := s.cc.get (r + 1)
    if x.prefetch.isSome then .next s
    else if !tlTargetOk x.g2 w then .next (s.status d 3)
    else if pathOf a ≠ 0 ∧ pathOf a ≠ 1 then .next (s.trapHere ⟨tACCESS, a⟩)
    else if a.toNat % 16 ≠ 0 then .next (s.trapHere ⟨tALIGN, a⟩)
    else match s.loadRange s.cdie false false 1040 a 1040 with
      | .error t => .next (s.trapHere t)
      | .ok (l, s1) =>
        let t := BitVec.ofNat 8320 (leNat l)
        let st := tlRecord (tlKind w) t
        if st ≠ 1 then
          if (teOf (x.act.tlFcfg w)).getLsbD 0 then .next (s1.trapHere ⟨tTABLE, BitVec.ofNat 64 st⟩) else .next (s1.status d st)
        else
          let y := s1.die s1.cdie
          let s2 := s1.setDie s1.cdie { y with shd := y.shd.putTable (tlKind w) (tlRing w) (tlSlot w) (tlIndex w) (some t) }
          .next (s2.status d 1))

/-! ### Features (R140) -/

def featWord (g2 : Bool) (leaf : Nat) : Nat :=
  match leaf with
  | 0 => (if g2 then 2 else 3) * 2 ^ 16 + 0x0303
  | 1 => 0x1FFFFF
  | 2 => if g2 then 0x050B10202808 else 0x081018304008
  | 3 => if g2 then 0x7F else 0xFF
  | 4 => if g2 then 0 else 16 * 2 ^ 32 + 2048 * 2 ^ 16 + 8 * 2 ^ 8 + 0xF
  | 5 => 1024 * 2 ^ 32 + 64 * 2 ^ 24 + 8 * 2 ^ 16 + (if g2 then 1024 else 2048)
  | 6 => 0x08080810
  | _ => 0

/-- QFEAT (R337). -/
def execQfeat (d : BitVec 6) (i : BitVec 10) (s : State) : Out :=
  .next (s.ret d (BitVec.ofNat 64 (featWord (s.die s.cdie).g2 i.toNat)))

/-! ### System registers (R235) -/

/-- The registers: whether user code may read them. -/
def sysView (n : Nat) : Option Bool :=
  match n with
  | 0x000 | 0x001 | 0x002 | 0x003 => some true
  | 0x010 | 0x011 | 0x012 => some true
  | 0x018 => some true
  | 0x020 | 0x021 | 0x022 => some false
  | 0x028 | 0x029 => some false
  | 0x030 => some false
  | 0x038 | 0x039 => some false
  | 0x040 => some false
  | _ => none

def maskHtab : Word := 0x0000FFFFFFFFFE00
def maskPtbase : Word := 0x000FFFFFFFFFF000
def maskFrzrec : Word := 0x0000007FFFFFFC1F

/-- The value of a register. -/
def State.sysRead (s : State) (n : Nat) : Word :=
  let c := s.cc
  match n with
  | 0x010 => c.diex &&& 0xFF
  | 0x011 => c.diey &&& 0xFF
  | 0x012 => c.dien &&& 0xFFFF
  | 0x018 => (s.launchAt s.cdie).lcyc
  | 0x020 => c.trapc &&& 0x1FFF
  | 0x021 => c.trappc
  | 0x022 => c.trapval
  | 0x028 => c.htab &&& maskHtab
  | 0x029 => c.ptbase &&& maskPtbase
  | 0x030 => s.mgmt.ageLimit.setWidth 64
  | 0x038 => s.mgmt.alarmLevel.setWidth 64
  | 0x039 => s.mgmt.alarms.setWidth 64
  | 0x040 => s.mgmt.frzrec &&& maskFrzrec
  | k => BitVec.ofNat 64 (featWord (s.die s.cdie).g2 k)

/-- ALARMP: a write that would lower LEVEL is ignored. -/
def Mgmt.writeAlarmp (m : Mgmt) (v : Word) : Mgmt :=
  if bitsOf v 0 2 < m.alarmLevel.toNat then m else { m with alarmLevel := v.setWidth 2 }

/-- ALARMS: a one clears its bit. -/
def Mgmt.clearAlarms (m : Mgmt) (v : Word) : Mgmt := { m with alarms := m.alarms &&& ~~~(v.setWidth 7) }

def Core.writeHtab (c : Core) (v : Word) : Core := { c with htab := v &&& maskHtab }

/-- A write of a register; RO registers are unchanged. -/
def State.sysWrite (s : State) (n : Nat) (v : Word) : State :=
  let c := s.cc
  match n with
  | 0x020 => s.setCc { c with trapc := v &&& 0x1FFF }
  | 0x021 => s.setCc { c with trappc := v }
  | 0x022 => s.setCc { c with trapval := v }
  | 0x028 => s.setCc (c.writeHtab v)
  | 0x029 => s.setCc { c with ptbase := v &&& maskPtbase }
  | 0x030 => { s with mgmt := { s.mgmt with ageLimit := v.setWidth 32 } }
  | 0x038 => { s with mgmt := s.mgmt.writeAlarmp v }
  | 0x039 => { s with mgmt := s.mgmt.clearAlarms v }
  | 0x040 => { s with mgmt := { s.mgmt with frzrec := v &&& maskFrzrec } }
  | _ => s

/-- The first word of an instruction, for TRAPVAL of ILL. -/
def wordOf (i : Instr) : Word := match coreWords i with
  | some (w, _) => w.setWidth 64
  | none => 0

/-- The access of a system register: ILL for an unassigned number, PRIV outside the view (R128, R234). -/
def sysAccess (s : State) (i : Instr) (n : BitVec 10) (f : State → State) : Out :=
  match sysView n.toNat with
  | none => .next (s.trapHere ⟨tILL, wordOf i⟩)
  | some u => if u ∨ s.cc.smode then .next (f s) else .next (s.trapHere ⟨tPRIV, n.setWidth 64⟩)

/-- RDSYS (R340). -/
def execRdsys (d : BitVec 6) (i : BitVec 10) (s : State) : Out :=
  sysAccess s (.rdsys d i) i (fun s => s.ret d (s.sysRead i.toNat))

/-- WRSYS (R340). -/
def execWrsys (r : BitVec 6) (i : BitVec 10) (s : State) : Out :=
  sysAccess s (.wrsys r i) i (fun s => (s.sysWrite i.toNat (s.cc.get r)).adv)

/-! ### TRAP, ERET, HALT (R280, R296, R360) -/

/-- TRAP (R360): TRAPPC is the next instruction. -/
def execTrap (i : BitVec 10) (s : State) : Out :=
  .next (s.takeTrap s.cdie 3 true ⟨tSOFT, i.setWidth 64⟩ (s.cc.pc + 4))

/-- ERET (R280): PRIV in K mode, whatever its guard. -/
def execEret (g : BitVec 4) (s : State) : Out :=
  if !s.cc.smode then .next (s.trapHere ⟨tPRIV, 0⟩)
  else guarded s g (fun s => .next (s.setCc s.cc.eret))

/-- HALT (R296): the core issues nothing further. -/
def execHalt (g : BitVec 4) (s : State) : Out :=
  guarded s g (fun s => .next (s.setCc { s.cc with halted := true }).adv)

/-! ### Tokens (R236 to R239) -/

/-- WAITE (R365). -/
def execWaite (d r : BitVec 6) (g : BitVec 4) (s : State) : Out :=
  guarded s g (fun s =>
    let c := s.cc
    let l := s.launchAt s.cdie
    match c.evq with
    | (tok, h) :: t => .next (s.setCc { (c.set d tok).set r (c.pc + 4) with evq := t, pc := h })
    | [] =>
      if c.tokIn.isEmpty && (s.isLocal l || Config.remoteHalted s.cycle 0) && (s.localDies l).all (fun e => e.2 == s.cdie || (s.core e.2).halted) then
        .next (s.trapHere ⟨tSCHED, 0⟩)
      else .next s)

/-- SENDT (R348): the sender stalls while the receiver's queue of 16 is full. It is a store, which is performed when its token is
queued (R239). -/
def execSendt (d r x : BitVec 6) (g : BitVec 4) (s : State) : Out :=
  guarded s g (fun s =>
    let a := s.cc.get r
    let tok := s.cc.get x
    if a.toNat / 2 ^ 16 ≠ 0 ∨ tok.toNat / 2 ^ 38 ≠ 0 then .next (s.status d 2)
    else match s.physDie (s.launchAt s.cdie) a.toNat with
      | none => .next (s.status d 3)
      | some none => .next (s.status d 1)
      | some (some pd) =>
        let c := s.core pd
        if 16 ≤ c.evq.length + c.tokIn.length then .next s
        else
          let n := s.cc.stSeq
          let s := s.setCc { s.cc with stSeq := n + 1 }
          let c := s.core pd
          .next ((s.setCore pd { c with tokIn := c.tokIn ++ [⟨tok, s.cdie, n⟩] }).status d 1))

/-! ### Keys and attestation (R242, R245) -/

/-- An S-mode instruction: PRIV in K mode, whatever its guard (R128). -/
def privileged (s : State) (g : BitVec 4) (f : State → Out) : Out :=
  if !s.cc.smode then .next (s.trapHere ⟨tPRIV, 0⟩) else guarded s g f

/-- KEYLD (R242, R307). -/
def execKeyld (d r x : BitVec 6) (g : BitVec 4) (s : State) : Out :=
  privileged s g (fun s =>
    let v := s.cc.get r
    let a := s.cc.get x
    let n := bitsOf v 0 10
    let dom := bitsOf v 10 10
    if bitsOf v 20 44 ≠ 0 ∨ (dom = 0 ∧ n ≠ 0) then .next (s.status d 2)
    else if a.toNat % 8 ≠ 0 then .next (s.trapHere ⟨tALIGN, a⟩)
    else match s.loadRange s.cdie true false 72 a 72 with
      | .error t => .next (s.trapHere t)
      | .ok (l, s1) => match Config.keyUnwrap l with
        | none => .next (s1.status d 3)
        | some k =>
          let s2 : State := { s1 with keys := tset none s1.keys n (some ⟨if n = 0 then 0 else dom, k⟩) }
          .next (s2.status d 1))

/-- The first 136 bytes of a quote. -/
def State.quoteHead (s : State) (nonce : List Byte) : List Byte :=
  let fw := leBytes 32 Config.firmwareDigest.toNat
  let cust := (s.mgmt.enrolled.map (fun h => leBytes 32 h.toNat)).flatten
  [1, 3, 0, 0, 0, 0, 0, 0] ++ fw ++ shake256 (Config.fuses ++ leBytes 8 s.mgmt.alarmLevel.toNat ++ cust) ++ nonce

/-- ATTQ (R245, R259). -/
def execAttq (d r x : BitVec 6) (g : BitVec 4) (s : State) : Out :=
  privileged s g (fun s =>
    let a := s.cc.get r
    let dest := s.cc.get x
    if dest.toNat % 8 ≠ 0 then .next (s.status d 2)
    else if 2 ^ 20 ≤ s.mgmt.sigs then .next (s.status d 4)
    else match s.loadRange s.cdie false false 64 a 64 with
      | .error t => .next (s.trapHere t)
      | .ok (l, s1) =>
        let q := s1.quoteHead l
        let q := q ++ Config.xmssSign (digestOf q) s1.mgmt.sigs
        match s1.storeRange s1.cdie 2956 dest q with
        | .error t => .next (s1.trapHere t)
        | .ok s2 => .next (({ s2 with mgmt := { s2.mgmt with sigs := s2.mgmt.sigs + 1 } } : State).status d 1))

end Sys2Proof.Machine
end

