-- ==== Sys2Proof/Machine/ElemBlock.lean ====
section
/-! DEFINITION. Rows on block vectors (R327): BSCL, REQ, PACK, UNPK, QDEC, QENC. -/

namespace Sys2Proof.Machine

/-- Elements of a block: 64 for Q16, else 32 (R327). -/
def blockLen (code : Nat) : Nat := if code = 20 then 64 else 32

/-- Bits of the element part of a block vector. -/
def blockBits (code : Nat) : Nat := blockLen code * laneWidth code

/-- The scale word of a block vector: the SB20 word, or the byte of an MX or Q16 block. -/
def blockScaleOf (code : Nat) (v : Vec) : Nat := if isSx code then lane 32 v 14 else lane 32 v 14 % 256

/-- The super-scale of a block vector. -/
def blockSuper (v : Vec) : Nat := lane 32 v 15

/-- A block vector of elements, scale word and super-scale; bits outside the layout are zero (R327). -/
def blockVec (code : Nat) (l : List Nat) (scale sup : Nat) : Vec :=
  BitVec.ofNat 512 (joinNat (laneWidth code) (l.take (blockLen code)) +
    (if isSx code then scale % 2 ^ 32 else scale % 256) * 2 ^ 448 + (if code = 20 then sup % 2 ^ 32 else 0) * 2 ^ 480)

/-- A row that writes all 512 bits, with its flags (PG 00). -/
def State.blockResult (s : State) (c : RowCtx) (lat : Nat) (d : BitVec 4) (v : Vec) (f : Flags) : State :=
  (s.ceFlags c f).issueEff c lat (.result v (BitVec.allOnes 512) d.toNat (f &&& teOf (s.fcfg c)))

/-- The flags of a list of results. -/
def allFlags (l : List (Nat × Flags)) : Flags := l.foldl (fun k x => k ||| x.2) 0

/-- BSCL (R82, R262). -/
def execBscl (a b : BitVec 5) (d m : BitVec 4) (s : State) : Out :=
  rowExec s d (fun c => s.faBlock c && s.fdAny c && decide (faOf (s.fcfg c) ≠ 20)) (fun c =>
    let fa := faOf (s.fcfg c)
    let src := m.toNat
    let x := (decodeLanes src (s.operand c a)).map (·.1)
    let xs := if src = 0 then x ++ (decodeLanes src (s.operand c b)).map (·.1) else x
    let (bad, mx) := absMax xs
    let (w, f) := blockScale fa bad mx
    s.blockResult c (s.lat c 3 4) d (BitVec.ofNat 512 w) f)

/-- One element of REQ: x without its scale, the two scales (R81). -/
def reqElem (fd rm : Nat) (x : FVal × Bool) (old new : Option Rat) (err : Bool) : Nat × Flags :=
  let y : Nat × Flags := if err then roundElem fd rm .nan
    else match old, new with
      | none, _ => roundElem fd rm .nan
      | _, none => roundElem fd rm .nan
      | some p, some q =>
        if p = 0 then (0, 0)
        else if x.1.isNan then roundElem fd rm .nan
        else if q = 0 then
          if x.1.isZero then (0, 0) else (extreme (blockElem fd) x.1.neg, fDZ ||| fSAT)
        else roundElem fd rm (mulNum x.1 (.fin (p / q))).1
  (y.1, y.2 ||| flagIf (err || x.2) fINV)

/-- A block scale word: `none` is the E8M0 NaN; the flag is a format error (R73 to R75). -/
def scaleWord (code w : Nat) : Option Rat × Bool :=
  if isSx code then (match sb20 w with
    | none => (none, true)
    | some q => (some q, false))
  else (e8m0 (w % 256), false)

/-- REQ (R81, R341). -/
def execReq (a b : BitVec 5) (d m : BitVec 4) (s : State) : Out :=
  rowExec s d (fun c =>
      let fa := faOf (s.fcfg c)
      let fd := fdOf (s.fcfg c)
      isBlock fa && isBlock fd && decide (fa ≠ 20 ∧ fd ≠ 20) && (isSx fa == isSx fd)) (fun c =>
    let fa := faOf (s.fcfg c)
    let fd := fdOf (s.fcfg c)
    let v := s.operand c a
    let nw := lane 32 (s.operand c b) 0
    let (old, e1) := scaleWord fa (blockScaleOf fa v)
    let (new, e2) := scaleWord fd nw
    let l := (List.range 32).map (fun i =>
      reqElem fd (rmSel m (s.fcfg c)) (blockElemValue fa (lane (laneWidth fa) v i)) old new (e1 || e2))
    s.blockResult c (s.lat c 3 4) d (blockVec fd (l.map (·.1)) nw 0) (allFlags l))

/-- PACK (R328). -/
def execPack (a b : BitVec 5) (d : BitVec 4) (s : State) : Out :=
  rowExec s d (fun c => s.faBlock c && s.fdAny c) (fun c =>
    let fa := faOf (s.fcfg c)
    let y := s.operand c b
    s.blockResult c 1 d (blockVec fa (lanes (laneWidth fa) (s.operand c a)) (lane 32 y 0) (lane 32 y 1)) 0)

/-- UNPK (R361). -/
def execUnpk (a : BitVec 5) (d : BitVec 4) (m : BitVec 1) (s : State) : Out :=
  rowExec s d (fun c => s.faBlock c && s.fdAny c) (fun c =>
    let fa := faOf (s.fcfg c)
    let v := s.operand c a
    let r := if m = 0 then v.toNat % 2 ^ blockBits fa
      else blockScaleOf fa v + (if fa = 20 then blockSuper v * 2 ^ 32 else 0)
    s.blockResult c 1 d (BitVec.ofNat 512 r) 0)

/-- QDEC (R335): RNE whatever RM holds. -/
def execQdec (a part : BitVec 5) (d : BitVec 4) (p : BitVec 2) (s : State) : Out :=
  let nd (c : RowCtx) : Nat := 512 / laneWidth (fdOf (s.fcfg c))
  rowExec s d (fun c =>
      let fa := faOf (s.fcfg c)
      let fd := fdOf (s.fcfg c)
      isBlock fa && (if fa = 20 then decide (fd = 1) else decide (fd ≤ 2)) &&
      decide (part.toNat < (blockLen fa + nd c - 1) / nd c)) (fun c =>
    let fa := faOf (s.fcfg c)
    let fd := fdOf (s.fcfg c)
    let v := s.operand c a
    s.rowResult c (s.lat c 3 4) (laneWidth fd) p d ((List.range (nd c)).map (fun j =>
      let (x, e) := decodeBlock fa (lane (laneWidth fa) v (part.toNat * nd c + j)) (blockScaleOf fa v) (blockSuper v)
      let (r, f) := roundTo fd 0 x
      (r, f ||| flagIf e fINV))))

/-- One element of QENC for the formats other than Q16 (R336). -/
def qencElem (fd rm : Nat) (x : FVal) (scale : Option Rat) : Nat × Flags :=
  match scale with
  | none =>
    let (r, f) := roundElem fd rm .nan
    (r, f ||| fINV)
  | some q =>
    if x.isNan then roundElem fd rm .nan
    else if q = 0 then (if x.isZero then (0, 0) else (extreme (blockElem fd) x.neg, fDZ))
    else roundElem fd rm (mulNum x (.fin (1 / q))).1

/-- The Q16 code nearest to r, of two equally near the one of smaller magnitude (R336). -/
def q16Code (r : Rat) : Nat :=
  if r = 0 then (if Config.q16ZeroUp then 8 else 7)
  else
    (List.range 16).foldl (fun b c =>
      let db := rabs (q16Level b - r)
      let dc := rabs (q16Level c - r)
      if dc < db ∨ (dc = db ∧ rabs (q16Level c) < rabs (q16Level b)) then c else b) 0

/-- One element of QENC into Q16 under the scale s8 × S. -/
def q16Elem (x : FVal) (k : Rat) : Nat × Flags :=
  if x.isNan then (8, fINV)
  else if k = 0 then (8, flagIf (!x.isZero) fDZ)
  else match mulNum x (.fin (1 / k)) with
    | (.inf s, _) => (if s then 0 else 15, fSAT ||| fINX)
    | (y, _) =>
      let r := y.toRat
      let c := q16Code r
      (c, flagIf (decide (1 < rabs r)) fSAT ||| flagIf (decide (q16Level c ≠ r)) fINX)

/-- QENC (R336). -/
def execQenc (a b e : BitVec 5) (d m : BitVec 4) (s : State) : Out :=
  rowExec s d (fun c =>
      let fa := faOf (s.fcfg c)
      let fd := fdOf (s.fcfg c)
      isBlock fd && decide (fa ≤ 2) && (if fd = 20 then decide (fa ≠ 0) else decide (fa = 0 ∨ b = 31))) (fun c =>
    let fa := faOf (s.fcfg c)
    let fd := fdOf (s.fcfg c)
    let x := (decodeLanes fa (s.operand c a)).map (·.1)
    let y := (decodeLanes fa (s.operand c b)).map (·.1)
    let xs := if fa = 0 ∨ fd = 20 then x ++ y else x
    let z := s.operand c e
    let sc := lane 32 z 0
    let l :=
      if fd = 20 then
        match (ffmt 0).decode (lane 32 z 1) with
        | .nan => xs.map (fun _ => (8, fINV))
        | .inf _ => xs.map (fun _ => (8, fINV))
        | v => xs.map (fun x => q16Elem x (((sc % 256 : Nat) : Rat) * v.toRat))
      else xs.map (fun x => qencElem fd (rmSel m (s.fcfg c)) x (scaleWord fd sc).1)
    s.blockResult c (s.lat c 3 4) d (blockVec fd (l.map (·.1)) sc (lane 32 z 1)) (allFlags l))

end Sys2Proof.Machine
end

