-- ==== Sys2Proof/Machine/ElemInt.lean ====
section
/-! DEFINITION. Integer, bitwise and shift rows (R297 to R304, R334, R266, R363, R364). -/

namespace Sys2Proof.Machine

/-- A row over the lanes of its operands: each result element with its flags. -/
def laneRow (s : State) (lat3 lat2 : Nat) (d : BitVec 4) (p : BitVec 2) (legal : RowCtx → Bool)
    (f : RowCtx → Nat → Nat → Nat × Flags) : Out :=
  rowExec s d (fun c => s.faAny c && legal c) (fun c =>
    let w := s.faW c
    s.rowResult c (s.lat c lat3 lat2) w p d ((List.range (512 / w)).map (f c w)))

/-- A clamp of an exact result to a range, SAT when it changes the value (R297). -/
def clampRes (w : Nat) (k lo hi : Int) : Nat × Flags :=
  let (x, sat) := clamp k lo hi
  (ipat w x, flagIf sat fSAT)

/-- Signed reading of lane `i` of a vector. -/
def slane (w : Nat) (v : Vec) (i : Nat) : Int := ival w (lane w v i)

def smin (w : Nat) : Int := -(2 ^ (w - 1) : Int)
def smax (w : Nat) : Int := (2 ^ (w - 1) : Int) - 1

/-- IADD and ISUB with `f` the exact operation (R299). -/
def addMode (w : Nat) (m : BitVec 4) (f : Int → Int → Int) (x y : Nat) : Nat × Flags :=
  match m.toNat with
  | 0 => (ipat w (f x y), 0)
  | 1 => clampRes w (f (ival w x) (ival w y)) (smin w) (smax w)
  | _ => clampRes w (f x y) 0 (2 ^ w - 1)

/-- IADD (R299). -/
def execIadd (a b : BitVec 5) (d : BitVec 4) (p : BitVec 2) (m : BitVec 4) (s : State) : Out :=
  laneRow s 1 2 d p (fun _ => true) (fun c w i =>
    addMode w m (· + ·) (lane w (s.operand c a) i) (lane w (s.operand c b) i))

/-- ISUB (R299). -/
def execIsub (a b : BitVec 5) (d : BitVec 4) (p : BitVec 2) (m : BitVec 4) (s : State) : Out :=
  laneRow s 1 2 d p (fun _ => true) (fun c w i =>
    addMode w m (· - ·) (lane w (s.operand c a) i) (lane w (s.operand c b) i))

/-- IMUL (R301). -/
def execImul (a b : BitVec 5) (d : BitVec 4) (p : BitVec 2) (m : BitVec 4) (s : State) : Out :=
  laneRow s 3 4 d p (fun _ => true) (fun c w i =>
    let x := lane w (s.operand c a) i
    let y := lane w (s.operand c b) i
    (match m.toNat with
     | 0 => x * y % 2 ^ w
     | 1 => ipat w (Int.fdiv (ival w x * ival w y) (2 ^ w))
     | _ => x * y / 2 ^ w, 0))

/-- IMAD (R301). -/
def execImad (a b e : BitVec 5) (d : BitVec 4) (p : BitVec 2) (m : BitVec 4) (s : State) : Out :=
  laneRow s 3 4 d p (fun _ => true) (fun c w i =>
    let k := slane w (s.operand c a) i * slane w (s.operand c b) i + slane w (s.operand c e) i
    if m = 0 then (ipat w k, 0) else clampRes w k (smin w) (smax w))

/-- Whether lane `x` is below lane `y`, as `u` reads them (R302). -/
def laneLt (w : Nat) (u : BitVec 1) (x y : Nat) : Bool :=
  if u = 1 then decide (x < y) else decide (ival w x < ival w y)

/-- IMIN (R302). -/
def execImin (a b : BitVec 5) (d : BitVec 4) (p : BitVec 2) (u : BitVec 1) (s : State) : Out :=
  laneRow s 1 2 d p (fun _ => true) (fun c w i =>
    let x := lane w (s.operand c a) i
    let y := lane w (s.operand c b) i
    (if laneLt w u y x then y else x, 0))

/-- IMAX (R302). -/
def execImax (a b : BitVec 5) (d : BitVec 4) (p : BitVec 2) (u : BitVec 1) (s : State) : Out :=
  laneRow s 1 2 d p (fun _ => true) (fun c w i =>
    let x := lane w (s.operand c a) i
    let y := lane w (s.operand c b) i
    (if laneLt w u x y then y else x, 0))

/-- A bitwise row (R363). -/
def bitRow (s : State) (a b : BitVec 5) (d : BitVec 4) (p : BitVec 2) (f : Vec → Vec → Vec) : Out :=
  rowExec s d s.fmtAny (fun c => s.rowVec c 1 (s.faW c) p d (f (s.operand c a) (s.operand c b)))

/-- VAND (R363). -/
def execVand (a b : BitVec 5) (d : BitVec 4) (p : BitVec 2) (s : State) : Out := bitRow s a b d p (· &&& ·)
/-- VOR (R363). -/
def execVor (a b : BitVec 5) (d : BitVec 4) (p : BitVec 2) (s : State) : Out := bitRow s a b d p (· ||| ·)
/-- VXOR (R363). -/
def execVxor (a b : BitVec 5) (d : BitVec 4) (p : BitVec 2) (s : State) : Out := bitRow s a b d p (· ^^^ ·)
/-- VANDN (R363). -/
def execVandn (a b : BitVec 5) (d : BitVec 4) (p : BitVec 2) (s : State) : Out := bitRow s a b d p (fun x y => x &&& ~~~y)

/-- A shift row: the count by lane or immediate (R364); `f w x n` shifts lane pattern `x`. -/
def shiftRow (s : State) (a b k : BitVec 5) (d : BitVec 4) (p : BitVec 2) (m : BitVec 1)
    (f : Nat → Nat → Nat → Nat) : Out :=
  laneRow s 1 2 d p (fun c => s.fdAny c && (m = 0 || decide (k.toNat < s.faW c))) (fun c w i =>
    (f w (lane w (s.operand c a) i) (if m = 1 then k.toNat else lane w (s.operand c b) i), 0))

/-- ⌊x / 2^n⌋ of a signed lane; a count at or above the width leaves the sign (R364). -/
def sarLane (w x n : Nat) : Nat := ipat w (Int.fdiv (ival w x) (2 ^ (min n w)))

/-- A left shift; a count at or above the width gives 0. -/
def shlLane (w x n : Nat) : Nat := if w ≤ n then 0 else x * 2 ^ n % 2 ^ w

/-- An unsigned right shift; a count at or above the width gives 0. -/
def shrLane (w x n : Nat) : Nat := if w ≤ n then 0 else x / 2 ^ n

/-- VSHL (R364). -/
def execVshl (a b k : BitVec 5) (d : BitVec 4) (p : BitVec 2) (m : BitVec 1) (s : State) : Out :=
  shiftRow s a b k d p m shlLane
/-- VSHR (R364). -/
def execVshr (a b k : BitVec 5) (d : BitVec 4) (p : BitVec 2) (m : BitVec 1) (s : State) : Out :=
  shiftRow s a b k d p m shrLane
/-- VSAR (R364). -/
def execVsar (a b k : BitVec 5) (d : BitVec 4) (p : BitVec 2) (m : BitVec 1) (s : State) : Out :=
  shiftRow s a b k d p m sarLane

/-- A condition of ICMP and CMP (R267, R300) on two `w`-bit patterns. -/
def icond (cond w x y : Nat) : Bool :=
  match cond with
  | 0 => decide (x = y)
  | 1 => decide (x ≠ y)
  | 2 => decide (ival w x < ival w y)
  | 3 => decide (ival w y ≤ ival w x)
  | 4 => decide (x < y)
  | 5 => decide (y ≤ x)
  | 6 => decide (ival w x ≤ ival w y)
  | _ => decide (ival w y < ival w x)

/-- All ones or all zeros of a lane. -/
def onesIf (w : Nat) (b : Bool) : Nat := if b then 2 ^ w - 1 else 0

/-- ICMP (R300). -/
def execIcmp (a b : BitVec 5) (d : BitVec 4) (p : BitVec 2) (m : BitVec 4) (s : State) : Out :=
  laneRow s 1 2 d p (fun _ => true) (fun c w i =>
    (onesIf w (icond m.toNat w (lane w (s.operand c a) i) (lane w (s.operand c b) i)), 0))

/-- Number of one bits among the low `n`. -/
def popNat : Nat → Nat → Nat
  | 0, _ => 0
  | n + 1, x => x % 2 + popNat n (x / 2)

/-- POPC (R334). -/
def execPopc (a : BitVec 5) (d : BitVec 4) (p : BitVec 2) (s : State) : Out :=
  laneRow s 1 2 d p s.fdAny (fun c w i => (popNat w (lane w (s.operand c a) i), 0))

/-- Zero bits above the most significant one of `w` bits (R266). -/
def clzNat (w x : Nat) : Nat := if x = 0 then w else w - 1 - Nat.log2 x

/-- CLZ (R266). -/
def execClz (a : BitVec 5) (d : BitVec 4) (p : BitVec 2) (s : State) : Out :=
  laneRow s 1 2 d p s.fdAny (fun c w i => (clzNat w (lane w (s.operand c a) i), 0))

/-- ISUM (R304). -/
def execIsum (a : BitVec 5) (d m : BitVec 4) (s : State) : Out :=
  rowExec s d s.faAny (fun c =>
    let w := s.faW c
    let l := lanes w (s.operand c a)
    let v := match m.toNat with
      | 0 => l.sum % 2 ^ w
      | 1 => ipat 32 (l.map (ival w)).sum
      | _ => l.sum % 2 ^ 32
    s.rowVec c (s.lat c 6 7) w 0 d (BitVec.ofNat 512 v))

/-- IABS (R298). -/
def execIabs (a : BitVec 5) (d : BitVec 4) (p : BitVec 2) (m : BitVec 1) (s : State) : Out :=
  laneRow s 1 2 d p (fun _ => true) (fun c w i =>
    let k : Int := (slane w (s.operand c a) i).natAbs
    if m = 0 then (ipat w k, 0) else clampRes w k (smin w) (smax w))

/-- ISAT (R303). -/
def execIsat (a k : BitVec 5) (d : BitVec 4) (p : BitVec 2) (u : BitVec 1) (s : State) : Out :=
  laneRow s 1 2 d p (fun c => decide (k.toNat + 1 ≤ s.faW c)) (fun c w i =>
    let x := slane w (s.operand c a) i
    if u = 0 then clampRes w x (smin (k.toNat + 1)) (smax (k.toNat + 1)) else clampRes w x 0 (2 ^ (k.toNat + 1) - 1))

end Sys2Proof.Machine
end

