-- ==== Sys2Proof/Machine/ElemMove.lean ====
section
/-! DEFINITION. Element rows that move bits: COPY, XPT, SEL, BCST, SHUF, ZIP, UNZ, the predicate rows, ITER and NOP. -/

namespace Sys2Proof.Machine

/-- NOP (R324). -/
def execNop (s : State) : Out := rowExec s 0 s.fmtAny (fun _ => s)

/-- COPY (R270). -/
def execCopy (a : BitVec 5) (d : BitVec 4) (p : BitVec 2) (s : State) : Out :=
  rowExec s d s.fmtAny (fun c => s.rowVec c 1 (s.faW c) p d (s.operand c a))

/-- XPT (R56, R376). -/
def execXpt (a i : BitVec 5) (d : BitVec 4) (p : BitVec 2) (s : State) : Out :=
  rowExec s d s.fmtAny (fun c =>
    s.issueEff c 1 (.rot (rotEntry i.toNat c.w) (s.operand c a) (maskOf (s.faW c) (guardBit p.toNat (s.faW c) (s.ceP c)))
      d.toNat))

/-- SEL (R347). -/
def execSel (a b : BitVec 5) (d : BitVec 4) (v : BitVec 1) (s : State) : Out :=
  rowExec s d s.fmtAny (fun c =>
    let w := s.faW c
    s.rowVec c 1 w 0 d (merge (s.operand c b) (s.operand c a) (maskOf w (fun i => pbit w (s.ceP c) i != (v == 1)))))

/-- The index of BCST: SC and MOD bits 1:0 (R260). -/
def bcstIndex (i : BitVec 5) (m : BitVec 2) : Nat := m.toNat * 32 + i.toNat

/-- BCST (R260). -/
def execBcst (a i : BitVec 5) (d : BitVec 4) (p m : BitVec 2) (s : State) : Out :=
  rowExec s d (fun c => s.fmtAny c && decide (bcstIndex i m < 512 / s.faW c)) (fun c =>
    let w := s.faW c
    s.rowVec c 1 w p d (ofLanes w (List.replicate (512 / w) (lane w (s.operand c a) (bcstIndex i m)))))

/-- SHUF (R351). -/
def execShuf (a b : BitVec 5) (d : BitVec 4) (p : BitVec 2) (s : State) : Out :=
  rowExec s d s.faWide (fun c =>
    let w := s.faW c
    let x := s.operand c a
    s.rowVec c 2 w p d (ofLanes w ((lanes w (s.operand c b)).map (fun i =>
      if 2 ^ (w - 1) ≤ i then 0 else lane w x (i % (512 / w))))))

/-- ZIP (R362). -/
def execZip (a b : BitVec 5) (d : BitVec 4) (p : BitVec 2) (h : BitVec 1) (s : State) : Out :=
  rowExec s d s.faWide (fun c =>
    let w := s.faW c
    let x := s.operand c a
    let y := s.operand c b
    let m := 512 / w
    s.rowVec c 2 w p d (ofLanes w ((List.range m).map (fun i =>
      lane w (if i % 2 = 0 then x else y) (h.toNat * (m / 2) + i / 2)))))

/-- UNZ (R362). -/
def execUnz (a b : BitVec 5) (d : BitVec 4) (p : BitVec 2) (h : BitVec 1) (s : State) : Out :=
  rowExec s d s.faWide (fun c =>
    let w := s.faW c
    let x := s.operand c a
    let y := s.operand c b
    let m := 512 / w
    s.rowVec c 2 w p d (ofLanes w ((List.range m).map (fun i =>
      if i < m / 2 then lane w x (2 * i + h.toNat) else lane w y (2 * (i - m / 2) + h.toNat)))))

/-- A row that writes P with latency 1 (R57, R329). -/
def predRow (s : State) (a : BitVec 5) (v : BitVec 1) (f : BitVec 64 → BitVec 64 → BitVec 64) : Out :=
  rowExec s 0 s.fmtAny (fun c =>
    let w := s.faW c
    let m := predMask w (s.operand c a)
    s.issueEff c 1 (.pred (f (s.ceP c) (if v = 1 then predInv w m else m))))

/-- PMOV (R333). -/
def execPmov (a : BitVec 5) (s : State) : Out := predRow s a 0 (fun _ m => m)

/-- PAND (R329). -/
def execPand (a : BitVec 5) (v : BitVec 1) (s : State) : Out := predRow s a v (fun p m => p &&& m)

/-- POR (R329). -/
def execPor (a : BitVec 5) (v : BitVec 1) (s : State) : Out := predRow s a v (fun p m => p ||| m)

/-- PXOR (R329). -/
def execPxor (a : BitVec 5) (v : BitVec 1) (s : State) : Out := predRow s a v (fun p m => p ^^^ m)

/-- PGET (R331). -/
def execPget (d : BitVec 4) (p : BitVec 2) (s : State) : Out :=
  rowExec s d s.fmtAny (fun c => s.rowVec c 1 (s.faW c) p d (maskOf (s.faW c) (pbit (s.faW c) (s.ceP c))))

/-- ITER (R305). -/
def execIter (d : BitVec 4) (p m : BitVec 2) (s : State) : Out :=
  rowExec s d s.faAny (fun c =>
    let w := s.faW c
    s.rowVec c (s.lat c 1 2) w p d (ofLanes w ((List.range (512 / w)).map (fun j =>
      match m.toNat with
      | 0 => c.inst
      | 1 => j
      | _ => c.inst * (512 / w) + j))))

end Sys2Proof.Machine
end

