-- ==== Sys2Proof/Machine/EvBase.lean ====
section
/-! DEFINITION. Device steps of the stacks: cabinets, reduction engine, optimiser unit, refresh and takeover, remote reads
and their access-control table (R191, R193, R196 to R199). -/

namespace Sys2Proof.Machine

/-- CABINET_OPERATION (R196). -/
def execCabinetOperation (st pch : Nat) (s : State) : Out := .next (s.baseStep st 0 pch)
/-- REDUCTION_OPERATION (R197). -/
def execReductionOperation (st : Nat) (s : State) : Out := .next (s.baseStep st 1 0)
/-- OPTIMISER_UPDATE (R198). -/
def execOptimiserUpdate (st : Nat) (s : State) : Out := .next (s.baseStep st 2 0)

/-! ### Refresh (R191, R193) -/

/-- Fabric cycles of 8 µs at 1.25 GHz (R10). -/
def eightMicros : Nat := 10000

/-- The drawers of a stack that hold a row and whose key passes a test, changed; each still holds its row. -/
def Stack.eachDrawer (x : Stack) (p : Nat → Bool) (f : Drawer → Drawer) : Stack :=
  { x with drawers := x.drawers.map (fun e => if p e.1 && e.2.row.isSome && !e.2.resv then (e.1, f e.2) else e) }

/-- A drawer closed for a refresh and reopened after it: the same row under the same handle. One that a takeover has
evicted stays so. -/
def Drawer.refreshed (x : Drawer) : Drawer := x

/-- PER_BANK_REFRESH (R191): the bank's drawers are closed and reopened with the same handles. -/
def execPerBankRefresh (st pch bank : Nat) (s : State) : Out :=
  .next (s.setStack st ((s.stack st).eachDrawer (fun k => k / 4 == 16 * pch + bank) Drawer.refreshed))

/-- The cycle since which a stack has to be taken over: 8 µs without a heartbeat are over, whether or not one has come since. -/
def Stack.lapse (x : Stack) (now : Nat) : Option Nat :=
  if x.takenOver then none
  else match x.lapsed with
    | some t => some t
    | none => if x.lastBeat + eightMicros ≤ now then some (x.lastBeat + eightMicros) else none

/-- REFRESH_HEARTBEAT (R193): a heartbeat after a gap of 8 µs or more resumes the series. -/
def execRefreshHeartbeat (st : Nat) (s : State) : Out :=
  let x := s.stack st
  let fresh := decide (x.lastBeat + eightMicros ≤ s.cycle)
  .next (s.setStack st { x with
    lastBeat := s.cycle
    lapsed := x.lapse s.cycle
    resumed := if x.takenOver ∨ (x.lapse s.cycle).isSome then
      (if fresh ∨ x.resumed.isNone then some s.cycle else x.resumed) else none })

/-- REFRESH_TAKEOVER (R193): every drawer is written back and marked evicted. -/
def execRefreshTakeover (st : Nat) (s : State) : Out :=
  let x := s.stack st
  if (x.lapse s.cycle).isSome then
    let x := x.eachDrawer (fun _ => true) (fun d => { d with evicted := true })
    .next (s.setStack st { x with
      takenOver := true
      takeovers := x.takeovers + 1
      lapsed := none
      resumed := if x.lastBeat + eightMicros ≤ s.cycle then none else x.resumed })
  else .next s

/-- REFRESH_HANDBACK (R193). -/
def execRefreshHandback (st : Nat) (s : State) : Out :=
  let x := s.stack st
  match x.resumed with
  | none => .next s
  | some r =>
    if x.takenOver && decide (r + eightMicros ≤ s.cycle ∧ s.cycle < x.lastBeat + eightMicros) then
      .next (s.setStack st { x with takenOver := false, resumed := none })
    else .next s

/-! ### The remote link (R199) -/

/-- REMOTE_READ_REQUEST (R199): the bytes go to the requester, none with an uncorrectable error in them (R246); a denial is
counted. -/
def execRemoteReadRequest (st pkg off n : Nat) (s : State) : Out :=
  match (s.stack st).actMatch pkg off with
  | none => .next (({ s with hostData := [] } : State).actDeny st)
  | some k =>
    let key := stackKey (linOf (st % 8 * 2 ^ 36 + off % 2 ^ 36))
    if s.poisoned key n then .next { s.reopenRow key with hostData := [] }
    else
      let (l, s) := s.lookBack none true key (some k) (s.plainBytes key (some k) n)
      .next { s.reopenRow key with hostData := l }

/-- ACT_WINDOW_EXPIRY (R199). -/
def execActWindowExpiry (st : Nat) (s : State) : Out := .next (s.setStack st { s.stack st with denials := 0 })

/-- ACT_WRITE (R199): reserved bits read as zero. -/
def execActWrite (st idx : Nat) (w0 w1 : Word) (s : State) : Out :=
  let x := s.stack st
  let e : Word × Word := (w0 &&& 0xFFFFF000001FFFFF, w1 &&& 0x1FFFFF)
  .next (if idx < 256 then s.setStack st { x with act := tset (0, 0) x.act idx e } else s)

end Sys2Proof.Machine
end

