-- ==== Sys2Proof/Machine/EvEngine.lean ====
section
/-! DEFINITION. Device steps of stream engines, of stores on their way to a node, of the collective engines and of derived
builds (R108 to R110, R149, R151, R152, R247). -/

namespace Sys2Proof.Machine

/-- STREAM_COMMAND_START (R108). -/
def execStreamCommandStart (die eng k : Nat) (s : State) : Out :=
  if s.mayStart die eng k then .next (s.startStream die eng k) else .next s

/-- STREAM_COMPLETION (R110). -/
def execStreamCompletion (die eng k : Nat) (s : State) : Out :=
  if s.mayFinish die eng k then .next (s.finishStream die eng k) else .next s

/-- The address of the first instruction of a core that has not issued: the next one while an issued one stalls. -/
def Core.unissued (c : Core) : Word := if c.wait ≠ .none ∨ c.stallAt = some c.pc then c.pc + 4 else c.pc

/-- NODE_STORE_ARRIVAL (R152): a store into shadow storage is not performed and raises ACCESS late (R149). -/
def execNodeStoreArrival (die k : Nat) (s : State) : Out :=
  let c := s.core die
  match c.stq[k]? with
  | none => .next s
  | some e =>
    if e.loc.tgt ≠ 2 ∨ !c.mayArrive k then .next s
    else
      let s := s.setCore die { c with stq := c.stq.eraseIdx k }
      if s.inShadow e.loc.die e.loc.ring e.loc.node e.loc.off e.bytes.length then
        .next (s.takeTrap die 3 true ⟨tACCESS, e.addr⟩ c.unissued)
      else .next (s.nodeStore e.loc.die e.loc.ring e.loc.node e.loc.off e.bytes)

/-! ### Collectives (R197, R247) -/

/-- One participant in this package: its die, descriptor, and its buffer or the status of its failing check. -/
structure Part where
  die : Nat
  addr : Word
  dsc : Word
  loc : Except Nat Loc

/-- The participants of a launch in this package, by launch die index. -/
def State.parts (s : State) (l : Nat) : List (Nat × Part) :=
  (s.localDies (s.launch l)).map (fun e =>
    let (a, w) := (s.core e.2).collArgs
    (e.1, ⟨e.2, a, w, s.collLoc e.2 a w⟩))

def Part.bad (p : Part) : Bool := match p.loc with
  | .error _ => true
  | .ok _ => false

/-- The `count` elements from element `from_` on of participant `i`'s buffer; what another package holds is free, a page of target
4 is read as the apertures are (R103). -/
def State.collElems (s : State) (ps : List (Nat × Part)) (w : Word) (from_ count i : Nat) : List Nat :=
  let sz := collSize w
  let far (j : Nat) : Nat := leNat ((List.range sz).map (fun k => Config.remoteByte (s.freeCtr + i) (j * sz + k)))
  let els := (List.range count).map (from_ + ·)
  match ps.find? (fun e => e.1 == i) with
  | none => els.map far
  | some (_, p) => match p.loc with
    | .error _ => []
    | .ok loc => els.map (fun j =>
      let l := s.collSpot p.die p.addr loc (j * sz)
      if l.tgt = 9 then far j else if l.tgt = 4 then leNat (s.mmioBytes l.off sz) else leNat (s.plainBytes l.key l.slot sz))

/-- One combination of the tree, with whether a sum left [−2^127, 2^127). -/
def collOp (kind : Nat) (a b : Nat × Bool) : Nat × Bool :=
  match kind with
  | 0 => ((addRound 0 0 ((ffmt 0).decode a.1) ((ffmt 0).decode b.1)).1, a.2 || b.2)
  | 1 =>
    let t := ival 128 a.1 + ival 128 b.1
    ((a.1 + b.1) % 2 ^ 128, a.2 || b.2 || decide (t < -(2 ^ 127) ∨ 2 ^ 127 ≤ t))
  | _ =>
    let x := (ffmt 0).decode a.1
    let y := (ffmt 0).decode b.1
    let r := if aboveNum y x then b.1 else a.1
    (if ((ffmt 0).decode r).isNan then (ffmt 0).canon else r, a.2 || b.2)

/-- The result of a collective over N participants: its elements, and whether a sum overflowed. -/
def collResult (kind : Nat) (vs : List (List Nat)) : List Nat × Bool :=
  if kind = 3 then (vs.flatten, false)
  else
    let n := match vs with
      | v :: _ => v.length
      | [] => 0
    let out := (List.range n).map (fun e =>
      match treeFold (collOp kind) 20 (vs.map (fun v => ((v[e]?).getD 0, false))) with
      | [r] => r
      | _ => (0, false))
    (out.map (·.1), out.any (·.2))

/-- A participant's buffer written, element by element. -/
def State.collWrite (s : State) (p : Part) (sz : Nat) (l : List Nat) : State :=
  match p.loc with
  | .error _ => s
  | .ok loc => (l.foldl (fun (t : State × Nat) x =>
      (t.1.writeLoc (s.collSpot p.die p.addr loc t.2) (leBytes sz x), t.2 + sz)) (s, 0)).1

def State.collStatus (s : State) (d n : Nat) : State :=
  s.setCore d { s.core d with wait := .collDone (BitVec.ofNat 8 n) }

/-- The elements of its own buffer that participant `i` gives: all, or for KIND 3 its own part (R247). -/
def collFrom (w : Word) (i : Nat) : Nat := if collKind w = 3 then i * collCount w else 0

/-- What a participant's part of a collective raises: ACCESS for shadow storage in the buffer (R149), ECC for an uncorrectable
error in what is read (R246). -/
def State.collFault (s : State) (i : Nat) (p : Part) : Option Nat :=
  match p.loc with
  | .ok loc =>
    if s.collShadow p.die p.addr p.dsc then some tACCESS
    else if (List.range (collCount p.dsc)).any (fun j =>
      let l := s.collSpot p.die p.addr loc ((collFrom p.dsc i + j) * collSize p.dsc)
      l.tgt != 9 && l.tgt != 4 && s.poisoned l.key (collSize p.dsc)) then some tECC
    else none
  | .error _ => none

/-- The collective over the participants' buffers. -/
def State.collective (s : State) (l : Nat) : State :=
  let x := s.launch l
  let ps := s.parts l
  match ps with
  | [] => s
  | (_, p0) :: _ =>
    let w := p0.dsc
    let same := ps.all (fun e => collKind e.2.dsc == collKind w && collCount e.2.dsc == collCount w)
    let remoteBad := !s.isLocal x && Config.freeBit s.freeCtr
    let s := { s with freeCtr := s.freeCtr + 1 }
    if ps.any (fun e => e.2.bad) ∨ !same ∨ remoteBad then
      ps.foldl (fun s e => match e.2.loc with
        | .error n => s.collStatus e.2.die n
        | .ok _ => s.collStatus e.2.die 4) s
    else
      match ps.findSome? (fun e => (s.collFault e.1 e.2).map (fun t => (t, e.2))) with
      | some (t, p) => s.takeTrap p.die 3 true ⟨t, p.addr⟩ (s.core p.die).pc
      | none =>
        let own (i : Nat) : List Nat := s.collElems ps w (collFrom w i) (collCount w) i
        let (r, above_) := collResult (collKind w) ((List.range x.dieCount).map own)
        ps.foldl (fun s e => (s.collWrite e.2 (collSize w) r).collStatus e.2.die (if above_ then 5 else 1)) s

/-- COLLECTIVE_COMPLETION (R247): every core of the launch waits in the same collective. -/
def execCollectiveCompletion (l : Nat) (s : State) : Out :=
  let x := s.launch l
  let cs := (s.localDies x).map (fun e => s.core e.2)
  match cs with
  | [] => .next s
  | c :: _ =>
    if cs.all (fun b => decide (b.wait = .coll) && b.colls == c.colls) && (s.isLocal x || Config.remoteReady s.cycle c.colls) then
      .next (s.collective l)
    else .next s

/-! ### Derived builds (R151) -/

/-- DERIVED_BUILD_DONE (R151): `node` counts the nodes of a die, 16 to a ring. -/
def execDerivedBuildDone (die node dix : Nat) (s : State) : Out :=
  let ring := node / 16
  let n := node % 16
  match s.deriv die ring n dix with
  | none => .next s
  | some x =>
    if x.building then
      let y := newDerived x.words false
      let s := s.heal (sramKey die ring n x.shBase) x.shSize
      .next (s.setDeriv die ring n dix (some { y with dovf := y.overflows (fun o => s.nodeView die ring n [] o) }))
    else .next s

end Sys2Proof.Machine
end

