-- ==== Sys2Proof/Machine/EvFabric.lean ====
section
/-! DEFINITION. Device steps of the fabric: tile tasks and children, freezes' ends, the reconfiguration token and its swap,
prefetches, circuits, fault stops (R27, R32, R34, R38 to R41, R162, R183, R184, R215, R229, R230). -/

namespace Sys2Proof.Machine

/-- The descriptor of a region of a die. -/
def State.desc (s : State) (d n : Nat) : Option Word := tget none (s.die d).act.rdesc n

/-- Every control core of a launch in this package has halted. -/
def State.allHalted (s : State) (l : Nat) : Bool :=
  let x := s.launch l
  (s.localDies x).all (fun e => (s.core e.2).halted) && (s.isLocal x || Config.remoteReady s.cycle 0)

/-- A victim's die no longer admits tile tasks, except those that its token's step 1 waits for (R45, R241). -/
def State.admits (s : State) (d : Nat) : Bool :=
  match s.launchOf d with
  | none => true
  | some l => (s.launch l).phase != .stopping || (s.die d).token.isSome

/-- TILE_TASK_BEGIN (R27). -/
def execTileTaskBegin (die rg : Nat) (s : State) : Out :=
  match s.desc die rg with
  | none => .next s
  | some desc =>
    if s.admits die && (s.region die rg).mayBegin desc then .next (s.setDie die ((s.die die).beginTask rg desc)) else .next s

/-- CONTROLLER_CHILD_START (R34); none after every core of the launch has halted (R296). -/
def execControllerChildStart (die cell child : Nat) (s : State) : Out :=
  let ended := match s.launchOf die with
    | some l => s.allHalted l
    | none => false
  if !ended && (s.die die).childReady cell child then .next (s.setDie die ((s.die die).startChild cell child)) else .next s

/-- REGION_UNFREEZE (R38). -/
def execRegionUnfreeze (die rg : Nat) (s : State) : Out :=
  let x := s.region die rg
  if x.mayUnfreeze s.cycle then .next (s.setRegion die rg { x with frz := none }) else .next s

/-- REGION_WDOG (R39). -/
def execRegionWdog (die rg : Nat) (s : State) : Out :=
  match s.desc die rg with
  | none => .next s
  | some desc => if (s.region die rg).wdogDue s.cycle then .next (s.wdogFault die rg desc) else .next s

/-! ### The token (R40, R41, R184, R215) -/

/-- Step 1 is complete for a region: no started tree gives it a further tile task and its current one admits no more. -/
def Die.stepOne (x : Die) (n : Nat) (desc : Word) : Bool :=
  let r := x.reg n
  !r.run || (!x.treeRuns n && decide (r.enables = 0) && r.tasks.all (fun t => decide (t.1 + t.2 ≤ r.wrap desc)))

/-- Step 2 is complete for a region: its last epilogue row has run. -/
def Die.stepTwo (x : Die) (n : Nat) (desc : Word) : Bool := x.stepOne n desc && (x.reg n).finished desc

/-- The regions of the active load. -/
def Die.regions (x : Die) : List (Nat × Word) := x.act.rdesc.filterMap (fun e => e.2.map (fun w => (e.1, w)))

/-- Regions hold from the cycle in which their own step 2 completes (R184). -/
def Die.holdDone (x : Die) : Die :=
  x.regions.foldl (fun x e =>
    let r := x.reg e.1
    if r.run && !r.hold && x.stepTwo e.1 e.2 then x.setReg e.1 { r with hold := true } else x) x

/-- The circuits of a launch that the active load of a die has, with their numbers in the launch's list. -/
def State.circuitsAt (s : State) (l d : Nat) : List (Nat × CircuitRec) :=
  let x := s.launch l
  (x.circuits.zipIdx.filter (fun e => x.items.any (fun b =>
    b.load == (s.die d).act.load && b.item == CfgItem.circuit e.1))).map (fun e => (e.2, e.1))

/-- The circuits that start or end at a die of the launch. -/
def State.circuitsOf (s : State) (l d : Nat) : List (Nat × CircuitRec) :=
  let i := (s.core d).dien.toNat
  (s.circuitsAt l d).filter (fun e => e.2.sdie == i || e.2.ddie == i)

/-- Every die that a circuit of the outgoing load links to this one has completed step 2 (R215). -/
def State.linkedReady (s : State) (l d : Nat) : Bool :=
  let x := s.die d
  (s.circuitsOf l d).all (fun e =>
    let other := if e.2.sdie = x.core.dien.toNat then e.2.ddie else e.2.sdie
    match s.physDie (s.launch l) other with
    | some (some pd) =>
      let y := s.die pd
      decide (x.kth < y.kth) || (match y.token with
        | some t => decide (3 ≤ t.step)
        | none => false)
    | _ => Config.remoteReady s.cycle e.1)

/-! ### Circuits (R30, R32) -/

/-- A region of the die has stopped for a fault: its circuits stand with it. -/
def Die.halted (x : Die) : Bool := x.regs.any (fun e => e.2.halted)

/-- One end of a circuit: the local die with its slot, or `none` when it lies in another package. -/
def State.circuitEnd (s : State) (l di ring node : Nat) : Option (Nat × Nat × Nat) :=
  match s.physDie (s.launch l) di with
  | some (some pd) => some (pd, ring, slotOfNode node)
  | _ => none

def CircuitRec.mesh (c : CircuitRec) : Bool := c.hops.any (fun h => h.getLsbD 13)

/-- The buffers a circuit would claim now: source's consumer buffer full, destination's producer buffer empty. -/
def State.circuitBufs (s : State) (l : Nat) (c : CircuitRec) : Option (Nat × Nat) :=
  let src := match s.circuitEnd l c.sdie c.sring c.snode with
    | none => some 0
    | some (d, r, sl) =>
      let w := s.shelf d r sl c.ssh
      let b := s.buf d r sl c.ssh
      if b.isFull (b.cons w) then some (b.cons w) else none
  let dst := match s.circuitEnd l c.ddie c.dring c.dnode with
    | none => some 0
    | some (d, r, sl) =>
      let w := s.shelf d r sl c.dsh
      let b := s.buf d r sl c.dsh
      if b.isFull (b.prod w) then none else some (b.prod w)
  match src, dst with
  | some i, some j => some (i, j)
  | _, _ => none

/-- A circuit is configured in the active load of its ends in this package, and none of them is in step 6. -/
def State.circuitOn (s : State) (l n : Nat) (c : CircuitRec) : Bool :=
  let at_ (e : Option (Nat × Nat × Nat)) : Bool := match e with
    | some (d, _, _) => (s.circuitsAt l d).any (fun e => e.1 == n) && !(s.die d).halted &&
      decide ((s.die d).tokenStep ≠ 6)
    | none => true
  at_ (s.circuitEnd l c.sdie c.sring c.snode) && at_ (s.circuitEnd l c.ddie c.dring c.dnode)

/-- Every buffer that a circuit of the outgoing load could carry has been delivered (R215). -/
def State.circuitIdle (s : State) (l n : Nat) (c : CircuitRec) : Bool :=
  (tget none (s.launch l).transit n).isNone && !((s.circuitBufs l c).isSome && s.circuitOn l n c)

/-- No access of the outgoing load is outstanding on the die (R40 step 5, R215). -/
def State.quietDie (s : State) (d : Nat) : Bool :=
  let x := s.die d
  x.regs.all (fun e => e.2.pipe.isEmpty) && x.wports.isEmpty && x.xports.isEmpty &&
  x.xns.all (fun e => e.2.flight.isEmpty && e.2.cmds.isEmpty) && x.core.stq.isEmpty &&
  x.engines.all (fun e => e.2.cmds.all (fun c => c.next)) && !s.baseBusy d

/-- No derived region of the die is built or has a store still to reflect. -/
def Die.derivsQuiet (x : Die) (now : Nat) : Bool :=
  x.derivs.all (fun e => match e.2 with
    | some v => !v.building && v.quiet x.g2 now
    | none => true)

/-- The step a token is in has completed on the die; step 5 asks for the derived regions again, since a store may have arrived
in it (R215). -/
def State.stepDone (s : State) (d step : Nat) : Bool :=
  let x := s.die d
  match step with
  | 1 => x.regions.all (fun e => x.stepOne e.1 e.2)
  | 2 => x.regions.all (fun e => !(x.reg e.1).run || (x.reg e.1).hold)
  | 3 => x.engines.all (fun e => e.2.cmds.all (fun c => decide (c.kind < 3) || c.next))
  | 4 => x.derivsQuiet s.cycle
  | 5 => s.quietDie d && x.derivsQuiet s.cycle && x.prefetch.isNone && (match s.launchOf d with
    | some l => s.linkedReady l d && (s.circuitsOf l d).all (fun e => s.circuitIdle l e.1 e.2)
    | none => true)
  | _ => false

/-- SCHED of the token: no region may own the ring (R96). -/
def State.carryFault (s : State) (d : Nat) (k sh : Nat) : State :=
  let ring := k / 48
  let sl := k % 48
  let a := BitVec.ofNat 64 sh
  match (s.die d).act.regionAt ring with
  | some (n, desc) =>
    let x := s.region d n
    s.raiseFault d n ring sl 1 tSCHED (x.mc desc) 0 a a 0
  | none => s.takeTrap d 1 false ⟨tSCHED, a⟩ (s.core d).pc (unit := some (ring, sl)) (faddr := a)

/-- RECONFIG_STEP (R40): regions hold one by one in steps 1 and 2; the token advances when its step is complete; step 6
begins with the CARRY check of R96. DESIGN CHOICE (log 23): a record of that check gives STEP 5, since the token has not gone on;
the spec does not say whether the step counts as reached. -/
def execReconfigStep (die : Nat) (s : State) : Out :=
  match (s.die die).token with
  | none => .next s
  | some t =>
    let s := if t.step ≤ 2 then s.setDie die (s.die die).holdDone else s
    if !s.stepDone die t.step then .next s
    else match (if t.step = 5 then (s.die die).shd.carryBad (s.die die).act else none) with
      | some (k, sh) => .next (s.carryFault die k sh)
      | none => .next (s.setDie die { s.die die with token := some ⟨t.step + 1, s.cycle⟩ })

/-- The prefetch of the next load begins when the image has it. -/
def State.nextPrefetch (s : State) (d : Nat) : State :=
  let x := s.die d
  let k := x.nextLoad
  if (s.launchAt d).hasLoad k then s.setDie d { x with prefetch := some k } else s

/-- Step 6 (R40, R183): the swap, the new load's contents, the next prefetch. -/
def State.swapDie (s : State) (d : Nat) : State := ((s.setDie d (s.die d).swap).activateLoad d).nextPrefetch d

/-- Every region of a die without a fault of its own stands, without skid (R230). -/
def State.standStill (s : State) (d : Nat) : State :=
  (s.die d).regions.foldl (fun s r =>
    let y := s.region d r.1
    if y.fstop.isNone && !y.halted then s.setRegion d r.1 { y with halted := true } else s) s

/-- The cycle of a launch's first fault. -/
def Launch.firstFault (x : Launch) : Option Nat := (x.faults.map (·.wall)).min?

/-- The regions of the die's launch have stopped for its first fault. -/
def State.frozenAfterFault (s : State) (d : Nat) : Bool :=
  match s.launchOf d with
  | none => false
  | some l => match (s.launch l).firstFault with
    | some f => decide (f + 70 ≤ s.cycle)
    | none => false

/-- RECONFIG_SWAP (R40): step 6 lasts 8 cycles. The regions of the new load stand where those of their launch do (R230). -/
def execReconfigSwap (die : Nat) (s : State) : Out :=
  match (s.die die).token with
  | some t =>
    if t.step = 6 ∧ t.since + 8 ≤ s.cycle then
      let s := s.swapDie die
      .next (if s.frozenAfterFault die then s.standStill die else s)
    else .next s
  | none => .next s

/-- PREFETCH_COMPLETE (R41, R183, R264). -/
def execPrefetchComplete (die : Nat) (s : State) : Out :=
  let x := s.die die
  match x.prefetch with
  | none => .next s
  | some k =>
    match s.launchOf die with
    | none => .next (s.setDie die { x with prefetch := none })
    | some l =>
      let y := s.launch l
      match s.overDerived die (y.loadItems k) with
      | some (p, code) => .next ((s.setDie die { x with prefetch := none, token := x.tokenLeft }).refuseLoad die p code)
      | none => .next (s.setDie die { x with shd := x.shd.install y k, prefetch := none })

/-! ### Transfers (R32) -/

/-- CIRCUIT_TRANSFER_START (R32). -/
def execCircuitTransferStart (l c : Nat) (s : State) : Out :=
  let x := s.launch l
  match x.circuits[c]? with
  | none => .next s
  | some r =>
    match s.circuitBufs l r with
    | some b =>
      if s.circuitOn l c r && (tget none x.transit c).isNone then .next (s.setLaunch l { x with transit := tset none x.transit c (some b) })
      else .next s
    | none => .next s

/-- The bytes of a source buffer and its tag. -/
def State.circuitData (s : State) (l : Nat) (c : CircuitRec) (i n : Nat) : List Byte × BitVec 16 :=
  match s.circuitEnd l c.sdie c.sring c.snode with
  | some (d, r, sl) =>
    let w := s.shelf d r sl c.ssh
    (s.bytes (sramKey d r c.snode (bufBase w i)) (shBytes w), tget 0xFFFF (s.buf d r sl c.ssh).tags i)
  | none => ((List.range n).map (fun k => Config.remoteByte s.freeCtr k), BitVec.ofNat 16 (Config.freeNat s.freeCtr))

/-- Bytes with an uncorrectable error at the source of a copy are poisoned at its destination (R246). -/
def State.copyPoison (s : State) (src dst n : Nat) : State :=
  { s with poison := (List.range n).foldl (fun p i =>
      if s.poisoned (src + i) 1 then tset false p (granule (dst + i)) true else p) s.poison }

/-- CIRCUIT_PUBLISH (R32): the beats, the publish at the destination, then the release of the source. -/
def execCircuitPublish (l c : Nat) (s : State) : Out :=
  let x := s.launch l
  match x.circuits[c]?, tget none x.transit c with
  | some r, some (i, j) =>
    let s := s.setLaunch l { x with transit := tset none x.transit c none }
    let s := match s.circuitEnd l r.ddie r.dring r.dnode with
      | none => s
      | some (d, ring, sl) =>
        let w := s.shelf d ring sl r.dsh
        let (b, tag) := s.circuitData l r i (shBytes w)
        let beat := if CircuitRec.mesh r then 320 else 800
        let (s, _) := (chunks beat ((b.length + beat - 1) / beat) b).foldl (fun (t : State × Nat) p =>
          (t.1.nodeStore d ring r.dnode t.2 p, t.2 + p.length)) (s, bufBase w j)
        let s := match s.circuitEnd l r.sdie r.sring r.snode with
          | some (sd, sr, ss) =>
            let v := s.shelf sd sr ss r.ssh
            s.copyPoison (sramKey sd sr r.snode (bufBase v i)) (sramKey d ring r.dnode (bufBase w j)) (shBytes v)
          | none => s
        ({ s with freeCtr := s.freeCtr + 1 } : State).publish d ring sl r.dsh tag
    .next (match s.circuitEnd l r.sdie r.sring r.snode with
      | some (d, ring, sl) => s.release d ring sl r.ssh
      | none => s)
  | _, _ => .next s

/-! ### Faults (R229, R230) -/

/-- FAULT_STOP (R229). -/
def execFaultStop (die rg : Nat) (s : State) : Out :=
  match s.desc die rg with
  | none => .next s
  | some desc => .next (s.stopRings die rg desc)

/-- REGION_FAULT_FREEZE (R230): 70 cycles after the first fault, every region of the launch without a fault of its own
stops without skid; tokens that have not reached step 6 are abandoned (R41). -/
def execRegionFaultFreeze (l : Nat) (s : State) : Out :=
  let x := s.launch l
  match x.firstFault with
  | none => .next s
  | some f =>
    if s.cycle < f + 70 then .next s
    else .next ((s.localDies x).foldl (fun s e =>
      (s.setDie e.2 { s.die e.2 with token := (s.die e.2).tokenLeft }).standStill e.2) s)

end Sys2Proof.Machine
end

