-- ==== Sys2Proof/Machine/EvMgmt.lean ====
section
/-! DEFINITION. Device steps of the management processor and of the outside world: system registers written by firmware,
start-up, host accesses, throttling and shutdown, mesh links, alarms, errors, tokens, fault records (R12, R19 to R22, R230,
R231, R235, R237, R238, R244, R246). -/

namespace Sys2Proof.Machine

/-! ### Registers that firmware writes (R235, R340) -/

/-- ALARMP_WRITE (R235). -/
def execAlarmpWrite (v : Word) (s : State) : Out := .next { s with mgmt := s.mgmt.writeAlarmp v }

/-- ALARMS_CLEAR (R235). -/
def execAlarmsClear (v : Word) (s : State) : Out := .next { s with mgmt := s.mgmt.clearAlarms v }

/-- AGE_LIMIT_WRITE (R340): it applies from the next scheduler pass. -/
def execAgeLimitWrite (v : Word) (s : State) : Out :=
  .next { s with mgmt := { s.mgmt with ageLimit := v.setWidth 32 } }

/-- HTAB_WRITE (R340). -/
def execHtabWrite (die : Nat) (v : Word) (s : State) : Out := .next (s.setCore die ((s.core die).writeHtab v))

/-! ### Start-up (R20) -/

/-- Every queue in one state. -/
def State.allQueues (s : State) (qstate : BitVec 2) (err : Byte) : State :=
  (List.range 16).foldl (fun s q => s.setQueue q { s.queue q with qstate, booterr := err }) s

/-- Start-up has not run: no queue has opened or failed. -/
def State.starting (s : State) : Bool := !s.mgmt.linkUp && (List.range 16).all (fun q => (s.queue q).qstate == 0)

/-- The BOOTERR code of a failed start-up: that of the failing step; 0 when the link stays down after step 3, and for a
link that fails alone (R20). -/
def bootCode (fail : Nat) (noLink : Bool) : Byte :=
  if fail < 6 ∨ fail = 6 ∧ !noLink then BitVec.ofNat 8 fail else 0

/-- START_UP (R20): slot 0 is loaded and the queues open, or they report the code of the step that failed; after a failure
of steps 1 to 3 the link is still tried. The package's place in the mesh, the mesh's extents and the enrolled key hashes are
inputs (log 25). -/
def execStartUp (u : BootInput) (s : State) : Out :=
  if !s.starting || !s.mgmt.powered then .next s
  else if u.fail = 0 ∧ !u.noLink then
    let c := s.freeCtr
    let s : State := { s with
      freeCtr := c + 18
      keys := tset none s.keys 0 (some ⟨0, Config.slot0Key c⟩)
      mgmt := { s.mgmt with
        linkUp := true
        meshUp := BitVec.ofNat 16 (Config.freeNat (c + 1))
        meshDelay := (List.range 16).foldl (fun t k => tset 0 t k (Config.freeNat (c + 2 + k))) []
        pkgX := u.px
        pkgY := u.py
        meshW := max u.mw (u.px + 1)
        meshH := max u.mh (u.py + 1)
        enrolled := u.hashes.take 16 } }
    .next (s.allQueues 1 0)
  else .next (({ s with mgmt := { s.mgmt with linkUp := !u.noLink && decide (u.fail < 7) } } : State).allQueues 2 (bootCode u.fail u.noLink))

/-! ### Host accesses (R12) -/

/-- Where a byte of the HDM range lies. -/
inductive HdmAt where
  | stack (lin : Nat)
  | cap (off : Nat)
  | queue (off : Nat)
  | none
  deriving DecidableEq, Repr

def hdmAt (off : Nat) : HdmAt :=
  if off < 2 ^ 39 then .stack (linOf off)
  else if off < 2 ^ 39 + 2 ^ 40 then .cap (off - 2 ^ 39)
  else if off < 2 ^ 39 + 2 ^ 40 + 2 ^ 18 then .queue (off - 2 ^ 39 - 2 ^ 40)
  else .none

/-- A byte in the stacks or the capacity tier as the host reads it: key slot 0; one of a poisoned granule is free. -/
def State.hostByteAt (s : State) (k : Nat) : Byte :=
  if s.poisoned k 1 then Config.remoteByte s.freeCtr k else s.plainByte k (some 0)

/-- A byte as the host reads it. -/
def State.hostByte (s : State) (off : Nat) : Byte :=
  match hdmAt off with
  | .stack l => s.hostByteAt (stackKey l)
  | .cap o => s.hostByteAt (capKey o)
  | .queue o => s.mmioByte o
  | .none => 0

/-- The byte that a host read finds: of a store that is not yet performed for the host, either side (R207, R217, log 5). -/
def State.hostLook (s : State) (off : Nat) : Byte × State :=
  let at_ (k : Nat) : Byte × State :=
    let (l, s') := s.lookBack none true k (some 0) [s.hostByteAt k]
    (l.headD 0, s')
  match hdmAt off with
  | .stack l => at_ (stackKey l)
  | .cap o => at_ (capKey o)
  | _ => (s.hostByte off, s)

/-- `n` bytes as the host reads them. -/
def State.hostRead (s : State) (off : Nat) : Nat → List Byte × State
  | 0 => ([], s)
  | n + 1 =>
    let (b, s) := s.hostLook off
    let (l, s) := s.hostRead (off + 1) n
    (b :: l, s)

/-- Host writes, at most to the end of a 64 B granule at a time. -/
def State.hostWrite (s : State) (off : Nat) : Nat → List Byte → State
  | 0, _ => s
  | fuel + 1, l =>
    if l.isEmpty then s
    else
      let k := min l.length (64 - off % 64)
      let b := l.take k
      let s := match hdmAt off with
        | .stack a => (s.reopenRow (stackKey a)).store (stackKey a) (some 0) b
        | .cap o => s.store (capKey o) (some 0) b
        | .queue o => s.mmioStore o b
        | .none => s
      s.hostWrite (off + k) fuel (l.drop k)

/-- The evicted drawers that a host read meets are open again (R191); a row is contiguous in pieces of 256 B. -/
def State.hostReopen (s : State) (off n : Nat) : State :=
  (List.range ((off % 256 + n + 255) / 256)).foldl (fun s i => match hdmAt (off / 256 * 256 + 256 * i) with
    | .stack a => s.reopenRow (stackKey a)
    | _ => s) s

/-- HOST_ACCESS (R12). -/
def execHostAccess (wr : Bool) (off n : Nat) (data : List Byte) (s : State) : Out :=
  if !s.mgmt.linkUp then .next s
  else if wr then .next (s.hostWrite off data.length (data.take n))
  else
    let (l, s) := s.hostRead off n
    .next { s.hostReopen off n with hostData := l, freeCtr := s.freeCtr + 1 }

/-! ### Power and heat (R21, R22) -/

/-- POWER_THROTTLE (R21). -/
def execPowerThrottle (above_ : Bool) (s : State) : Out := .next { s with mgmt := { s.mgmt with thrPower := above_ } }

/-- THERMAL_THROTTLE (R22). -/
def execThermalThrottle (hot : Bool) (s : State) : Out := .next { s with mgmt := { s.mgmt with thrHot := hot } }

/-- The launches that have not ended. -/
def State.unended (s : State) : List Nat := (s.launches.filter (fun e => e.2.phase != .ended)).map (·.1)

/-- THERMAL_SHUTDOWN (R22): every launch ends with WDOG, the queues close, the dies lose power. -/
def execThermalShutdown (s : State) : Out :=
  let s := s.unended.foldl (fun s l =>
    let x := s.launch l
    (s.setLaunch l { x with faults := [⟨8, tWDOG, 0, none, 0, 0, s.cycle, s.launchStep l, none⟩] }).endFaulted l) s
  let s := s.allQueues 0 0
  .next { s with mgmt := { s.mgmt with powered := false } }

/-! ### Mesh links (R18, R19) -/

/-- The number this model gives the link of an edge of this package: north 0 to 3, south 4 to 7, west 8 to 11,
east 12 to 15 (DIRN 0 east, 1 west, 2 north, 3 south; `chan` which of two). -/
def meshLink (dirn x y chan : Nat) : Nat :=
  match dirn with
  | 0 => 12 + y
  | 1 => 8 + y
  | 2 => 2 * x + chan % 2
  | _ => 4 + 2 * x + chan % 2

def hopDie (h : BitVec 32) : Nat := h.toNat / 2 ^ 16
def hopDirn (h : BitVec 32) : Nat := h.toNat / 2 ^ 14 % 4
def hopMesh (h : BitVec 32) : Bool := h.getLsbD 13
def hopChan (h : BitVec 32) : Nat := h.toNat / 2 ^ 6 % 8

/-- The die a hop arrives at, from the global coordinates it leaves; `none` off the edge. -/
def hopTo (dirn gx gy : Nat) : Option (Nat × Nat) :=
  match dirn with
  | 0 => some (gx + 1, gy)
  | 1 => if gx = 0 then none else some (gx - 1, gy)
  | 2 => some (gx, gy + 1)
  | _ => if gy = 0 then none else some (gx, gy - 1)

def oppositeDirn (dirn : Nat) : Nat :=
  match dirn with
  | 0 => 1
  | 1 => 0
  | 2 => 3
  | _ => 2

/-- Global coordinates of a launch die. -/
def Launch.coord (x : Launch) (i : Nat) : Nat × Nat := (x.gx + i % x.w, x.gy + i / x.w)

/-- The link of this package that a mesh hop of a launch uses. -/
def State.hopLink (s : State) (x : Launch) (h : BitVec 32) : Option Nat :=
  if !hopMesh h then none
  else
    let (gx, gy) := x.coord (hopDie h)
    let here (p : Nat × Nat) : Bool := decide (p.1 / 2 = s.mgmt.pkgX ∧ p.2 / 4 = s.mgmt.pkgY)
    if here (gx, gy) then some (meshLink (hopDirn h) (gx % 2) (gy % 4) (hopChan h))
    else match hopTo (hopDirn h) gx gy with
      | some p => if here p then some (meshLink (oppositeDirn (hopDirn h)) (p.1 % 2) (p.2 % 4) (hopChan h)) else none
      | none => none

/-- A launch has a circuit on a link. -/
def State.usesLink (s : State) (x : Launch) (k : Nat) : Bool :=
  x.circuits.any (fun c => c.hops.any (fun h => s.hopLink x h == some k))

/-- The launches with a circuit on a link. -/
def State.linkUsers (s : State) (k : Nat) : List Nat := s.holders.filter (fun l => s.usesLink (s.launch l) k)

/-- The die that a link of this package terminates on (R18). -/
def linkDie (k : Nat) : Nat :=
  if k < 4 then 6 + k / 2 else if k < 8 then (k - 4) / 2 else if k < 12 then 2 * (k - 8) else 2 * (k - 12) + 1

/-- LINK on a launch, at the die of the link: both ends of a hop lie in the launch's rectangle. -/
def State.linkFault (s : State) (k : Nat) : State :=
  s.takeTrap (linkDie k) 6 false ⟨tLINK, BitVec.ofNat 64 k⟩ (s.core (linkDie k)).pc

/-- LINK_LOSS (R19). A launch that is to resume and is admitted, but has not started, notes no fault, and its circuits later run as if the
link were up: the spec says nothing of it (DESIGN CHOICE, log 13). -/
def execLinkLoss (k : Nat) (s : State) : Out :=
  if 16 ≤ k then .next s
  else
    let bit : BitVec 16 := 1#16 <<< k
    let s : State := { s with mgmt := { s.mgmt with
      meshUp := s.mgmt.meshUp &&& ~~~bit
      meshRetrain := if s.mgmt.meshUp.getLsbD k then s.mgmt.meshRetrain ||| bit else s.mgmt.meshRetrain } }
    .next (if (s.linkUsers k).isEmpty then s else s.linkFault k)

/-- LINK_RETRAIN (R19): only while no admitted launch has a circuit on the link. -/
def execLinkRetrain (k delay : Nat) (s : State) : Out :=
  if k < 16 ∧ s.mgmt.meshRetrain.getLsbD k ∧ (s.linkUsers k).isEmpty then
    let bit : BitVec 16 := 1#16 <<< k
    .next { s with mgmt := { s.mgmt with
      meshUp := s.mgmt.meshUp ||| bit
      meshRetrain := s.mgmt.meshRetrain &&& ~~~bit
      meshDelay := tset 0 s.mgmt.meshDelay k delay } }
  else .next s

/-! ### Alarms and errors (R244, R246) -/

/-- SECURITY_ALARM (R244). -/
def execSecurityAlarm (src : Nat) (s : State) : Out := if src < 7 then .next (s.raiseAlarm src) else .next s

/-- ECC_ERROR (R246): `loc` is a memory key of SRAM, a stack or the capacity tier. A base-die engine that has left the granule for
later, with later elements written, has read it before (R195). -/
def execEccError (loc : Nat) (fixed : Bool) (s : State) : Out :=
  if 2 < spaceOf loc then .next s
  else if fixed then .next { s with mgmt := { s.mgmt with corrected := s.mgmt.corrected + 1 } }
  else
    let s := s.catchUpAt loc
    .next { s with poison := tset false s.poison (granule loc) true }

/-! ### Control tokens (R237, R238) -/

/-- The handler-table entry of a token: one 8 B read of the launch's own mapping; `none` when it faults. -/
def State.handlerEntry (s : State) (die : Nat) (tok : Word) : Option (Word × State) :=
  let c := s.core die
  if c.htab = 0 then none
  else
    let a := c.htab + BitVec.ofNat 64 (8 * bitsOf tok 32 6)
    match s.locate die none a .ld false with
    | .error _ => none
    | .ok loc => match s.readLoc loc a 8 with
      | .error _ => none
      | .ok l => some (leWord l, s.noteXlate die none loc)

/-- Bits of an entry that must be zero. -/
def entryOk (e : Word) : Bool := e.getLsbD 63 && decide (bitsOf e 48 15 = 0 ∧ bitsOf e 0 2 = 0)

/-- TOKEN_ARRIVAL (R237). -/
def execTokenArrival (die : Nat) (s : State) : Out :=
  let c := s.core die
  match c.tokIn with
  | [] => .next s
  | tok :: rest =>
    let tok := tok.word
    let s := s.setCore die { c with tokIn := rest }
    let refused (s : State) : Out := .next (s.takeTrap die 3 false ⟨tHANDLER, tok⟩ (s.core die).pc none tok)
    match s.handlerEntry die tok with
    | none => refused s
    | some (e, s) =>
      if entryOk e then
        let c := s.core die
        .next (s.setCore die { c with evq := c.evq ++ [(tok, e &&& 0x0000FFFFFFFFFFFC)] })
      else refused s

/-! ### Fault records (R230, R231) -/

/-- Every region of a launch in this package has stopped, no die of it is in a swap, and no core of it has an access still to
perform. -/
def State.allStopped (s : State) (l : Nat) : Bool :=
  (s.localDies (s.launch l)).all (fun e => (s.die e.2).act.rdesc.all (fun r => (s.region e.2 r.1).halted) &&
    (s.die e.2).token.isNone && (s.core e.2).deferred.isNone)

/-- FAULT_RECORD_WRITE (R231): after every stop of R229 and R230. -/
def execFaultRecordWrite (l : Nat) (s : State) : Out :=
  let x := s.launch l
  match (x.faults.map (·.wall)).min? with
  | none => .next s
  | some f =>
    if x.phase.holds && s.allStopped l && decide (f + 70 ≤ s.cycle) then .next (s.endFaulted l) else .next s

end Sys2Proof.Machine
end

