-- ==== Sys2Proof/Machine/Native.lean ====
section
/-! DEFINITION. Native sections: block headers and payloads (R134), circuit records (R32), and the determinism class of what
they hold (R85, R86). -/

namespace Sys2Proof.Machine

/-! ### Block headers (R134) -/

/-- The header of a configuration block. -/
structure BlockHead where
  kind : Nat
  load : Nat
  tgt : Nat
  slot : Nat
  len : Nat
  deriving DecidableEq, Repr

/-- KIND names a slot: of a CE, an MN, an XN, or of the MN whose shelf is filled. -/
def namesSlot (kind : Nat) : Bool := [4, 5, 6, 13].contains kind

/-- The slot suits the kind, and TGT is an index of what the kind configures. -/
def BlockHead.fits (h : BlockHead) : Bool :=
  decide (1 ≤ h.kind ∧ h.kind ≤ 13 ∧ h.slot < 48 ∧ (namesSlot h.kind ∨ h.slot = 0)) &&
  match h.kind with
  | 1 => decide (h.tgt < 64)
  | 2 => decide (h.tgt < 64)
  | 3 => decide (h.tgt < 32)
  | 4 => decide (h.tgt < 64) && isCe h.slot
  | 5 => decide (h.tgt < 64) && isMn h.slot
  | 6 => decide (h.tgt < 64) && isXn h.slot
  | 7 => decide (h.tgt < 16)
  | 13 => decide (h.tgt < 64) && isMn h.slot
  | _ => true

/-- The header in the first 16 bytes; `none` when a reserved field is not zero or a field has a value its kind lacks. -/
def blockHead (b : List Byte) : Option BlockHead :=
  let w0 := BitVec.ofNat 64 (leNat (b.take 8))
  let w1 := BitVec.ofNat 64 (leNat ((b.drop 8).take 8))
  let h : BlockHead := ⟨bitsOf w0 0 8, bitsOf w0 8 8, bitsOf w0 16 16, bitsOf w0 32 8, bitsOf w1 0 32⟩
  if bitsOf w0 40 24 = 0 ∧ bitsOf w1 32 32 = 0 ∧ h.fits then some h else none

/-! ### Payloads -/

/-- The words of a payload whose layout a rule gives. -/
def payloadWord (p : List Byte) (i : Nat) : Word := BitVec.ofNat 64 (leNat ((p.drop (8 * i)).take 8))
def payloadWords (p : List Byte) (i n : Nat) : List Word := (List.range n).map (fun k => payloadWord p (i + k))

/-- Field `i` of a block kind, `w` bits wide, of a payload read as one number. -/
def fieldOf (kind i w n : Nat) : BitVec w := BitVec.ofNat w (n / 2 ^ Config.fieldBit kind i)

/-- A table of `n` entries. -/
def tabOf {α : Type} [DecidableEq α] (dflt : α) (n : Nat) (f : Nat → α) : Tab α :=
  (List.range n).foldl (fun t i => tset dflt t i (f i)) []

/-- A CE: 32 rows, 32 stage tags, FCFG, z0 to z5. -/
def ceOfPayload (n : Nat) : CeCfg :=
  { rows := tabOf nopWord 32 (fun i => fieldOf 4 i 32 n)
    stages := tabOf 0 32 (fun i => fieldOf 4 (32 + i) 6 n)
    fcfg := fieldOf 4 64 32 n
    z := tabOf 0 6 (fun i => fieldOf 4 (65 + i) 32 n) }

/-- An MN: 32 entries, 32 stage tags, NCFG, ag0 to ag3, 64 shelf descriptors. -/
def mnOfPayload (n : Nat) : MnCfg :=
  { rows := tabOf 0 32 (fun i => fieldOf 5 i 64 n)
    stages := tabOf 0 32 (fun i => fieldOf 5 (32 + i) 6 n)
    ncfg := fieldOf 5 64 32 n
    ag := tabOf 0 4 (fun i => fieldOf 5 (65 + i) 128 n)
    shelf := tabOf 0 64 (fun i => fieldOf 5 (69 + i) 64 n) }

/-- An XN: 32 entries, 32 stage tags, FCFG. -/
def xnOfPayload (n : Nat) : XnCfg :=
  { rows := tabOf 0 32 (fun i => fieldOf 6 i 64 n)
    stages := tabOf 0 32 (fun i => fieldOf 6 (32 + i) 6 n)
    fcfg := fieldOf 6 64 32 n }

/-- The records of a payload that repeats one layout, each as a number. -/
def recordsOf (kind : Nat) (p : List Byte) : List Nat :=
  let k := max (Config.recordBytes kind) 1
  (chunks k (p.length / k) p).map leNat

/-- The hop words that follow a circuit's two words. -/
def hopsOf (p : List Byte) (n : Nat) : List (BitVec 32) :=
  (List.range n).map (fun i => BitVec.ofNat 32 (leNat ((p.drop (16 + 4 * i)).take 4)))

/-- Bytes of a circuit record of `n` hops, padded to 16. -/
def circuitBytes (n : Nat) : Nat := 16 + (4 * n + 15) / 16 * 16

/-- The circuit records of a payload (R32): `none` when a reserved bit is not zero, a record is cut short, it has no hop, or
it joins a die to itself. -/
def circuitsIn : Nat → List Byte → Option (List CircuitRec)
  | 0, _ => some []
  | fuel + 1, p =>
    if p.isEmpty then some []
    else
      let w0 := payloadWord p 0
      let w1 := payloadWord p 1
      let n := bitsOf w1 40 8
      let hops := hopsOf p n
      let c : CircuitRec :=
        { sdie := bitsOf w0 48 16, sring := bitsOf w0 42 6, snode := bitsOf w0 38 4, ssh := bitsOf w0 32 6
          ddie := bitsOf w0 16 16, dring := bitsOf w0 10 6, dnode := bitsOf w0 6 4, dsh := bitsOf w0 0 6
          cnum := bitsOf w1 48 16, slot0 := bitsOf w1 8 8, nslots := bitsOf w1 0 8 + 1, hops }
      if p.length < circuitBytes n ∨ n = 0 ∨ bitsOf w1 16 24 ≠ 0 ∨ c.sdie = c.ddie ∨
          hops.any (fun h => decide (h.toNat / 2 ^ 9 % 16 ≠ 0 ∨ h.toNat % 64 ≠ 0)) then none
      else (circuitsIn fuel (p.drop (circuitBytes n))).map (c :: ·)

/-- The record at an offset of TABLES; zero bytes past its end. -/
def tableRecord (tables : List Byte) (o : Nat) : BitVec 8320 := BitVec.ofNat 8320 (leNat ((tables.drop o).take 1040))

/-- The items of a block; `none` when LEN does not suit its kind. -/
def itemsOf (tables : List Byte) (h : BlockHead) (p : List Byte) : Option (List CfgItem) :=
  let n := leNat p
  let whole (i : CfgItem) : Option (List CfgItem) := if h.len = Config.recordBytes h.kind then some [i] else none
  let many (f : Nat → CfgItem) : Option (List CfgItem) :=
    if h.len % max (Config.recordBytes h.kind) 1 = 0 then some ((recordsOf h.kind p).map f) else none
  match h.kind with
  | 1 => if h.len = 8 then some [.region h.tgt (payloadWord p 0)] else none
  | 2 => if h.len = 16 then some [.cell h.tgt (payloadWord p 0) (payloadWord p 1)] else none
  | 3 => if h.len = 8 then some [.lut h.tgt (payloadWord p 0)] else none
  | 4 => whole (.ce h.tgt h.slot (ceOfPayload n))
  | 5 => whole (.mn h.tgt h.slot (mnOfPayload n))
  | 6 => whole (.xn h.tgt h.slot (xnOfPayload n))
  | 7 => if h.len % 64 = 0 ∧ h.tgt + h.len / 64 ≤ 16 then
      some ((List.range (h.len / 64)).map (fun k => .view (h.tgt + k) (payloadWords p (8 * k) 8))) else none
  | 8 => (circuitsIn (h.len / 16 + 1) p).map (·.map CfgItem.circuit)
  | 9 => many (fun n => .declared ⟨(fieldOf 9 0 6 n).toNat, (fieldOf 9 1 4 n).toNat, (fieldOf 9 2 21 n).toNat,
      (fieldOf 9 3 22 n).toNat, fieldOf 9 4 1 n == 1, fieldOf 9 5 1 n == 1⟩)
  | 10 => many (fun n => .bind (fieldOf 10 0 6 n).toNat ((List.range 8).map (fun k => fieldOf 10 (1 + k) 64 n)))
  | 11 => if h.len % 64 = 0 then some ((List.range (h.len / 64)).map (fun k => .derive (payloadWords p (8 * k) 8))) else none
  | 12 => many (fun n =>
      let o := (fieldOf 12 0 32 n).toNat
      .table (fieldOf 12 4 2 n).toNat (fieldOf 12 2 6 n).toNat (fieldOf 12 3 6 n).toNat (fieldOf 12 1 4 n).toNat o
        (tableRecord tables o))
  | _ => some [.shelf h.tgt (nodeOfSlot h.slot) (fieldOf 13 0 6 n).toNat (fieldOf 13 1 3 n).toNat
      (p.drop (Config.fieldBit 13 2 / 8))]

/-- The blocks of a native section in order, or the byte offset of the first that is no block. -/
def blocksFrom (tables : List Byte) : Nat → Nat → List Byte → Except Nat (List CfgBlock)
  | 0, _, _ => .ok []
  | fuel + 1, o, b =>
    if b.isEmpty then .ok []
    else match blockHead b with
      | none => .error o
      | some h =>
        let k := 16 + (h.len + 15) / 16 * 16
        if b.length < k then .error o
        else match itemsOf tables h ((b.drop 16).take h.len) with
          | none => .error o
          | some l => (blocksFrom tables fuel (o + k) (b.drop k)).map (l.map (fun i => ⟨h.load, o, i⟩) ++ ·)

def blocksOf (sec tables : List Byte) : Except Nat (List CfgBlock) := blocksFrom tables (sec.length / 16 + 1) 0 sec

/-! ### The determinism class (R85, R86) -/

/-- A row or entry of an unordered form, or one of the six built-in functions (R61, R84). -/
def isUnordered (i : Instr) : Bool :=
  match i with
  | .fsumU _ _ _ => true
  | .fdotU _ _ _ _ => true
  | .amoU _ _ _ _ _ _ => true
  | .frcp _ _ _ _ => true
  | .frsq _ _ _ _ => true
  | .fexp2 _ _ _ _ => true
  | .flog2 _ _ _ _ => true
  | .ftanh _ _ _ _ => true
  | .fsig _ _ _ _ => true
  | _ => false

/-- An item holds such a row or entry. -/
def itemUnordered (i : CfgItem) : Bool :=
  match i with
  | .ce _ _ c => c.rows.any (fun e => ((decoded (decodeRow e.2)).map isUnordered).getD false)
  | .mn _ _ c => c.rows.any (fun e => ((decoded (decodeMn e.2)).map isUnordered).getD false)
  | _ => false

/-- A bound stream reads over the HOST or REMOTE path, which it does in a phase. AMO.U of more than one region cannot meet at
one address: an entry acts on its own node, and a node belongs to one region (R23, R310). -/
def itemReadsOutside (i : CfgItem) : Bool :=
  match i with
  | .bind _ w => decide (pathOf ((w[0]?).getD 0) = 8 ∨ pathOf ((w[0]?).getD 0) = 9)
  | _ => false

/-- The class: 0 X, 1 P, 2 N. -/
def classOf (l : List CfgBlock) : Nat :=
  if l.any (fun b => itemReadsOutside b.item) then 2 else if l.any (fun b => itemUnordered b.item) then 1 else 0

end Sys2Proof.Machine
end

