-- ==== Sys2Proof/Machine/Checks.lean ====
section
/-! DEFINITION. The checks the loader makes on a native section (R137, R145, R146): for every code of the diagnostics table, the
first block, in load and block order, that breaks a rule under it. Schedules are checked in their steady state, with every
row taken as executing (R59). -/

namespace Sys2Proof.Machine

/-- What the checks of one fabric load work on. `bank` is the configuration the load has once it is active, `prev` that of
the load before it, `blocks` the blocks of the load and `all` those of the section. `tload` says that TEXT holds a TLOAD,
`ncap` is the node capacity requested in bytes, `dies` the launch's dies; `hop` gives the delay of a hop, `meet` says that two
circuits hold one channel in one slot, `outside` that a circuit leaves the rectangle (R31). -/
structure LoadCtx where
  g2 : Bool
  k : Nat
  bank : Bank
  prev : Option Bank
  blocks : List CfgBlock
  all : List CfgBlock
  tload : Bool
  ncap : Nat
  tablesLen : Nat
  dies : Nat
  hop : BitVec 32 → Nat
  meet : CircuitRec → CircuitRec → Bool
  outside : CircuitRec → Bool

/-! ### Regions -/

/-- The region a ring belongs to in the load. -/
def LoadCtx.region (c : LoadCtx) (ring : Nat) : Option (Nat × Word) := c.bank.regionAt ring
def LoadCtx.regs (c : LoadCtx) : List (Nat × Word) := c.bank.rdesc.filterMap (fun e => e.2.map (fun w => (e.1, w)))
def LoadCtx.ii (c : LoadCtx) (ring : Nat) : Nat := match c.region ring with
  | some (_, w) => rII w
  | none => 1
def LoadCtx.sameRegion (c : LoadCtx) (a b : Nat) : Bool := match c.region a, c.region b with
  | some x, some y => x.1 == y.1
  | _, _ => false

/-- The trip count the descriptor gives; none when a register gives it at GO. -/
def descTrips (w : Word) : Option Nat := if rTripReg w then none else some (regionTrips w)

/-- Stage tags of a unit lie below NS of its region (R26). -/
def LoadCtx.stagesBad (c : LoadCtx) (ring : Nat) (t : Tab (BitVec 6)) : Bool := match c.region ring with
  | some (_, w) => t.any (fun e => decide (rNS w ≤ e.2.toNat))
  | none => false

/-- Child indices of a cell of the wanted type. -/
def childrenOf (isReg : Bool) (e : Word × Word) : List Nat :=
  if cellKind e.1 = 0 then []
  else ((List.range (cellChildren e.1)).filter (fun k => childIsRegion e.2 k == isReg)).map (childIdx e.2)

/-- How many cells, and children of cells, name a region. -/
def LoadCtx.parents (c : LoadCtx) (isReg : Bool) (n : Nat) : Nat :=
  (c.bank.cells.map (fun e => (childrenOf isReg e.2).count n)).foldl (· + ·) 0

/-! ### What a unit runs -/

/-- The entries of a table that a region reaches: those below II (R25). -/
def reached {α : Type} (ii n : Nat) (f : Nat → α) : List (Nat × α) := (List.range (min ii n)).map (fun m => (m, f m))

/-- The rows of a CE that its region executes, NOP apart. -/
def LoadCtx.rows (c : LoadCtx) (ring sl : Nat) : List (Nat × RowWord) :=
  if isCe sl && (c.region ring).isSome then
    (reached (c.ii ring) 32 (fun m => rowWordOf (tget nopWord (c.bank.ceCfg ring sl).rows m))).filter (fun e => e.2.op != 0)
  else []

/-- The entries of an MN that its region executes. -/
def LoadCtx.entries (c : LoadCtx) (ring sl : Nat) : List (Nat × Instr) :=
  if isMn sl && (c.region ring).isSome then
    (reached (c.ii ring) 32 (fun m => decoded (decodeMn (tget 0 (c.bank.mnCfg ring sl).rows m)))).filterMap (fun e => e.2.map (fun i => (e.1, i)))
  else []

/-- The entries of an XN by slot, XNOP apart. -/
def LoadCtx.xnEntries (c : LoadCtx) (ring sl : Nat) : List (Nat × Instr) :=
  if isXn sl && (c.region ring).isSome then
    ((List.range 32).filterMap (fun j => (decoded (decodeXn (tget 0 (c.bank.xnCfg ring sl).rows j))).map (fun i => (j, i)))).filter
      (fun e => e.2 != .xnop)
  else []

/-- Latency of a row by its opcode (R58). -/
def rowLat (g2 : Bool) (op : Nat) : Nat :=
  let p (g3 lo : Nat) : Nat := if g2 then lo else g3
  if op ≤ 4 ∨ (8 ≤ op ∧ op ≤ 12) ∨ (54 ≤ op ∧ op ≤ 57) ∨ op = 75 ∨ op = 76 ∨ op = 89 then 1
  else if (5 ≤ op ∧ op ≤ 7) ∨ (20 ≤ op ∧ op ≤ 24) then 2
  else if 16 ≤ op ∧ op ≤ 26 then p 4 5
  else if 27 ≤ op ∧ op ≤ 33 then p 6 8
  else if (34 ≤ op ∧ op ≤ 38) ∨ op = 64 then p 6 7
  else if op = 50 ∨ op = 51 ∨ (72 ≤ op ∧ op ≤ 74) ∨ op = 77 ∨ op = 78 then p 3 4
  else p 1 2

/-- All rows write L but NOP, XPT, PMOV, PAND, POR and PXOR (R55). -/
def rowWritesL (op : Nat) : Bool := !([0, 2, 8, 10, 11, 12].contains op)

/-- The operand codes a row reads: SC is an operand of FMA, FCLIP, IMAD and QENC alone (R53). -/
def rowSources (r : RowWord) : List Nat :=
  [r.a.toNat, r.b.toNat] ++ (if [19, 25, 51, 78].contains r.op.toNat then [r.c.toNat] else [])

/-- Where an entry takes its store or operand data from. -/
def mnSource (i : Instr) : Option (BitVec 5) := match i with
  | .sts l _ _ _ => some l
  | .stx l _ _ _ _ _ => some l
  | .amoO l _ _ _ _ _ => some l
  | .amoU l _ _ _ _ _ => some l
  | _ => none

/-- The lane an entry drives, or the latch alone, with its latency (R58, R118). -/
def mnDest (g2 : Bool) (i : Instr) : Option (BitVec 5 × Nat) := match i with
  | .lds l _ _ _ _ => some (l, if g2 then 6 else 4)
  | .ldx l _ _ _ _ _ _ => some (l, if g2 then 6 else 4)
  | .drd l _ _ _ => some (l, if g2 then 6 else 4)
  | .amoO l _ _ _ _ _ => some (l, if g2 then 8 else 6)
  | .amoU l _ _ _ _ _ => some (l, if g2 then 8 else 6)
  | _ => none

/-- The neighbour latch that holds an entry's index: 00 WL, 01 EL (R119). -/
def mnIndex (i : Instr) : Option (BitVec 2) := match i with
  | .ldx _ _ _ g _ _ _ => some g
  | .stx _ _ _ g _ _ => some g
  | .amoO _ _ _ g _ _ => some g
  | .amoU _ _ _ g _ _ => some g
  | _ => none

/-- The shelf an entry names, and whether it writes it. -/
def mnShelf (i : Instr) : Option (Nat × Bool) := match i with
  | .lds _ _ _ _ s => some (s.toNat, false)
  | .ldx _ _ _ _ _ s _ => some (s.toNat, false)
  | .sts _ _ _ s => some (s.toNat, true)
  | .stx _ _ _ _ s _ => some (s.toNat, true)
  | .amoO _ _ _ _ s _ => some (s.toNat, true)
  | .amoU _ _ _ _ s _ => some (s.toNat, true)
  | _ => none

/-- The generator an entry names. -/
def mnGen (i : Instr) : Option (Nat × Nat) := match i with
  | .lds _ _ g _ s => some (g.toNat, s.toNat)
  | .sts _ _ g s => some (g.toNat, s.toNat)
  | _ => none

/-! ### E003: field values -/

/-- A row that ignores FD, by its opcode: the float rows of R281 and the integer rows of R297. -/
def ignoresFd (op : Nat) : Bool :=
  decide ((16 ≤ op ∧ op ≤ 38) ∨ (48 ≤ op ∧ op ≤ 53) ∨ op = 61 ∨ (64 ≤ op ∧ op ≤ 66) ∨ op = 88)

/-- The formats of a CE suit a row, a reserved FD apart (R51, R60, and the row's own entry). -/
def faSuits (f : BitVec 32) (i : Instr) : Bool :=
  let fa := faOf f
  let fd := fdOf f
  let w := laneWidth fa
  match i with
  | .bcst _ k _ _ m => decide (fa ≤ 20 ∧ bcstIndex k m < 512 / w)
  | .shuf _ _ _ _ => decide (fa ≤ 20 ∧ w ≠ 4)
  | .zip _ _ _ _ _ => decide (fa ≤ 20 ∧ w ≠ 4)
  | .unz _ _ _ _ _ => decide (fa ≤ 20 ∧ w ≠ 4)
  | .vshl _ _ k _ _ m => decide (fa ≤ 20 ∧ (m = 0 ∨ k.toNat < w))
  | .vshr _ _ k _ _ m => decide (fa ≤ 20 ∧ (m = 0 ∨ k.toNat < w))
  | .vsar _ _ k _ _ m => decide (fa ≤ 20 ∧ (m = 0 ∨ k.toNat < w))
  | .isat _ k _ _ _ => decide (fa ≤ 20 ∧ k.toNat + 1 ≤ w)
  | .cvt _ k _ _ _ =>
    isScalar fa && isScalar fd && decide (k.toNat < max (w / laneWidth fd) (laneWidth fd / w))
  | .req _ _ _ _ => isBlock fa && isBlock fd && decide (fa ≠ 20 ∧ fd ≠ 20) && (isSx fa == isSx fd)
  | .bscl _ _ _ _ => isBlock fa && decide (fa ≠ 20)
  | .pack _ _ _ => isBlock fa
  | .unpk _ _ _ => isBlock fa
  | .qdec _ k _ _ =>
    let nd := 512 / laneWidth fd
    isBlock fa && (if fa = 20 then decide (fd = 1) else decide (fd ≤ 2)) && decide (k.toNat < (blockLen fa + nd - 1) / nd)
  | .qenc _ b _ _ _ => isBlock fd && decide (fa ≤ 2) && (if fd = 20 then decide (fa ≠ 0) else decide (fa = 0 ∨ b = 31))
  | i => match rowFields i with
    | some r => if 16 ≤ r.op.toNat ∧ r.op.toNat ≤ 38 then isFloat fa else decide (fa ≤ 20)
    | none => true

/-- The formats of a CE suit a row (R60). -/
def formatsOk (f : BitVec 32) (i : Instr) : Bool :=
  faSuits f i && (match rowFields i with
    | some r => ignoresFd r.op.toNat || decide (fdOf f ≤ 20)
    | none => true)

/-- FCFG holds nothing in its reserved fields (R50). -/
def fcfgReserved (f : BitVec 32) : Bool := decide (bitsOf (f.setWidth 64) 26 6 ≠ 0 ∨ bitsOf (f.setWidth 64) 18 2 ≠ 0 ∨
  bitsOf (f.setWidth 64) 13 3 ≠ 0 ∨ bitsOf (f.setWidth 64) 5 3 ≠ 0)

/-- A table slot that a row names has a source in the image (R63). -/
def LoadCtx.slotProvided (c : LoadCtx) (ring sl n : Nat) : Bool :=
  c.tload || c.all.any (fun b => match b.item with
    | .table k r s i _ _ => decide (k = 0 ∧ r = ring ∧ s = sl ∧ i = n)
    | _ => false)

/-- A row word that no CE may hold (R60). -/
def LoadCtx.rowBad (c : LoadCtx) (ring sl : Nat) (f : BitVec 32) (w : BitVec 32) : Bool :=
  match decodeRow w with
  | .error _ => true
  | .ok i => !formatsOk f i || (decide (sl % 6 = 0) && (rowWordOf w).d == 14) ||
    (match i with
     | .ftab _ _ _ _ n => !c.slotProvided ring sl n.toNat
     | _ => false)

/-- The greatest offset a generator yields is below `n`: every position is looked at (R94). -/
def agBeyond (x : BitVec 128) (n : Nat) : Bool :=
  let size := 2 ^ agLsz x
  (List.range (agCount x 0 * agCount x 1 * agCount x 2)).any (fun p => decide (n < agOffset x p + size))

/-- A shelf that an entry reads or writes is defined (R310, R350, R356). -/
def shelfDefined (m : MnCfg) (s : Nat) : Bool := decide (64 ≤ s) || shValid (tget 0 m.shelf s)

/-- An entry word that no MN may hold (R90, R94, R120, R278, R310, R356). -/
def LoadCtx.entryBad (c : LoadCtx) (ring sl : Nat) (m : MnCfg) (w : Word) : Bool :=
  match decodeMn w with
  | .error _ => true
  | .ok i =>
    !modeAllows (bitsOf (m.ncfg.setWidth 64) 0 2) i ||
    (predOf i != 0 && laneWidth (faOf (c.bank.ceCfg ring (predCe (slotsOf c.g2) sl (predOf i))).fcfg) == 0) ||
    (match mnGen i with
     | some (g, s) =>
       let x := tget 0 m.ag g
       decide (agLsz x = 7) || !shelfDefined m s ||
         agBeyond x (if s < 64 then shBytes (tget 0 m.shelf s) else nodeSize c.g2)
     | none => false) ||
    (match i with
     | .drd _ _ _ imm => decide (imm.toNat % 64 ≠ 0)
     | _ => false)

/-- An entry word that no XN may hold under its formats (R120, R169). -/
def LoadCtx.xnWordBad (c : LoadCtx) (x : XnCfg) (w : Word) : Bool :=
  match decodeXn w with
  | .error _ => true
  | .ok i =>
    let op := bitsOf w 58 6
    i != .xnop && ((c.g2 && decide (4 ≤ op ∧ op ≤ 8)) || (op == 8 && !(faOf x.fcfg == 12 || faOf x.fcfg == 13)))

/-- How many DONE rows a region's elements hold (R276). -/
def LoadCtx.doneRows (c : LoadCtx) (desc : Word) : Nat :=
  (c.bank.ce.map (fun e => if rFirst desc ≤ e.1 / 48 ∧ e.1 / 48 ≤ rLast desc then
    (e.2.rows.filter (fun r => (rowWordOf r.2).op == 89)).length else 0)).foldl (· + ·) 0

/-- A region descriptor breaks R23, R24 or R276. -/
def LoadCtx.regionBad (c : LoadCtx) (n : Nat) (w : Word) : Bool :=
  decide (bitsOf w 32 8 ≠ 0 ∨ rLast w < rFirst w ∨ (rTripReg w ∧ bitsOf w 6 26 ≠ 0)) ||
  c.regs.any (fun e => decide (e.1 ≠ n ∧ rFirst e.2 ≤ rLast w ∧ rFirst w ≤ rLast e.2)) ||
  (if c.parents true n = 0 then decide (c.doneRows w ≠ 0) else decide (c.doneRows w ≠ 1))

/-- A controller cell's record breaks R33: a field, a cycle, or a region or cell with two parents. DEDUCED (log 10), where R33 is
silent: with CNTREG bits 31:6 of COUNT may hold anything, WINDOW is free on a cell that is off, ENLUT on one that is not gated,
and a child region must have a descriptor in the load. -/
def LoadCtx.cellBad (c : LoadCtx) (n : Nat) (w0 w1 : Word) : Bool :=
  let m := cellChildren w0
  let par (k : Nat) : Nat := cellParent (tget (0, 0) c.bank.cells k).1
  decide (bitsOf w0 32 5 ≠ 0) ||
  (if cellKind w0 = 2 then decide (cellWindow w0 = 0) else decide (cellKind w0 ≠ 0 ∧ cellWindow w0 ≠ 0)) ||
  (cellGated w0 && decide (32 ≤ cellLut w0)) ||
  (List.range 8).any (fun k => w1.getLsbD (8 * k + 6) || (decide (m ≤ k) && decide (bitsOf w1 (8 * k) 8 ≠ 0))) ||
  (cellKind w0 != 0 && ((List.range m).any (fun k =>
    let i := childIdx w1 k
    if childIsRegion w1 k then decide (c.parents true i ≠ 1) || !(c.regs.any (fun e => e.1 == i))
    else decide (par i ≠ n ∨ i = n ∨ c.parents false i ≠ 1)) ||
    !((List.range 65).any (fun d =>
      let up := (List.range d).foldl (fun k _ => par k) n
      par up == up))))

/-- A lookup-table cell with a reserved bit or source code (R35). -/
def lutBad (w : Word) : Bool :=
  decide (bitsOf w 0 16 ≠ 0) || [16, 24, 32, 40].any (fun lo => decide (0x88 ≤ bitsOf w lo 8 ∧ bitsOf w lo 8 ≠ 0xFF))

/-- A view record that breaks R99. -/
def viewBad (l : List Word) : Bool :=
  let w (i : Nat) : Word := (l[i]?).getD 0
  let fmt := bitsOf (w 0) 0 8
  decide (bitsOf (w 0) 9 23 ≠ 0 ∨ bitsOf (w 1) 32 32 ≠ 0) ||
  ((w 0).getLsbD 8 && (decide (fmt < 12 ∨ 20 < fmt ∨ bitsOf (w 0) 32 32 % (if fmt = 20 then 64 else 32) ≠ 0 ∨ pathOf (w 2) ≠ 0 ∨ pathOf (w 4) ≠ 0) ||
    (if fmt = 20 then decide (pathOf (w 6) ≠ 0) else decide (w 6 ≠ 0 ∨ w 7 ≠ 0))))

/-- A declaration that R147 to R149 refuse for its fields, its base's place, the mode of its node or a taken index. BASE names
a die of the launch, on which alone the region is declared (R97). -/
def LoadCtx.deriveBad (c : LoadCtx) (w : List Word) : Bool :=
  let x := newDerived w false
  let a := x.word 0
  let same := c.blocks.filter (fun b => match b.item with
    | .derive v => decide (bitsOf ((v[0]?).getD 0) 44 16 = bitsOf a 44 16 ∧ (newDerived v false).dix = x.dix)
    | _ => false)
  derivFieldsBad (nodeSize c.g2) w || decide (pathOf a ≠ 1 ∨ c.dies ≤ bitsOf a 54 6) ||
  decide (bitsOf ((c.bank.mnCfg (bitsOf a 48 6) (slotOfNode (bitsOf a 44 4))).ncfg.setWidth 64) 0 2 = 0) ||
  (c.g2 && decide (x.kind = 7)) || decide (1 < same.length)

/-- The unit and index a table load names exist (R62, R359). -/
def tableTargetBad (kind ring slot idx : Nat) : Bool :=
  match kind with
  | 0 => !(decide (ring < 64 ∧ idx < 4) && isCe slot)
  | 1 => !(decide (ring < 64 ∧ idx < 8) && isXn slot)
  | 2 => !(decide (ring < 64 ∧ idx < 16) && isXn slot)
  | _ => true

/-- A reserved bit of a shelf descriptor. -/
def shelfReserved (w : Word) : Bool := decide (bitsOf w 0 12 ≠ 0 ∨ bitsOf w 21 11 ≠ 0 ∨ bitsOf w 41 1 ≠ 0)

/-- E003 for a block. -/
def LoadCtx.e003 (c : LoadCtx) (i : CfgItem) : Bool :=
  match i with
  | .region n w => c.regionBad n w
  | .cell n w0 w1 => c.cellBad n w0 w1
  | .lut _ w => lutBad w
  | .ce r sl x => fcfgReserved x.fcfg || x.rows.any (fun e => c.rowBad r sl x.fcfg e.2) || c.stagesBad r x.stages ||
      (decide (20 < faOf x.fcfg ∨ 20 < fdOf x.fcfg) && c.rowBad r sl x.fcfg nopWord)
  | .mn r sl x =>
    let n := x.ncfg.setWidth 64
    decide (bitsOf n 0 2 = 3 ∨ bitsOf n 2 2 ≠ 0 ∨ bitsOf n 8 24 ≠ 0) || x.rows.any (fun e => c.entryBad r sl x e.2) ||
      c.stagesBad r x.stages || x.ag.any (fun e => e.2.getLsbD 127) || x.shelf.any (fun e => shelfReserved e.2)
  | .xn r _ x => fcfgReserved x.fcfg || !pairOk (faOf x.fcfg) (fdOf x.fcfg) || x.rows.any (fun e => c.xnWordBad x e.2) || c.stagesBad r x.stages
  | .view _ w => viewBad w
  | .circuit _ => false
  | .declared r => decide (64 ≤ r.ring ∨ 16 ≤ r.node ∨ nodeSize c.g2 < r.lo + r.len)
  | .bind p w => decide (16 ≤ p ∨ (scReserved w).isSome)
  | .derive w => c.deriveBad w
  | .table k r sl n _ _ => tableTargetBad k r sl n
  | .shelf r node sh buf b =>
    let w := c.bank.shelfDesc r (slotOfNode node) sh
    !shValid w || decide (shDepth w ≤ buf ∨ shBytes w < b.length)

/-! ### E011 to E031: latency, ports, lanes -/

/-- A generator yields an offset that is not aligned to its access size (R91). -/
def agMisaligned (x : BitVec 128) : Bool :=
  (List.range (agCount x 0 * agCount x 1 * agCount x 2)).any (fun p => decide (agOffset x p % 2 ^ agLsz x ≠ 0))

/-- E011: generators that an entry names, and stream records. -/
def LoadCtx.e011 (c : LoadCtx) (i : CfgItem) : Bool :=
  match i with
  | .mn r sl x => (c.entries r sl).any (fun e => match mnGen e.2 with
      | some (g, _) => agMisaligned (tget 0 x.ag g)
      | none => false)
  | .bind _ w => (scMisaligned w).isSome
  | _ => false

def LoadCtx.east (c : LoadCtx) (sl : Nat) : Nat := (sl + 1) % slotsOf c.g2
def LoadCtx.west (c : LoadCtx) (sl : Nat) : Nat := (sl + slotsOf c.g2 - 1) % slotsOf c.g2

/-- A row or entry that writes a result latch: its index, stage tag and latency. -/
structure Writer where
  row : Nat
  stage : Nat
  lat : Nat
  deriving DecidableEq, Repr

/-- What writes the result latch of a CE or MN (R55, R118). An XN's latch is left out: commands write it too. -/
def LoadCtx.writers (c : LoadCtx) (ring sl : Nat) : List Writer :=
  if isCe sl then (c.rows ring sl).filterMap (fun e => if rowWritesL e.2.op.toNat then
    some ⟨e.1, (tget 0 (c.bank.ceCfg ring sl).stages e.1).toNat, rowLat c.g2 e.2.op.toNat⟩ else none)
  else (c.entries ring sl).filterMap (fun e => (mnDest c.g2 e.2).map (fun d =>
    ⟨e.1, (tget 0 (c.bank.mnCfg ring sl).stages e.1).toNat, d.2⟩))

/-- The latest result visible by cycle `u` of instance 0: when, and the instance that wrote it. -/
def latestVisible (ii : Nat) (u : Int) (l : List Writer) : Option (Int × Int) :=
  l.foldl (fun b x =>
    let w := Int.fdiv (u - x.row - x.lat) ii
    let v : Int := x.row + x.lat + ii * w
    if b.any (fun y => decide (v ≤ y.1)) then b else some (v, w - x.stage)) none

/-- The latest instance, up to 0, of which a write has executed before cycle `u`. -/
def latestIssued (ii : Nat) (u : Int) (l : List Writer) : Option Int :=
  (l.map (fun x => min 0 (Int.fdiv (u - 1 - x.row) ii - x.stage))).max?

/-- How far the instance whose result a row reads lies from the one it should read: that of the latest instance, its own or
an earlier one, that has executed a write by then. Below zero the result is not visible yet, above zero a later instance
has overwritten it. DEDUCED (log 10): R59 does not say which row is the producer of a read. -/
def LoadCtx.readGap (c : LoadCtx) (ring sl : Nat) (u : Int) : Int :=
  let l := c.writers ring sl
  match latestVisible (c.ii ring) u l, latestIssued (c.ii ring) u l with
  | some p, some j => p.2 - j
  | _, _ => 0

/-- The unit whose latch an operand code of a CE names, inside the region. -/
def LoadCtx.latchNamed (c : LoadCtx) (ring sl n : Nat) : Option (Nat × Nat) :=
  if n = 8 then some (ring, sl)
  else if n = 9 then (if ring ≠ 0 ∧ c.sameRegion ring (ring - 1) then some (ring - 1, sl) else none)
  else if n = 10 then some (ring, c.east sl)
  else if n = 11 then (if ring ≠ 63 ∧ c.sameRegion ring (ring + 1) then some (ring + 1, sl) else none)
  else if n = 12 then some (ring, c.west sl)
  else none

/-- The latches that the rows and entries of a unit read, each with the cycle of the read. -/
def LoadCtx.latchReads (c : LoadCtx) (i : CfgItem) : List ((Nat × Nat) × Int) :=
  match i with
  | .ce r sl x => (c.rows r sl).flatMap (fun e =>
      ((rowSources e.2).filterMap (c.latchNamed r sl)).map (fun p => (p, ((c.ii r * (tget 0 x.stages e.1).toNat + e.1 : Nat) : Int))))
  | .mn r sl x => (c.entries r sl).flatMap (fun e =>
      let u : Int := ((c.ii r * (tget 0 x.stages e.1).toNat + e.1 : Nat) : Int)
      (match mnSource e.2 with
       | some l => if l = 14 then [((r, c.west sl), u)] else if l = 15 then [((r, c.east sl), u)] else []
       | none => []) ++
      (match mnIndex e.2 with
       | some g => [((r, if g = 0 then c.west sl else c.east sl), u)]
       | none => []))
  | _ => []

/-- The predecessor and successor members of a node fence: LD 0, ST 1, AMO 2, DRV 5 (R130). -/
def fenceHas (sets n : Nat) : Bool := sets.testBit n

/-- Which member of a fence set an entry is. -/
def fenceClass (i : Instr) : Option Nat := match i with
  | .lds _ _ _ _ _ => some 0
  | .ldx _ _ _ _ _ _ _ => some 0
  | .sts _ _ _ _ => some 1
  | .stx _ _ _ _ _ _ => some 1
  | .amoO _ _ _ _ _ _ => some 2
  | .amoU _ _ _ _ _ _ => some 2
  | .drd _ _ _ _ => some 5
  | _ => none

/-- The distance a node fence asks of a successor (R213). `D` is the largest of the node's derived regions. -/
def fenceLambda (D p s : Nat) : Nat :=
  if (p = 1 ∨ p = 2) ∧ s = 5 then D
  else if p = 2 ∧ s ≤ 2 then 6
  else if p = 1 ∧ (s = 0 ∨ s = 2) then 2
  else 0

/-- The largest derived-update latency among the regions that the image's blocks declare on a node. -/
def LoadCtx.derivD (c : LoadCtx) (ring sl : Nat) : Nat :=
  (c.all.map (fun b => match b.item with
    | .derive w =>
      let x := newDerived w false
      if bitsOf (x.word 0) 48 6 = ring ∧ slotOfNode (bitsOf (x.word 0) 44 4) = sl then x.latency c.g2 else 0
    | _ => 0)).foldl max 0

/-- A successor executes too soon after a node fence: the cycles from the fence to its next execution, at least one. -/
def LoadCtx.fenceBad (c : LoadCtx) (ring sl : Nat) : Bool :=
  let es := c.entries ring sl
  let ii := c.ii ring
  es.any (fun f => match f.2 with
    | .mfence _ imm => es.any (fun e => match fenceClass e.2 with
        | some s => fenceHas (imm.toNat / 2 ^ 8 % 2 ^ 8) s && [0, 1, 2, 5].any (fun p =>
            fenceHas (imm.toNat / 2 ^ 16 % 2 ^ 8) p && decide ((e.1 + ii - f.1 - 1) % ii + 1 < fenceLambda (c.derivD ring sl) p s))
        | none => false)
    | _ => false)

/-- E020: a latch read before the result is visible (R59), a node fence whose distances fall short (R213). An XPT is visible in
the next cycle and a P write too, so that neither is read too early. -/
def LoadCtx.e020 (c : LoadCtx) (i : CfgItem) : Bool :=
  (c.latchReads i).any (fun e => !isXn e.1.2 && decide (c.readGap e.1.1 e.1.2 e.2 < 0)) ||
  match i with
  | .mn r sl _ => c.fenceBad r sl
  | _ => false

/-- A CE drives a port or lane in a cycle of its region, modulo II. -/
def LoadCtx.drives (c : LoadCtx) (ring sl dir u : Nat) : Bool :=
  (c.rows ring sl).any (fun e => decide (e.2.d.toNat = dir ∧ (e.1 + rowLat c.g2 e.2.op.toNat) % c.ii ring = u % c.ii ring))

/-- The CEs that present on an MN's write port (R89). -/
def LoadCtx.presenters (c : LoadCtx) (sl : Nat) : List Nat := if sl % 6 = 5 then [sl - 1, c.east sl] else [c.east sl]

/-- E021: a write port read in a cycle in which no CE presents a value (R118). -/
def LoadCtx.e021 (c : LoadCtx) (i : CfgItem) : Bool :=
  match i with
  | .mn r sl _ => (c.entries r sl).any (fun e =>
      mnSource e.2 == some 13 && !(c.presenters sl).any (fun p => c.drives r p 13 e.1))
  | _ => false

/-- A row executed in the schedule: unit, row, and the wrap of its execution, counted from the consumer's instance. -/
structure RowAt where
  ring : Nat
  slot : Nat
  row : Nat
  wrap : Int
  deriving DecidableEq, Repr

/-- The stage tag at a site. -/
def LoadCtx.stageAt (c : LoadCtx) (ring sl row : Nat) : Nat :=
  if isCe sl then (tget 0 (c.bank.ceCfg ring sl).stages row).toNat else (tget 0 (c.bank.mnCfg ring sl).stages row).toNat

/-- A producer of a later instance than the consumer's. -/
def LoadCtx.later (c : LoadCtx) (p : RowAt) : Bool := decide (0 < p.wrap - c.stageAt p.ring p.slot p.row)

/-- The rows and entries of a slot that drive a lane of its ring, each with its latency (R54, R55, R118). -/
def LoadCtx.laneDrivers (c : LoadCtx) (ring sl ln : Nat) : List (Nat × Nat) :=
  (c.rows ring sl).filterMap (fun e => if e.2.d.toNat = ln + 1 then some (e.1, rowLat c.g2 e.2.op.toNat) else none) ++
  (c.entries ring sl).filterMap (fun e => match mnDest c.g2 e.2 with
    | some (l, k) => if l.toNat = ln + 1 then some (e.1, k) else none
    | none => none)

/-- The driver whose value passes slot `sl` of a lane in cycle `u`, after k hops and any number of laps (R54). DEDUCED (log 10):
the producer of a lane tap, which R59 does not identify, is the nearest driver up the lane, of whatever instance. -/
def LoadCtx.laneFrom (c : LoadCtx) (ring sl ln : Nat) (u : Int) : Option RowAt :=
  let n := slotsOf c.g2
  let ii := c.ii ring
  (List.range (n * ii)).findSome? (fun (j : Nat) =>
    let q := if ln < 6 then (sl + n * ii - j) % n else (sl + j) % n
    ((c.laneDrivers ring q ln).find? (fun e => decide (Int.emod (u - j - e.1 - e.2) ii = 0))).map (fun e =>
      ⟨ring, q, e.1, Int.fdiv (u - j - e.1 - e.2) ii⟩))

/-- The XPT that wrote the rotating-file entry kn of a row executing in cycle `u` (R56). -/
def LoadCtx.rotFrom (c : LoadCtx) (ring sl n : Nat) (u : Int) : Option RowAt :=
  let ii := c.ii ring
  let wu := Int.fdiv u ii
  let xs := (c.rows ring sl).filter (fun e => e.2.op == 2)
  ((List.range 9).findSome? (fun (k : Nat) =>
    let w := wu - k
    ((xs.filter (fun e => decide (e.1 + ii * w < u ∧ Int.emod (e.2.c.toNat - w - (n - wu)) 8 = 0))).getLast?).map (fun e =>
      ⟨ring, sl, e.1, w⟩)))

/-- The lanes that the rows and entries of a unit tap: ring, slot, lane, and the cycle of the tap. -/
def LoadCtx.laneReads (c : LoadCtx) (i : CfgItem) : List (Nat × Nat × Nat × Int) :=
  match i with
  | .ce r sl x => (c.rows r sl).flatMap (fun e => ((rowSources e.2).filter (fun n => decide (13 ≤ n ∧ n < 25))).map (fun n =>
      (r, sl, n - 13, ((c.ii r * (tget 0 x.stages e.1).toNat + e.1 : Nat) : Int))))
  | .mn r sl x => (c.entries r sl).filterMap (fun e => match mnSource e.2 with
      | some l => if 1 ≤ l.toNat ∧ l.toNat ≤ 12 then
          some (r, sl, l.toNat - 1, ((c.ii r * (tget 0 x.stages e.1).toNat + e.1 : Nat) : Int)) else none
      | none => none)
  | _ => []

/-- E022: a lane tapped in a cycle in which no driver's value can be there. A lane that no slot drives carries zero. -/
def LoadCtx.e022 (c : LoadCtx) (i : CfgItem) : Bool :=
  (c.laneReads i).any (fun e =>
    (List.range (slotsOf c.g2)).any (fun q => !(c.laneDrivers e.1 q e.2.2.1).isEmpty) &&
      (c.laneFrom e.1 e.2.1 e.2.2.1 e.2.2.2).isNone)

/-- The last cycle from its firing in which an entry reads a shelf of a side (R173). -/
def lastRead (n : XNeed) (east : Bool) : Nat :=
  (n.ports.map (fun p => if p.east == east && !p.write then p.last else 0)).foldl max 0

/-- The granule counter that the entries before slot `j` leave an XN, back round the period to the last XCLR of accumulator 0;
none where no entry clears it (R176, R177, R179). -/
def LoadCtx.gcAt (c : LoadCtx) (ring sl j : Nat) : Option Nat :=
  let l := (c.xnEntries ring sl).map (fun e => (e.1, match e.2 with
    | .xclr a _ _ => if a = 0 then none else some 0
    | .xdnd _ _ _ k _ _ _ => some (8 * k.toNat)
    | .xdbx _ _ _ _ _ _ _ => some 4
    | .xdbw _ _ _ _ _ _ _ => some 4
    | _ => some 0))
  let order := (l.filter (fun e => decide (e.1 < j))).reverse ++ (l.filter (fun e => decide (j ≤ e.1))).reverse
  if order.any (fun e => e.2.isNone) then
    some (((order.takeWhile (fun e => e.2.isSome)).filterMap (·.2)).foldl (· + ·) 0 % 4096)
  else none

/-- The branches that an XDBX or XDBW in slot `j` reads, as the loader counts them: those of its four granules where the map
is the image's, and at most as many otherwise (R173, R179). DEDUCED (log 10): the loader proves what it cannot see for the
worst case. -/
def LoadCtx.branchesRead (c : LoadCtx) (ring sl j : Nat) (i : Instr) : Nat :=
  let most (lb : BitVec 2) : Nat :=
    match tget none c.bank.maps (mapKey ring sl (xnMap i)), c.gcAt ring sl j with
    | some t, some g => if c.tload then min 4 (branches lb) else distinct (mapSpan t g 4)
    | _, _ => min 4 (branches lb)
  match i with
  | .xdbx _ _ _ _ _ _ lb => most lb
  | .xdbw _ _ _ _ _ _ lb => most lb
  | _ => 1

/-- The needs of the XN entry in slot `j` under the load's formats. -/
def LoadCtx.need (c : LoadCtx) (ring sl j : Nat) (i : Instr) : XNeed :=
  let f := (c.bank.xnCfg ring sl).fcfg
  xnNeed (stepCycles c.g2 (faOf f) (fdOf f)) (c.branchesRead ring sl j i) i

/-- E030: a latch, or the value of a lane, overwritten before it is read, by a later instance (R59); a shelf buffer that an XN
entry reads released before its last read (R173): in every wrap each SHREL releases the buffer that the shelf then stands at,
and so the first one from the firing on takes the entry's. -/
def LoadCtx.e030 (c : LoadCtx) (i : CfgItem) : Bool :=
  (c.latchReads i).any (fun e => !isXn e.1.2 && decide (0 < c.readGap e.1.1 e.1.2 e.2)) ||
  (c.laneReads i).any (fun e => (c.laneFrom e.1 e.2.1 e.2.2.1 e.2.2.2).any c.later) ||
  match i with
  | .xn r sl _ => (c.xnEntries r sl).any (fun e =>
      let n := c.need r sl e.1 e.2
      n.reads.any (fun p =>
        let mn := mnOfXn sl p.1
        (c.entries r mn).any (fun f => match f.2 with
          | .shrel sh => sh.toNat == p.2 && decide (f.1 < lastRead n p.1)
          | _ => false)))
  | _ => false

/-- E040: an entry of the rotating file that a later instance's XPT rewrites before its last read (R56, R59). -/
def LoadCtx.e040 (c : LoadCtx) (i : CfgItem) : Bool :=
  match i with
  | .ce r sl x => (c.rows r sl).any (fun e => (rowSources e.2).any (fun n =>
      decide (n < 8) && (c.rotFrom r sl n ((c.ii r * (tget 0 x.stages e.1).toNat + e.1 : Nat) : Int)).any c.later))
  | _ => false

/-- A number occurs twice in a list. -/
def twice : List Nat → Bool
  | [] => false
  | x :: t => t.contains x || twice t

/-- Intervals of `la` and `lb` cycles, repeated every `P`, share a cycle. -/
def meetIn (P a la b lb : Nat) : Bool :=
  decide (0 < la ∧ 0 < lb ∧ ((b % P + P - a % P) % P < la ∨ (a % P + P - b % P) % P < lb))

/-- Two entries of an XN overlap on a unit or a port, or one with its own next firing (R173). -/
def LoadCtx.xnOverlap (c : LoadCtx) (r sl : Nat) : Bool :=
  let ii := c.ii r
  let P := 32 * ii
  let l := (c.xnEntries r sl).map (fun e => (e.1 * ii, c.need r sl e.1 e.2))
  l.any (fun e => l.any (fun f =>
    if e.1 = f.1 then decide (P < e.2.busy ∧ e.2.unit ≠ 0)
    else (e.2.unit != 0 && e.2.unit == f.2.unit && meetIn P e.1 e.2.busy f.1 f.2.busy) ||
      e.2.ports.any (fun p => f.2.ports.any (fun q => p.east == q.east &&
        meetIn P (e.1 + p.first) (p.last + 1 - p.first) (f.1 + q.first) (q.last + 1 - q.first)))))

/-- E031: two results of one element visible in one cycle in L or on one lane or port (R55); two in one read-data latch;
both CEs on one write port (R89); two XN entries on one unit or port (R173). -/
def LoadCtx.e031 (c : LoadCtx) (i : CfgItem) : Bool :=
  match i with
  | .ce r sl _ =>
    let l := c.rows r sl
    let vis (e : Nat × RowWord) : Nat := (e.1 + rowLat c.g2 e.2.op.toNat) % c.ii r
    twice ((l.filter (fun e => rowWritesL e.2.op.toNat)).map vis) ||
    (List.range 14).any (fun d => twice ((l.filter (fun e => e.2.d.toNat == d + 1)).map vis)) ||
    (decide (sl % 6 = 4 ∨ sl % 6 = 0) && (l.any (fun e => e.2.d == 13 &&
      (if sl % 6 = 4 then c.drives r (c.east (c.east sl)) 13 (vis e)
       else (c.west sl) % 6 == 5 && c.drives r (c.west (c.west sl)) 13 (vis e)))))
  | .mn r sl _ => twice ((c.entries r sl).filterMap (fun e => (mnDest c.g2 e.2).map (fun d => (e.1 + d.2) % c.ii r)))
  | .xn r sl _ => c.xnOverlap r sl
  | _ => false

/-! ### E050: bank conflicts (R92, R310, R356) -/

/-- Node offsets at which an LDS or STS may touch port 0 in wrap `w`: its generator's offset there, in any
buffer of the shelf it names. -/
def LoadCtx.portZero (c : LoadCtx) (ring sl : Nat) (m : Nat) (g sh w : Nat) : List Nat :=
  let cfg := c.bank.mnCfg ring sl
  let x := tget 0 cfg.ag g
  let users := (c.entries ring sl).filter (fun e => (mnGen e.2).any (fun p => p.1 == g))
  let rank := (users.filter (fun e => decide (e.1 < m))).length
  let o := agOffset x ((w * users.length + rank) % (agCount x 0 * agCount x 1 * agCount x 2))
  if sh < 64 then
    let d := tget 0 cfg.shelf sh
    (List.range (shDepth d)).map (fun j => bufBase d j + o)
  else [o]

/-- Banks that the XN beside a node may touch through port 1 in the cycle `m` of wrap `w`: by an entry's tiles or beats, or
by a value presented on the operand port. -/
def LoadCtx.portOneBanks (c : LoadCtx) (ring sl : Nat) (m w : Nat) : List Nat :=
  let ii := c.ii ring
  let (x, east) := xnOfMn sl
  let cfg := c.bank.mnCfg ring sl
  let key := bitsOf (cfg.ncfg.setWidth 64) 4 4
  let bufs (sh : Nat) : List Nat := (List.range (shDepth (tget 0 cfg.shelf sh))).map (bufBase (tget 0 cfg.shelf sh))
  let byEntry := (c.xnEntries ring x).flatMap (fun e =>
    let n := c.need ring x e.1 e.2
    let word := tget 0 (c.bank.xnCfg ring x).rows e.1
    (n.ports.filter (fun p => p.east == east)).flatMap (fun p =>
      let shs := ((if p.write then n.writes else n.reads).filter (fun s => s.1 == east)).map (·.2)
      (List.range (p.last + 1 - p.first)).flatMap (fun j =>
        let k := p.first + j
        if k % ii = m ∧ k / ii ≤ w ∧ (w - k / ii) % 32 = e.1 then
          (if n.unit = 1 then [p.bank key word k] else (shs.flatMap bufs).map (fun b => ({ p with base := some b } : XPort).bank key word k))
        else [])))
  let d := tget 0 cfg.shelf 63
  let byCe := if c.drives ring (portCe x east) 14 m then
      (bufs 63).flatMap (fun b => (List.range (shBytes d / 64)).map (fun k => bankOf key (b + 64 * k)))
    else []
  byEntry ++ byCe

/-- E050: an LDS or STS and port 1 touch one bank in some cycle, whatever the node's mode. The positions of a generator and the XN's period recur
together after their product. -/
def LoadCtx.e050 (c : LoadCtx) (i : CfgItem) : Bool :=
  match i with
  | .mn r sl x =>
    let key := bitsOf (x.ncfg.setWidth 64) 4 4
    (c.entries r sl).any (fun e => match mnGen e.2 with
      | none => false
      | some (g, sh) =>
        let ag := tget 0 x.ag g
        (List.range (64 * (agCount ag 0 * agCount ag 1 * agCount ag 2))).any (fun w =>
          let one := c.portOneBanks r sl e.1 w
          (c.portZero r sl e.1 g sh w).any (fun o => one.contains (bankOf key o))))
  | _ => false

/-! ### E060 and E061: queues (R36) -/

/-- One end of a queue: the cycles of its tokens for instance 0, II, trips and stage count. -/
structure QueueEnd where
  at_ : List Nat
  ii : Nat
  trips : Option Nat
  ns : Nat
  reg : Nat
  deriving DecidableEq, Repr

/-- SHPUB (`pub`) or SHREL entries of a shelf. -/
def LoadCtx.queueEnd (c : LoadCtx) (ring sl sh : Nat) (pub : Bool) : QueueEnd :=
  let desc := ((c.region ring).map (·.2)).getD 0
  { at_ := (c.entries ring sl).filterMap (fun e =>
      let t := (tget 0 (c.bank.mnCfg ring sl).stages e.1).toNat * c.ii ring + e.1
      match e.2 with
      | .shpub s => if pub && s.toNat == sh then some t else none
      | .shrel s => if !pub && s.toNat == sh then some t else none
      | _ => none)
    ii := c.ii ring
    trips := descTrips desc
    ns := rNS desc
    reg := ((c.region ring).map (·.1)).getD 64 }

/-- Tokens of an end up to cycle `t` of a tile task of `n` instances. -/
def QueueEnd.upTo (q : QueueEnd) (n t : Nat) : Nat :=
  (q.at_.map (fun o => if t < o then 0 else min n ((t - o) / q.ii + 1))).foldl (· + ·) 0

/-- T × rate; unknown when a register gives T. -/
def QueueEnd.tokens (q : QueueEnd) : Option Nat := q.trips.map (fun n => n * q.at_.length)

/-- Instances that the check of the depth looks at: all of them, or where a register gives T as many as a steady state
needs. -/
def QueueEnd.span (q : QueueEnd) : Nat := q.trips.getD (2 * q.ns + 2)

/-- The production does not balance the consumption: T_p rate_p ≠ T_c rate_c. In one region both have one T. -/
def unbalanced (p c : QueueEnd) : Bool :=
  !p.at_.isEmpty && !c.at_.isEmpty &&
  (if p.reg = c.reg then decide (p.at_.length ≠ c.at_.length)
   else match p.tokens, c.tokens with
     | some a, some b => decide (a ≠ b)
     | _, _ => false)

/-- The greatest lead passes `depth`: published up to a publish, less released up to then, where production comes `dp` and
consumption `dc` cycles late. A consumer whose T a register gives runs as long as there are tokens. -/
def leadPasses (p c : QueueEnd) (dp dc depth : Nat) : Bool :=
  let n := c.trips.getD (p.span * p.at_.length + c.span)
  (p.at_.flatMap (fun o => (List.range p.span).map (fun i => o + i * p.ii))).any (fun t =>
    let u := t + dp
    decide (depth < p.upTo p.span t - (if u < dc then 0 else c.upTo n (u - dc))))

/-- The lead of the W tile tasks that the producer runs ahead under PIPE passes `depth` (R36). Where a register gives T the
loader knows only that a task has an instance (DEDUCED, log 10). -/
def windowPasses (p : QueueEnd) (w depth : Nat) : Bool := decide (depth < w * p.trips.getD 1 * p.at_.length)

/-- The cycles a circuit takes for a buffer of `bytes` (R30, R32): its beats in whole frames, and its hops. -/
def LoadCtx.transferTime (c : LoadCtx) (r : CircuitRec) (bytes : Nat) : Nat :=
  let beat := if r.hops.any hopMesh then 320 else 800
  let beats := (bytes + beat - 1) / beat
  256 * ((beats + r.nslots - 1) / max r.nslots 1) + (r.hops.map c.hop).foldl (· + ·) 0

/-- The window of a PIPE cell of which a producer's region is a child before the consumer's; 0 without one. -/
def LoadCtx.pipeWindow (c : LoadCtx) (p q : QueueEnd) : Nat :=
  (c.bank.cells.map (fun e =>
    let l := childrenOf true e.2
    if cellKind e.2.1 = 2 ∧ p.reg ≠ q.reg ∧ l.contains q.reg ∧ (l.takeWhile (fun i => i != q.reg)).contains p.reg then
      cellWindow e.2.1
    else 0)).foldl max 0

/-- The two ends of a circuit's queue: the source shelf's producer, the destination shelf's consumer. -/
def LoadCtx.circuitEnds (c : LoadCtx) (r : CircuitRec) : QueueEnd × QueueEnd :=
  (c.queueEnd r.sring (slotOfNode r.snode) r.ssh true, c.queueEnd r.dring (slotOfNode r.dnode) r.dsh false)

/-- E060. -/
def LoadCtx.e060 (c : LoadCtx) (i : CfgItem) : Bool :=
  match i with
  | .mn r sl _ => (List.range 64).any (fun sh => unbalanced (c.queueEnd r sl sh true) (c.queueEnd r sl sh false))
  | .circuit r => unbalanced (c.circuitEnds r).1 (c.circuitEnds r).2
  | _ => false

/-- E061. -/
def LoadCtx.e061 (c : LoadCtx) (i : CfgItem) : Bool :=
  match i with
  | .mn r sl x => (List.range 64).any (fun sh =>
      let p := c.queueEnd r sl sh true
      let q := c.queueEnd r sl sh false
      let n := shDepth (tget 0 x.shelf sh)
      !p.at_.isEmpty && !q.at_.isEmpty && (leadPasses p q 0 0 n || windowPasses p (c.pipeWindow p q) n))
  | .circuit r =>
    let (p, q) := c.circuitEnds r
    let w := c.bank.shelfDesc r.sring (slotOfNode r.snode) r.ssh
    let v := c.bank.shelfDesc r.dring (slotOfNode r.dnode) r.dsh
    let t := c.transferTime r (shBytes w)
    !p.at_.isEmpty && !q.at_.isEmpty &&
      (leadPasses p p 0 t (shDepth w) || leadPasses p q t 0 (shDepth v) || windowPasses p (c.pipeWindow p q) (shDepth v))
  | _ => false

/-! ### E070, E080: tags, shelves, versions -/

/-- The byte ranges of the valid shelves of a node. -/
def shelfRanges (m : MnCfg) : List (Nat × Nat × Nat) :=
  m.shelf.filterMap (fun e => if shValid e.2 then some (e.1, shBase e.2, shBase e.2 + shDepth e.2 * shBytes e.2) else none)

/-- The descriptors agree in BASE, SIZE, DEPM1 and BTAG (R96). -/
def carryFits (a b : Word) : Bool := shValid b && decide (shBase a = shBase b ∧ shBytes a = shBytes b ∧ shDepth a = shDepth b ∧ shTag a = shTag b)

/-- E070: BTAG 0xFFFF, a shelf beyond the node or over another (R93); CARRY without its equal in the load before (R96); a
TAGCHK entry with no shelf; a shelf over shadow storage. -/
def LoadCtx.e070 (c : LoadCtx) (i : CfgItem) : Bool :=
  match i with
  | .mn r sl x =>
    let l := shelfRanges x
    x.shelf.any (fun e => shValid e.2 && (decide (shTag e.2 = 0xFFFF) ||
      (shCarry e.2 && (match c.prev with
        | none => true
        | some b => !carryFits e.2 (b.shelfDesc r sl e.1))))) ||
    l.any (fun e => decide (nodeSize c.g2 < e.2.2) || l.any (fun f => decide (e.1 < f.1 ∧ e.2.1 < f.2.2 ∧ f.2.1 < e.2.2))) ||
    (c.entries r sl).any (fun e => match e.2 with
      | .lds _ _ _ k s => k == 1 && s == 0xFF
      | .ldx _ _ _ _ k s _ => k == 1 && s == 0xFF
      | _ => false) ||
    c.blocks.any (fun b => match b.item with
      | .derive w =>
        let y := newDerived w false
        decide (bitsOf (y.word 0) 48 6 = r ∧ slotOfNode (bitsOf (y.word 0) 44 4) = sl) &&
          l.any (fun e => decide (e.2.1 < y.shBase + y.shSize ∧ y.shBase < e.2.2))
      | _ => false)
  | _ => false

/-- The anchor that the entries before slot `j`, back round the period, leave in an accumulator; none where it cannot be
seen: no entry sets it, or an XLDA takes it from memory. -/
def LoadCtx.anchorAt (c : LoadCtx) (r sl acc j : Nat) : Option Byte :=
  let l := c.xnEntries r sl
  let order := (l.filter (fun e => decide (e.1 < j))).reverse ++ (l.filter (fun e => decide (j ≤ e.1))).reverse
  (order.findSome? (fun e => match e.2 with
    | .xclr a _ v => if a.toNat = acc then some (some v) else none
    | .xlda a _ _ _ _ => if a.toNat = acc then some none else none
    | .xdfin _ _ v _ _ _ => if acc = 0 then some (some v) else none
    | _ => none)).getD none

/-- An XMM's anchor differs from one that can be seen (R122). -/
def LoadCtx.anchorBad (c : LoadCtx) (r sl j : Nat) (i : Instr) : Bool :=
  match i with
  | .xmm acc _ _ _ _ v => (c.anchorAt r sl acc.toNat j).any (fun x => x != v)
  | _ => false

/-- The versioned entries of an accumulator, by slot, with VER and completion. -/
def LoadCtx.versioned (c : LoadCtx) (r sl acc : Nat) : List (Nat × Nat × Nat) :=
  (c.xnEntries r sl).filterMap (fun e =>
    let w := tget 0 (c.bank.xnCfg r sl).rows e.1
    if xnAccOf c.g2 w = some acc then some (e.1, bitsOf w 48 8, (c.need r sl e.1 e.2).left) else none)

/-- Each entry of an accumulator meets the version that the one before it leaves: versions follow each other, load 0 begins at 0,
and each completes before the next fires (R174). -/
def LoadCtx.versionsBad (c : LoadCtx) (r sl acc : Nat) : Bool :=
  let l := c.versioned r sl acc
  let ii := c.ii r
  match l with
  | [] => false
  | h :: _ =>
    (decide (c.k = 0) && decide (h.2.1 ≠ 0)) ||
    (l.zip (l.drop 1)).any (fun e => decide ((e.1.2.1 + 1) % 256 ≠ e.2.2.1 ∨ e.2.1 * ii < e.1.1 * ii + e.1.2.2)) ||
    (match l.getLast? with
     | some z => decide (h.1 * ii + 32 * ii < z.1 * ii + z.2.2)
     | none => false)

/-- A plane that an XDND adds into is not cleared by an XCLR that completes before it (R177). -/
def LoadCtx.planesBad (c : LoadCtx) (r sl : Nat) : Bool :=
  let l := c.xnEntries r sl
  l.any (fun e => match e.2 with
    | .xdnd _ _ _ _ _ _ lb => (List.range (branches lb)).any (fun b =>
        !l.any (fun f => match f.2 with
          | .xclr a _ _ => decide (a.toNat = (planeAt lb b).1 ∧ f.1 * c.ii r + 2 ≤ e.1 * c.ii r)
          | _ => false))
    | _ => false)

/-- E080. -/
def LoadCtx.e080 (c : LoadCtx) (i : CfgItem) : Bool :=
  match i with
  | .xn r sl _ => (List.range 4).any (c.versionsBad r sl) || c.planesBad r sl || (c.xnEntries r sl).any (fun e => c.anchorBad r sl e.1 e.2)
  | _ => false

/-! ### E090 to E132 -/

/-- E090: a fabric port bound to neither SRAM path (R98, R104). -/
def e090 (i : CfgItem) : Bool :=
  match i with
  | .bind _ w => let port (a : Word) : Bool := decide (pathOf a = 0 ∨ pathOf a = 1)
    !port (scWord w 0) && !port (scWord w 1)
  | _ => false

/-- E091: NL or SL read across a region boundary (R28). -/
def LoadCtx.e091 (c : LoadCtx) (i : CfgItem) : Bool :=
  match i with
  | .ce r sl _ => (c.rows r sl).any (fun e => (rowSources e.2).any (fun n =>
      (decide (n = 9 ∧ r ≠ 0) && !c.sameRegion r (r - 1)) || (decide (n = 11 ∧ r ≠ 63) && !c.sameRegion r (r + 1))))
  | _ => false

/-- E100: a MONO table that fails the test of R64. -/
def e100 (i : CfgItem) : Bool :=
  match i with
  | .table k _ _ _ _ t => k != 1 && tabShapeOk t && !tabOk t
  | _ => false

/-- E101: a record that R62 or R176 refuses, or none at its offset. -/
def LoadCtx.e101 (c : LoadCtx) (i : CfgItem) : Bool :=
  match i with
  | .table k _ _ _ o t => decide (c.tablesLen < o + 1040) || (if k = 1 then !mapOk t else !tabShapeOk t)
  | _ => false

/-- Bytes of [lo, hi) outside some ranges, and of a union of ranges. -/
def uncovered : List (Nat × Nat) → Nat → Nat → Nat
  | [], lo, hi => hi - lo
  | (a, b) :: t, lo, hi => uncovered t lo (min hi a) + uncovered t (max lo b) hi
def unionLen : List (Nat × Nat) → Nat
  | [] => 0
  | (a, b) :: t => uncovered t a b + unionLen t

/-- The ranges of a node of a die that a load uses: shelves, declared data, bases and shadow storage. -/
def LoadCtx.used (c : LoadCtx) (die ring sl : Nat) : List (Nat × Nat) :=
  (shelfRanges (c.bank.mnCfg ring sl)).map (fun e => (e.2.1, e.2.2)) ++
  (c.bank.declared.filter (fun r => r.ring == ring && slotOfNode r.node == sl)).map (fun r => (r.lo, r.lo + r.len)) ++
  c.blocks.flatMap (fun b => match b.item with
    | .derive w =>
      let y := newDerived w false
      if bitsOf (y.word 0) 54 6 = die ∧ bitsOf (y.word 0) 48 6 = ring ∧ slotOfNode (bitsOf (y.word 0) 44 4) = sl then
        [(y.shBase, y.shBase + y.shSize), (y.base, y.base + (y.rows - 1) * y.rstr + y.rowBytes)]
      else []
    | _ => [])

/-- The bytes of a die that the load uses. -/
def LoadCtx.usedBytes (c : LoadCtx) (die : Nat) : Nat :=
  ((List.range 64).flatMap (fun r => (List.range 16).map (fun n => unionLen (c.used die r (slotOfNode n))))).foldl (· + ·) 0

/-- Some die uses more than the capacity requested: one on which the load declares a region, or any other, which uses the
least. -/
def LoadCtx.overCap (c : LoadCtx) : Bool :=
  (0 :: c.blocks.filterMap (fun b => match b.item with
    | .derive w => some (bitsOf ((w[0]?).getD 0) 54 6)
    | _ => none)).any (fun d => decide (c.ncap < c.usedBytes d))

/-- E120: shadow storage beyond the node, over other shadow storage or over its own base (R149); a ninth region of a node;
more than the node capacity requested. -/
def LoadCtx.e120 (c : LoadCtx) (i : CfgItem) : Bool :=
  match i with
  | .derive w =>
    let x := newDerived w false
    let a := bitsOf (x.word 0) 44 16
    let lo := x.shBase
    let hi := x.shBase + x.shSize
    let others := c.blocks.filterMap (fun b => match b.item with
      | .derive v => if v ≠ w ∧ bitsOf ((v[0]?).getD 0) 44 16 = a then some (newDerived v false) else none
      | _ => none)
    decide (nodeSize c.g2 < hi ∨ 8 ≤ others.length) ||
    others.any (fun y => decide (lo < y.shBase + y.shSize ∧ y.shBase < hi)) ||
    (List.range x.rows).any (fun k => decide (lo < x.base + k * x.rstr + x.rowBytes ∧ x.base + k * x.rstr < hi)) ||
    c.overCap
  | .mn _ _ x => !x.shelf.isEmpty && c.overCap
  | .declared _ => c.overCap
  | _ => false

/-- [lo, hi) lies inside some ranges together. -/
def inRanges (l : List (Nat × Nat)) : Nat → Nat → Nat → Bool
  | 0, lo, hi => decide (hi ≤ lo)
  | fuel + 1, lo, hi =>
    decide (hi ≤ lo) || (match l.find? (fun e => decide (e.1 ≤ lo ∧ lo < e.2)) with
      | some e => inRanges l fuel e.2 hi
      | none => false)

/-- A shelf lies in the declared set of its load (R111). -/
def LoadCtx.shelfDeclared (c : LoadCtx) (ring node : Nat) (w : Word) : Bool :=
  let l := (c.bank.declared.filter (fun r => r.ring == ring && r.node == node)).map (fun r => (r.lo, r.lo + r.len))
  inRanges l (l.length + 1) (shBase w) (shBase w + shDepth w * shBytes w)

/-- A bound stream command reads or publishes a shelf of a node: SEVC and SCPY name it in SHELF, on the side that PUB says. -/
def LoadCtx.streamOn (c : LoadCtx) (ring node sh : Nat) (pub : Bool) : Bool :=
  c.blocks.any (fun b => match b.item with
    | .bind _ w =>
      let a := scWord w (if pub then 1 else 0)
      scPub w == pub && decide (pathOf a = 1 ∧ bitsOf a 48 6 = ring ∧ bitsOf a 44 4 = node ∧ scShelf w = sh)
    | _ => false)

/-- The source shelf of a circuit has another consumer: a read entry, SHREL, an XN entry, a stream or a second circuit (R32). -/
def LoadCtx.otherConsumer (c : LoadCtx) (r : CircuitRec) : Bool :=
  let sl := slotOfNode r.snode
  (c.entries r.sring sl).any (fun e => mnShelf e.2 == some (r.ssh, false) || (match e.2 with
    | .shrel s => s.toNat == r.ssh
    | _ => false)) ||
  (c.xnEntries r.sring (xnOfMn sl).1).any (fun e => (c.need r.sring (xnOfMn sl).1 e.1 e.2).reads.contains ((xnOfMn sl).2, r.ssh)) ||
  c.streamOn r.sring r.snode r.ssh false ||
  c.blocks.any (fun b => match b.item with
    | .circuit q => decide (q ≠ r ∧ q.sdie = r.sdie ∧ q.sring = r.sring ∧ q.snode = r.snode ∧ q.ssh = r.ssh)
    | _ => false)

/-- The destination shelf has another producer: SHPUB, a stream's publish or a second circuit (R32). -/
def LoadCtx.otherProducer (c : LoadCtx) (r : CircuitRec) : Bool :=
  (c.entries r.dring (slotOfNode r.dnode)).any (fun e => match e.2 with
    | .shpub s => s.toNat == r.dsh
    | _ => false) ||
  c.streamOn r.dring r.dnode r.dsh true ||
  c.blocks.any (fun b => match b.item with
    | .circuit q => decide (q ≠ r ∧ q.ddie = r.ddie ∧ q.dring = r.dring ∧ q.dnode = r.dnode ∧ q.dsh = r.dsh)
    | _ => false)

/-- E132 (R32). -/
def LoadCtx.e132 (c : LoadCtx) (i : CfgItem) : Bool :=
  match i with
  | .circuit r =>
    let w := c.bank.shelfDesc r.sring (slotOfNode r.snode) r.ssh
    let v := c.bank.shelfDesc r.dring (slotOfNode r.dnode) r.dsh
    !shValid w || !shValid v || decide (shBytes w ≠ shBytes v ∨ shDepth w ≠ shDepth v) || (shDisc w != shDisc v) ||
      !c.shelfDeclared r.sring r.snode w || !c.shelfDeclared r.dring r.dnode v || c.otherConsumer r || c.otherProducer r
  | _ => false

/-- E130: a circuit that holds a channel in a frame slot of another circuit of the section (R31). -/
def LoadCtx.e130 (c : LoadCtx) (i : CfgItem) : Bool :=
  match i with
  | .circuit r => c.all.any (fun b => match b.item with
      | .circuit q => q != r && c.meet r q
      | _ => false)
  | _ => false

/-- E131: an endpoint or hop of a circuit outside the rectangle (R31). -/
def LoadCtx.e131 (c : LoadCtx) (i : CfgItem) : Bool :=
  match i with
  | .circuit r => c.outside r
  | _ => false

/-! ### The section -/

/-- The checks by code, in the order of R146. -/
def LoadCtx.checks (c : LoadCtx) : List (Nat × (CfgItem → Bool)) :=
  [(3, c.e003), (11, c.e011), (20, c.e020), (21, c.e021), (22, c.e022), (30, c.e030), (31, c.e031), (40, c.e040), (50, c.e050), (60, c.e060),
   (61, c.e061), (70, c.e070), (80, c.e080), (90, e090), (91, c.e091), (100, e100), (101, c.e101), (120, c.e120), (130, c.e130),
   (131, c.e131), (132, c.e132)]

/-- What the checks of an image need beside its blocks. -/
structure SectionEnv where
  g2 : Bool
  tload : Bool
  ncap : Nat
  tablesLen : Nat
  dies : Nat
  hop : BitVec 32 → Nat
  meet : CircuitRec → CircuitRec → Bool
  outside : CircuitRec → Bool

/-- The contexts of the loads up to load `n`, each over the configuration that the load before it leaves (R134, R183). -/
def loadCtxs (e : SectionEnv) (l : List CfgBlock) (n : Nat) : List LoadCtx :=
  ((List.range n).foldl (fun (t : List LoadCtx × Option Bank) k =>
    let b := match t.2 with
      | none => ({} : Bank).installBlocks l k
      | some p => (({} : Bank).installBlocks l k).takenFrom p
    (t.1 ++ [⟨e.g2, k, b, t.2, loadBlocks l k, l, e.tload, e.ncap, e.tablesLen, e.dies, e.hop, e.meet, e.outside⟩], some b)) ([], none)).1

/-- The first check that fails: code, and the failing block's place. Codes come in the order of R146, loads in ascending
order, blocks in section order (DESIGN CHOICE, log 10). -/
def firstFailing (cs : List LoadCtx) : Option (Nat × Nat) :=
  match cs with
  | [] => none
  | h :: _ => (List.range h.checks.length).findSome? (fun n => cs.findSome? (fun c => match c.checks[n]? with
      | some (code, f) => (c.blocks.find? (fun b => f b.item)).map (fun b => (code, b.place))
      | none => none))

/-- The loads of a section: one more than the greatest index. -/
def loadCount (l : List CfgBlock) : Nat := (l.map (·.load + 1)).foldl max 0

/-- The checks of the blocks of a section. -/
def checkBlocks (e : SectionEnv) (l : List CfgBlock) : Option (Nat × Nat) := firstFailing (loadCtxs e l (loadCount l))

/-- A word of TEXT has the TLOAD opcode (R63). -/
def textHasTload (text : List Byte) : Bool := (chunks 4 (text.length / 4) text).any (fun w => decide (leNat w / 2 ^ 24 = 0x58))

/-- A native section read and checked: its blocks, or the code and place of its first failing check. -/
def checkSection (e : SectionEnv) (sec tables : List Byte) : Except (Nat × Nat) (List CfgBlock) :=
  match blocksOf sec tables with
  | .error o => .error (3, o)
  | .ok l => match checkBlocks e l with
    | some f => .error f
    | none => .ok l

end Sys2Proof.Machine
end

