-- ==== Sys2Proof/Machine/Hexnum.lean ====
section
/-! DEFINITION. Hexnum (R135 to R138): its records, what refuses them, and what ties a placement to them: every node's row
or entry, and the rows that carry its inputs. The placer itself is `Config.placement` (log 10). -/

namespace Sys2Proof.Machine

/-! ### Records (R135) -/

/-- A record of HXN; `raw` when it is read through its auxiliary header alone. -/
structure HexRec where
  w0 : Word
  w1 : Word
  raw : Bool
  deriving DecidableEq, Repr

def HexRec.cls (r : HexRec) : Nat := bitsOf r.w0 62 2
def HexRec.op (r : HexRec) : Nat := bitsOf r.w0 55 7
def HexRec.fmt (r : HexRec) : Nat := bitsOf r.w0 50 5
def HexRec.nin (r : HexRec) : Nat := bitsOf r.w0 48 2
def HexRec.attr (r : HexRec) (lo n : Nat) : Nat := r.w0.toNat % 2 ^ 48 / 2 ^ lo % 2 ^ n
def HexRec.carry (r : HexRec) (j : Nat) : Bool := r.w1.getLsbD (61 + j)
def HexRec.inp (r : HexRec) (j : Nat) : Nat := bitsOf r.w1 (20 * j) 20

/-- An auxiliary record of a kind, and a node: 0 element, 1 MN, 2 XN. -/
def HexRec.isAux (r : HexRec) (kind : Nat) : Bool := !r.raw && r.cls == 3 && r.op == kind
def HexRec.isNode (r : HexRec) (cls : Nat) : Bool := !r.raw && r.cls == cls && cls != 3

/-- The records of a section in order; the one after a generator or shelf header is raw. -/
def hexRecs : Bool → List (Word × Word) → List HexRec
  | _, [] => []
  | raw, (a, b) :: t =>
    let r : HexRec := ⟨a, b, raw⟩
    r :: hexRecs (r.isAux 1 || r.isAux 2) t

/-- The word pairs of a section. -/
def hexWords (b : List Byte) : List (Word × Word) := (chunks 16 (b.length / 16) b).map (fun c => (payloadWord c 0, payloadWord c 1))

def hexAt (l : List HexRec) (i : Nat) : HexRec := (l[i]?).getD ⟨0, 0, true⟩

/-- Loop headers by index, and the loop whose body holds a record. -/
def hexLoops (l : List HexRec) : List (Nat × HexRec) := (l.zipIdx.filter (fun e => e.1.isAux 0)).map (fun e => (e.2, e.1))
def inBody (h : HexRec) (i : Nat) : Bool := decide (bitsOf h.w1 0 20 ≤ i ∧ i ≤ bitsOf h.w1 20 20)
def loopOf (l : List HexRec) (i : Nat) : Option (Nat × HexRec) := (hexLoops l).find? (fun e => inBody e.2 i)

/-- The record that a refusal names: that of the loop. -/
def loopPlace (l : List HexRec) (i : Nat) : Nat := ((loopOf l i).map (·.1)).getD i

/-! ### What refuses a section -/

/-- The opcode and attributes of a node: those of a native row or entry, of an element with some operands, but XPT, COPY and
NOP. -/
def HexRec.opLegal (r : HexRec) : Bool :=
  match r.cls with
  | 0 =>
    !([0, 1, 2].contains r.op) && decide (r.op < 128) &&
    decide (r.attr 11 17 = 0 ∧ r.attr 4 2 ≠ 3 ∧ (r.attr 4 2 ≠ 0 ∨ r.attr 28 20 = 0)) &&
    [0, 31].any (fun a => [0, 31].any (fun b => [0, 31].any (fun c =>
      (decoded (ofRow ⟨BitVec.ofNat 7 r.op, a, b, c, 0, BitVec.ofNat 2 (r.attr 4 2), BitVec.ofNat 4 (r.attr 0 4)⟩)).isSome)))
  | 1 => decide (1 ≤ r.op ∧ r.op ≤ 10) && (if r.op = 8 ∨ r.op = 9 then decide (1 ≤ r.attr 40 8) else decide (r.attr 40 8 = 0))
  | 2 => decide (1 ≤ r.op ∧ r.op ≤ 10 ∧ r.attr 33 15 = 0)
  | _ => decide (r.op ≤ 3)

/-- The inputs of a record lie before it, or are carried from a record of its own loop. -/
def inputsBad (l : List HexRec) (i : Nat) (r : HexRec) : Bool :=
  (List.range 3).any (fun j =>
    if j < r.nin then
      if r.carry j then !((loopOf l i).any (fun h => inBody h.2 (r.inp j)))
      else decide (i ≤ r.inp j)
    else r.carry j)

/-- A row that writes P: PMOV, PAND, POR, PXOR (R57). -/
def writesP (op : Nat) : Bool := [8, 10, 11, 12].contains op

/-- The predicate record of a guarded element: an earlier record that writes P (R135; DEDUCED, log 10, since no CARRY bit goes
with it). -/
def predBad (l : List HexRec) (i : Nat) (r : HexRec) : Bool :=
  r.cls == 0 && r.attr 4 2 != 0 &&
    !(decide (r.attr 28 20 < i) && (hexAt l (r.attr 28 20)).isNode 0 && writesP (hexAt l (r.attr 28 20)).op)

/-- LDS and STS take a generator or a shelf as IN0, SHPUB and SHREL a shelf (R135). DEDUCED (log 10): an LDS or STS of a shelf, which
should take both there, names either. -/
def auxInputBad (l : List HexRec) (r : HexRec) : Bool :=
  let a := hexAt l (r.inp 0)
  r.cls == 1 && (match r.op with
    | 1 => r.nin == 0 || r.carry 0 || !(a.isAux 1 || a.isAux 2)
    | 2 => r.nin == 0 || r.carry 0 || !(a.isAux 1 || a.isAux 2)
    | 8 => r.nin == 0 || r.carry 0 || !a.isAux 2
    | 9 => r.nin == 0 || r.carry 0 || !a.isAux 2
    | _ => false)

/-- An auxiliary record that breaks R135. -/
def auxBad (l : List HexRec) (i : Nat) (r : HexRec) : Bool :=
  match r.op with
  | 0 => decide (bitsOf r.w1 20 20 < bitsOf r.w1 0 20 ∨ l.length ≤ bitsOf r.w1 20 20 ∨ 32 < r.attr 33 6 ∨
      (r.attr 32 1 = 1 ∧ 64 ≤ r.attr 0 32))
  | 1 => decide (l.length ≤ i + 1)
  | 2 => decide (l.length ≤ i + 1 ∨ (hexAt l (i + 1)).w1 ≠ 0)
  | _ => false

/-- E003: a reserved bit, a class or opcode Hexnum lacks, an illegal attribute, a format code or an input. -/
def hexE003 (l : List HexRec) (i : Nat) : Bool :=
  let r := hexAt l i
  !r.raw && (r.w1.getLsbD 60 || !r.opLegal || decide (20 < r.fmt) ||
    (if r.cls = 3 then auxBad l i r else inputsBad l i r || predBad l i r || auxInputBad l r))

/-- Trips of a loop; unknown when a register gives them. -/
def hexTrips (h : HexRec) : Option Nat := if h.attr 32 1 = 1 then none else some (h.attr 0 32)

/-- The tokens of a task that the SHPUB or SHREL records of a shelf come to, by loop. -/
def hexTokens (l : List HexRec) (shelf op : Nat) : List (Nat × Option Nat × Nat) :=
  (hexLoops l).filterMap (fun h =>
    let rate := ((l.zipIdx.filter (fun e => inBody h.2 e.2 && e.1.isNode 1 && e.1.op == op && e.1.inp 0 == shelf)).map
      (fun e => e.1.attr 40 8)).foldl (· + ·) 0
    if rate = 0 then none else some (h.1, hexTrips h.2, rate))

/-- E060: a loop whose tokens do not balance those of the shelf's other end (R36). -/
def hexUnbalanced (l : List HexRec) : Option Nat :=
  (l.zipIdx.filter (fun e => e.1.isAux 2)).findSome? (fun e =>
    let ps := hexTokens l e.2 8
    let cs := hexTokens l e.2 9
    ps.findSome? (fun p => if cs.any (fun c =>
      if p.1 = c.1 then decide (p.2.2 ≠ c.2.2)
      else match p.2.1, c.2.1 with
        | some a, some b => decide (a * p.2.2 ≠ b * c.2.2)
        | _, _ => false) then some p.1 else none))

/-- E101 and E100: a table record that lies beyond TABLES or that R62 or R64 refuses. -/
def hexTableBad (tables : List Byte) (r : HexRec) : Option Nat :=
  let o := r.attr 0 32
  let t := tableRecord tables o
  if !r.isAux 3 then none
  else if tabShapeOk t && !tabOk t then some 100
  else if decide (tables.length < o + 1040) || !(tabShapeOk t || mapOk t) then some 101
  else none

/-- The first refusal of the records: record of the failing loop, code. -/
def hexRefused (l : List HexRec) (tables : List Byte) : Option (Nat × Nat) :=
  match (List.range l.length).find? (hexE003 l) with
  | some i => some (loopPlace l i, 3)
  | none => match hexUnbalanced l with
    | some n => some (n, 60)
    | none => l.zipIdx.findSome? (fun e => (hexTableBad tables e.1).map (fun c => (loopPlace l e.2, c)))

/-! ### What ties a placement to the records (R136) -/

/-- The context of the load that a site lies in. -/
def ctxOf (cs : List LoadCtx) (x : HexSite) : Option LoadCtx := cs.find? (fun c => c.k == x.load)

/-- The shelves of an XN entry are those that its record names, but for that of an XWB's parameters, shelf 0 (R122). -/
def LoadCtx.xnShelvesFit (c : LoadCtx) (x : HexSite) (r : HexRec) (l : List HexRec) : Bool :=
  match xnInstr (tget 0 (c.bank.xnCfg x.ring x.slot).rows x.row) with
  | none => true
  | some i =>
    let n := c.need x.ring x.slot x.row i
    let used := ((if r.op = 3 then [] else n.reads) ++ n.writes).map (fun e =>
      tget 0 (c.bank.mnCfg x.ring (mnOfXn x.slot e.1)).shelf e.2)
    let named := (List.range r.nin).filterMap (fun j =>
      if (hexAt l (r.inp j)).isAux 2 then some (hexAt l (r.inp j + 1)).w0 else none)
    used.all (fun w => named.contains w) && named.all (fun w => used.contains w)

/-- SC of a row: the immediate of its record where the opcode takes one, the code of no operand otherwise; SC as an operand is an
input's. -/
def scFits (w : RowWord) (imm : Nat) : Bool :=
  if 2 < (rowSources w).length then imm == 0
  else if (decoded (ofRow { w with c := BitVec.ofNat 5 imm })).isSome then w.c.toNat == imm
  else imm == 0 && w.c == 31

/-- A node's row or entry has its operation, attributes and formats; an MN entry has the generator or the shelf that IN0 names, the
node itself where IN0 names neither, and no predicate, which the records cannot give. DEDUCED (log 10): of an LDS or STS only what
IN0 names is tied, generator or shelf; the other is the placer's. -/
def siteFits (c : LoadCtx) (x : HexSite) (r : HexRec) (l : List HexRec) : Bool :=
  match r.cls with
  | 0 =>
    let cfg := c.bank.ceCfg x.ring x.slot
    let w := rowWordOf (tget nopWord cfg.rows x.row)
    isCe x.slot && decide (w.op.toNat = r.op ∧ w.m.toNat = r.attr 0 4 ∧ w.p.toNat = r.attr 4 2 ∧ faOf cfg.fcfg = r.fmt) &&
    scFits w (r.attr 6 5)
  | 1 =>
    let cfg := c.bank.mnCfg x.ring x.slot
    let w := mnWordOf (tget 0 cfg.rows x.row)
    let aux := hexAt l (r.inp 0)
    let raw := hexAt l (r.inp 0 + 1)
    let gen := decide (0 < r.nin) && aux.isAux 1
    let shelf := decide (0 < r.nin) && aux.isAux 2
    isMn x.slot && decide (w.op.toNat = r.op ∧ w.imm.toNat = r.attr 0 32 ∧ w.mode.toNat = r.attr 32 3 ∧ w.chk.toNat = r.attr 35 1 ∧
      w.dix.toNat = r.attr 36 4 ∧ w.pred = 0) &&
    (!gen || tget 0 cfg.ag w.ag.toNat == (raw.w1 ++ raw.w0 : BitVec 128)) &&
    (!shelf || tget 0 cfg.shelf w.shelf.toNat == raw.w0) &&
    (gen || shelf || !([3, 4, 5, 6].contains r.op) || w.shelf == 0xFF)
  | _ =>
    let cfg := c.bank.xnCfg x.ring x.slot
    let w := xnWordOf (tget 0 cfg.rows x.row)
    isXn x.slot && decide (w.op.toNat = r.op ∧ w.acc.toNat = r.attr 0 2 ∧ w.anch.toNat = r.attr 10 8 ∧ w.map.toNat = r.attr 18 3 ∧
      w.lb.toNat = r.attr 21 2 ∧ w.kst.toNat = (if r.op = 3 then r.attr 28 5 else r.attr 2 8) ∧ faOf cfg.fcfg = r.fmt ∧
      w.dside.toNat + 2 * w.scale.toNat + 4 * w.clip.toNat + 8 * w.tap.toNat + 16 * w.sfmt.toNat = r.attr 23 5) &&
    c.xnShelvesFit x r l

/-- The latest execution of one of some rows, each with its latency, whose result is visible by cycle `u`. -/
def latestBy (ring slot ii : Nat) (u : Int) (l : List (Nat × Nat)) : Option RowAt :=
  (l.foldl (fun (b : Option (Int × RowAt)) e =>
    let w := Int.fdiv (u - e.1 - e.2) ii
    let v : Int := e.1 + e.2 + ii * w
    if b.any (fun x => decide (v ≤ x.1)) then b else some (v, ⟨ring, slot, e.1, w⟩)) none).map (·.2)

/-- The row that presents a value on an MN's write port in cycle `u` (R89). -/
def LoadCtx.portFrom (c : LoadCtx) (ring sl : Nat) (u : Int) : Option RowAt :=
  (c.presenters sl).findSome? (fun q => ((c.rows ring q).find? (fun e =>
    decide (e.2.d = 13 ∧ Int.emod (u - e.1 - rowLat c.g2 e.2.op.toNat) (c.ii ring) = 0))).map (fun e =>
      ⟨ring, q, e.1, Int.fdiv (u - e.1 - rowLat c.g2 e.2.op.toNat) (c.ii ring)⟩))

/-- The row that gives an operand code of a unit its value in cycle `u`; code 32 is an MN's write port. -/
def LoadCtx.sourceOf (c : LoadCtx) (ring sl n : Nat) (u : Int) : Option RowAt :=
  let ii := c.ii ring
  let latch (r q : Nat) : Option RowAt := latestBy r q ii u ((c.writers r q).map (fun x => (x.row, x.lat)))
  if n < 8 then c.rotFrom ring sl n u
  else if n = 8 then latch ring sl
  else if n = 9 then latch (ring - 1) sl
  else if n = 10 then latch ring (c.east sl)
  else if n = 11 then latch (ring + 1) sl
  else if n = 12 then latch ring (c.west sl)
  else if n < 25 then c.laneFrom ring sl (n - 13) u
  else if n = 32 then c.portFrom ring sl u
  else none

/-- How many rows and entries of the load write the place that an operand code reads. -/
def LoadCtx.placeWriters (c : LoadCtx) (ring sl n : Nat) : Nat :=
  if n < 8 then ((c.rows ring sl).filter (fun e => e.2.op == 2)).length
  else match c.latchNamed ring sl n with
    | some p => (c.writers p.1 p.2).length
    | none => ((List.range (slotsOf c.g2)).map (fun q => (c.laneDrivers ring q (n - 13)).length)).foldl (· + ·) 0

/-- The row behind an operand once the placer's COPY and XPT rows are followed back. -/
def LoadCtx.origin (c : LoadCtx) : Nat → Nat → Nat → Nat → Int → Option RowAt
  | 0, _, _, _, _ => none
  | fuel + 1, ring, sl, n, u => match c.sourceOf ring sl n u with
    | none => none
    | some p =>
      let w := rowWordOf (tget nopWord (c.bank.ceCfg p.ring p.slot).rows p.row)
      if isCe p.slot ∧ (w.op = 1 ∨ w.op = 2) then c.origin fuel p.ring p.slot w.a.toNat (p.row + c.ii p.ring * p.wrap) else some p

/-- The places along the way of an operand hold zero until its producer first runs: nothing else of the load writes them, and a load
begins with every latch, lane and rotating file zero (R49). So a carried input reads zero in the first iteration (R135; DEDUCED,
log 10). -/
def LoadCtx.zeroFirst (c : LoadCtx) : Nat → Nat → Nat → Nat → Int → Bool
  | 0, _, _, _, _ => false
  | fuel + 1, ring, sl, n, u => c.placeWriters ring sl n == 1 && (match c.sourceOf ring sl n u with
    | none => false
    | some p =>
      let w := rowWordOf (tget nopWord (c.bank.ceCfg p.ring p.slot).rows p.row)
      if isCe p.slot ∧ (w.op = 1 ∨ w.op = 2) then c.zeroFirst fuel p.ring p.slot w.a.toNat (p.row + c.ii p.ring * p.wrap) else true)

/-- The cycle in which instance 0 runs a site. -/
def LoadCtx.siteCycle (c : LoadCtx) (x : HexSite) : Int := x.row + c.ii x.ring * c.stageAt x.ring x.slot x.row

/-- An operand code of a site carries the record that input `j` names: of the same iteration, or of the one before where carried. -/
def feeds (c : LoadCtx) (x : HexSite) (r : HexRec) (sites : Tab (Option HexSite)) (n j : Nat) : Bool :=
  match c.origin 256 x.ring x.slot n (c.siteCycle x), tget none sites (r.inp j) with
  | some p, some y => decide (p.ring = y.ring ∧ p.slot = y.slot ∧ p.row = y.row ∧
      p.wrap - c.stageAt y.ring y.slot y.row = (if r.carry j then -1 else 0)) &&
      (!r.carry j || c.zeroFirst 256 x.ring x.slot n (c.siteCycle x))
  | _, _ => false

/-- The predicate of a guarded row: the last write of P before it is that of the record it names, of the same iteration. -/
def predFits (c : LoadCtx) (x : HexSite) (r : HexRec) (sites : Tab (Option HexSite)) : Bool :=
  r.attr 4 2 == 0 ||
  (match latestBy x.ring x.slot (c.ii x.ring) (c.siteCycle x)
      ((c.rows x.ring x.slot).filterMap (fun e => if writesP e.2.op.toNat then some (e.1, 1) else none)),
      tget none sites (r.attr 28 20) with
   | some p, some y => decide (p.ring = y.ring ∧ p.slot = y.slot ∧ p.row = y.row ∧ p.wrap = c.stageAt y.ring y.slot y.row)
   | _, _ => false)

/-- The operand codes by which an MN entry takes its data and its index. -/
def mnCodes (i : Instr) : List Nat :=
  (match mnSource i with
   | some l => if l = 13 then [32] else if l = 14 then [12] else if l = 15 then [10] else [12 + l.toNat]
   | none => []) ++
  (match mnIndex i with
   | some g => [if g = 0 then 12 else 10]
   | none => [])

/-- A node's operands come from the records its inputs name. An input that names an auxiliary record is none of its operands.
DEDUCED (log 10): R135 does not say which input of an MN node is its data and which its index. -/
def inputsFit (c : LoadCtx) (x : HexSite) (r : HexRec) (l : List HexRec) (sites : Tab (Option HexSite)) : Bool :=
  let ins := (List.range r.nin).filter (fun j => (hexAt l (r.inp j)).cls != 3)
  match r.cls with
  | 0 =>
    let w := rowWordOf (tget nopWord (c.bank.ceCfg x.ring x.slot).rows x.row)
    predFits c x r sites && ins.all (fun j => feeds c x r sites (((rowSources w)[j]?).getD 31) j)
  | 1 =>
    let ns := ((decoded (decodeMn (tget 0 (c.bank.mnCfg x.ring x.slot).rows x.row))).map mnCodes).getD []
    ns.all (fun n => ins.any (fun j => feeds c x r sites n j)) && ins.all (fun j => ns.any (fun n => feeds c x r sites n j))
  | _ => ins.isEmpty

/-- The region of a site runs the trips of the loop that holds the record, and all nodes of a loop lie in one region (R24, R135). -/
def tripsFit (cs : List LoadCtx) (l : List HexRec) (sites : Tab (Option HexSite)) : Bool :=
  (hexLoops l).all (fun h =>
    let regs := sites.filterMap (fun e => e.2.bind (fun x => if inBody h.2 e.1 then
      some (x.load, (ctxOf cs x).bind (fun c => c.region x.ring)) else none))
    regs.all (fun e => regs.head? == some e && (match e.2 with
      | some (_, w) => decide ((rTripReg w = true ↔ h.2.attr 32 1 = 1) ∧ regionTrips w = h.2.attr 0 32)
      | none => false)))

/-- The SHPUB or SHREL records that stand at a node, by opcode and shelf. -/
def tokenSites (l : List HexRec) (sites : Tab (Option HexSite)) (c : LoadCtx) (k ring sl op sh : Nat) : List HexRec :=
  sites.filterMap (fun e => e.2.bind (fun x =>
    let r := hexAt l e.1
    if x.load = k ∧ x.ring = ring ∧ x.slot = sl ∧ r.isNode 1 ∧ r.op = op ∧
      (mnWordOf (tget 0 (c.bank.mnCfg ring sl).rows x.row)).shelf.toNat = sh then some r else none))

/-- An iteration publishes and releases as many buffers as the rates of the records of a shelf come to (R36, R135). -/
def ratesFit (cs : List LoadCtx) (l : List HexRec) (sites : Tab (Option HexSite)) : Bool :=
  cs.all (fun c => c.blocks.all (fun b => match b.item with
    | .mn r sl x => [8, 9].all (fun op => (List.range 64).all (fun sh =>
        ((c.entries r sl).filter (fun e =>
          let w := mnWordOf (tget 0 x.rows e.1)
          w.op.toNat == op && w.shelf.toNat == sh)).length ==
        ((tokenSites l sites c c.k r sl op sh).map (fun t => t.attr 40 8)).foldl (· + ·) 0))
    | _ => true))

/-- Rows and entries that no record stands for are the placer's own: XPT, COPY, NOP, DONE, MNOP, XNOP, and what a token rate above 1
repeats. -/
def restFits (cs : List LoadCtx) (sites : Tab (Option HexSite)) : Bool :=
  let at_ (k r sl m : Nat) : Bool := sites.any (fun e => e.2 == some ⟨k, r, sl, m⟩)
  cs.all (fun c => c.blocks.all (fun b => match b.item with
    | .ce r sl x => x.rows.all (fun e => [0, 1, 2, 89].contains (rowWordOf e.2).op.toNat || at_ c.k r sl e.1)
    | .mn r sl x => x.rows.all (fun e => [0, 8, 9].contains (mnWordOf e.2).op.toNat || at_ c.k r sl e.1)
    | .xn r sl x => x.rows.all (fun e => (xnWordOf e.2).op == 0 || at_ c.k r sl e.1)
    | _ => true))

/-- The placement means what the records mean: each node has one site, whose row or entry is its operation on its inputs,
and nothing else computes. -/
def placementFits (cs : List LoadCtx) (l : List HexRec) (sites : Tab (Option HexSite)) : Bool :=
  restFits cs sites && tripsFit cs l sites && ratesFit cs l sites &&
  l.zipIdx.all (fun e => e.1.raw || e.1.cls == 3 || (match tget none sites e.2 with
    | none => false
    | some x => (sites.all (fun f => f.1 == e.2 || f.2 != some x)) && (match ctxOf cs x with
      | none => false
      | some c => siteFits c x e.1 l && inputsFit c x e.1 l sites)))

/-! ### Placement (R137, R138) -/

/-- Table loads of a placement take their records from TABLES. -/
def resolveTables (tables : List Byte) (b : CfgBlock) : CfgBlock :=
  match b.item with
  | .table k r sl i o _ => { b with item := .table k r sl i o (tableRecord tables o) }
  | _ => b

/-- HXN placed for G3 on a rectangle: its blocks, or the code and the record of the failing loop. The place of a block is the
record of the loop it serves. A placement that does not mean what its records mean is none, and fails (E003; log 10). -/
def placeHexnum (e : SectionEnv) (w h : Nat) (sec tables : List Byte) : Except (Nat × Nat) (List CfgBlock) :=
  let ws := hexWords sec
  let l := hexRecs false ws
  if sec.length % 16 ≠ 0 then .error (3, 0)
  else match hexRefused l tables with
    | some (n, c) => .error (c, n)
    | none => match Config.placement w h ws with
      | .refused n c => .error (c, n)
      | .done bs sites =>
        let bs := bs.map (resolveTables tables)
        let cs := loadCtxs e bs (loadCount bs)
        match firstFailing cs with
        | some f => .error f
        | none => if placementFits cs l sites then .ok bs else .error (3, ((hexLoops l)[0]?.map (·.1)).getD 0)

end Sys2Proof.Machine
end

