-- ==== Sys2Proof/Machine/Image.lean ====
section
/-! DEFINITION. Images and their loading: the section check of R133, what runs (R137), routing (R31), TEXT, DATA and handler
tables through the launch's pages (R131, R238), the dies of a launch that starts (R15, R183, R243) or resumes (R240). -/

namespace Sys2Proof.Machine

/-! ### Reading an image (R15, R131) -/

/-- Bytes at an image offset, at most to the end of a 64 B granule at a time; `none` when the path refuses them. -/
def State.imageFrom (s : State) : Nat → Word → Nat → Option (List Byte)
  | 0, _, _ => some []
  | fuel + 1, a, n =>
    if n = 0 then some []
    else
      let k := min n (64 - a.toNat % 64)
      match s.locate 0 none a .ld true with
      | .error _ => none
      | .ok loc => match s.readLoc loc a k with
        | .error _ => none
        | .ok l => (s.imageFrom fuel (a + BitVec.ofNat 64 k) (n - k)).map (fun r => l ++ r)

/-- The bytes of the path that an image can reach (R97). -/
def imageSpace (a : Word) : Nat := if pathOf a = 9 then 2 ^ 52 else 2 ^ 40

/-- `n` bytes from offset `o` of the launch's image. -/
def State.imageBytes (s : State) (x : Launch) (o n : Nat) : Option (List Byte) :=
  let a := x.word 1
  if imageSpace a < bitsOf a 0 60 + o + n then none else s.imageFrom (n / 64 + 2) (a + BitVec.ofNat 64 o) n

/-- The header and the section table of an image. -/
structure Image where
  head : List Word
  secs : List (List Word)
  deriving DecidableEq, Repr

def Image.hw (m : Image) (n : Nat) : Word := (m.head[n]?).getD 0
def Image.textva (m : Image) : Word := m.hw 5
def Image.entry (m : Image) : Word := m.hw 2
def Image.htab (m : Image) : Word := m.hw 4
def Image.prefG2 (m : Image) : Bool := (m.hw 1).getLsbD 16
def secWord (e : List Word) (n : Nat) : Word := (e[n]?).getD 0
def secType (e : List Word) : Nat := bitsOf (secWord e 0) 0 8
def secOff (e : List Word) : Nat := (secWord e 1).toNat
def secSize (e : List Word) : Nat := (secWord e 2).toNat

/-- The section of a type. -/
def Image.sec (m : Image) (t : Nat) : Option (List Word) := m.secs.find? (fun e => secType e == t)
def Image.has (m : Image) (t : Nat) : Bool := (m.sec t).isSome

/-- The header and the section table as they stand in memory. -/
def State.image (s : State) (x : Launch) : Option Image :=
  match s.imageBytes x 0 64 with
  | none => none
  | some h =>
    let head := bytesWords 8 h
    let n := bitsOf ((head[0]?).getD 0) 48 8
    match s.imageBytes x 64 (32 * n) with
    | none => none
    | some t => some ⟨head, (chunks 32 n t).map (bytesWords 4)⟩

/-- The bytes of a section. -/
def State.section (s : State) (x : Launch) (m : Image) (t : Nat) : Option (List Byte) :=
  match m.sec t with
  | none => none
  | some e => s.imageBytes x (secOff e) (secSize e)

/-! ### The section check (R16, R133) -/

/-- Two sections share a byte. -/
def secsMeet (a b : List Word) : Bool :=
  decide (0 < secSize a ∧ 0 < secSize b ∧ secOff a < secOff b + secSize b ∧ secOff b < secOff a + secSize a)

/-- Header and table follow their layouts and the rules of R133, signature apart. -/
def Image.formOk (m : Image) (x : Launch) : Bool :=
  let w0 := m.hw 0
  let w1 := m.hw 1
  let a := x.word 1
  decide (bitsOf w0 0 32 = 0x4B425349 ∧ bitsOf w0 32 16 = 1 ∧ bitsOf w0 56 8 = 0 ∧ bitsOf w1 17 47 = 0 ∧ m.hw 6 = 0 ∧ m.hw 7 = 0) &&
  decide (1 ≤ m.secs.length ∧ m.secs.length ≤ 8) &&
  m.secs.all (fun e => decide (bitsOf (secWord e 0) 8 56 = 0 ∧ secWord e 3 = 0 ∧ 1 ≤ secType e ∧ secType e ≤ 8 ∧
    secOff e % 64 = 0 ∧ bitsOf a 0 60 + secOff e + secSize e ≤ imageSpace a)) &&
  m.secs.zipIdx.all (fun e => m.secs.zipIdx.all (fun f =>
    decide (f.2 ≤ e.2) || (secType e.1 != secType f.1 && !secsMeet e.1 f.1))) &&
  m.has 4 && (m.has 1 || m.has 2 || m.has 3) &&
  decide (bitsOf w1 0 8 = bitsOf (x.word 0) 16 8 ∧ bitsOf w1 8 8 = bitsOf (x.word 0) 24 8) &&
  decide (m.htab.toNat % 512 = 0 ∧ m.textva.toNat % 2 ^ 15 = 0 ∧ m.entry.toNat % 4 = 0) &&
  (match m.sec 4 with
   | some e => decide (m.entry.toNat < secSize e)
   | none => false)

/-- The signature, when there is one: last, 2,892 bytes, valid under an enrolled key. -/
def State.sigOk (s : State) (x : Launch) (m : Image) : Bool :=
  match m.sec 8 with
  | none => true
  | some e =>
    m.secs.all (fun f => decide (secOff f ≤ secOff e)) && decide (secSize e = 2892) &&
    (match s.imageBytes x 0 (secOff e), s.imageBytes x (secOff e) 2892 with
     | some b, some g =>
       (g.drop 68).take 4 == [0, 0, 0, 0] && s.mgmt.enrolled.contains (digestOf (g.take 68)) &&
         xmssVerifies (shake256 b) (g.take 68) (g.drop 72)
     | _, _ => false)

/-- The image verifies. -/
def State.imageOk (s : State) (x : Launch) : Bool :=
  match s.image x with
  | none => false
  | some m => m.formOk x && s.sigOk x m

/-! ### What runs (R137, R139) -/

/-- Delay of one hop of a launch. -/
def State.hopTime (s : State) (x : Launch) (h : BitVec 32) : Nat :=
  let (gx, gy) := x.coord (hopDie h)
  match s.hopLink x h with
  | some k => tget 0 s.mgmt.meshDelay k
  | none => Config.hopDelay gx gy (hopDirn h) (hopChan h)

/-- What a launch runs: profile, whether it is a placement, blocks, class. -/
structure Chosen where
  g2 : Bool
  hex : Bool
  items : List CfgBlock
  cls : Nat
  deriving DecidableEq, Repr

/-- The node capacity a launch requests, in KiB a die (R15). -/
def Launch.ncap (x : Launch) : Nat := bitsOf (x.word 4) 0 24

/-- The circuits of the items, each once. -/
def circuitsOfItems (l : List CfgBlock) : List CircuitRec :=
  l.foldl (fun r e => match e.item with
    | .circuit c => if r.contains c then r else r ++ [c]
    | _ => r) []

/-! ### Routing (R30, R31) -/

/-- The channels a circuit holds, each with one of its frame slots. -/
def State.chanSlots (s : State) (x : Launch) (c : CircuitRec) : List ((Nat × Nat × Nat × Bool × Nat) × Nat) :=
  (c.hops.foldl (fun (t : List ((Nat × Nat × Nat × Bool × Nat) × Nat) × Nat) h =>
    let (gx, gy) := x.coord (hopDie h)
    let ch := (gx, gy, hopDirn h, hopMesh h, hopChan h)
    (t.1 ++ (List.range c.nslots).map (fun i => (ch, (t.2 + i) % 256)), t.2 + s.hopTime x h)) ([], c.slot0)).1

/-- Two circuits hold one channel in one slot. -/
def State.circuitsMeet (s : State) (x : Launch) (c : CircuitRec) (y : Launch) (d : CircuitRec) : Bool :=
  (s.chanSlots x c).any (fun e => (s.chanSlots y d).contains e)

/-- An endpoint or a hop outside the rectangle. -/
def Launch.hopsOutside (x : Launch) (c : CircuitRec) : Bool :=
  decide (x.dieCount ≤ c.sdie ∨ x.dieCount ≤ c.ddie) ||
  c.hops.any (fun h => decide (x.dieCount ≤ hopDie h) ||
    (let (gx, gy) := x.coord (hopDie h)
     match hopTo (hopDirn h) gx gy with
     | none => true
     | some (px, py) => decide (px < x.gx ∨ x.gx + x.w ≤ px ∨ py < x.gy ∨ x.gy + x.h ≤ py)))

/-! ### The choice (R137) -/

/-- What the checks of a launch's image need beside its blocks. -/
def State.sectionEnv (s : State) (x : Launch) (m : Image) (g2 : Bool) : SectionEnv :=
  { g2
    tload := textHasTload ((s.section x m 4).getD [])
    ncap := x.ncap * 1024
    tablesLen := ((s.section x m 6).getD []).length
    dies := x.dieCount
    hop := s.hopTime x
    meet := fun c d => s.circuitsMeet x c x d
    outside := x.hopsOutside }

/-- The native section of a profile, checked: its blocks, or the code and place of the first failing check. A G2 run offers
450,560 KiB a die (R44). -/
def State.native (s : State) (x : Launch) (m : Image) (g2 : Bool) : Option (Except (Nat × Nat) (List CfgBlock)) :=
  (s.section x m (if g2 then 2 else 3)).map (fun b =>
    match checkSection (s.sectionEnv x m g2) b ((s.section x m 6).getD []) with
    | .error e => .error e
    | .ok l => if g2 ∧ 450560 < x.ncap then .error (120, 0) else .ok l)

/-- The first step of R137 that applies, or DETAIL of the last one attempted. -/
def State.choose (s : State) (x : Launch) (m : Image) : Except Word Chosen :=
  let n2 := s.native x m true
  let n3 := s.native x m false
  let last : Except Word Chosen := match n2, n3 with
    | some (.ok l), _ => .ok ⟨true, false, l, classOf l⟩
    | some (.error (c, p)), _ => .error (loaderDetail 2 p c)
    | none, some (.error (c, p)) => .error (loaderDetail 2 p c)
    | none, _ => .error (loaderDetail 4 4 0)
  match m.prefG2, n2, n3 with
  | true, some (.ok l), _ => .ok ⟨true, false, l, classOf l⟩
  | _, _, some (.ok l) => .ok ⟨false, false, l, classOf l⟩
  | _, _, _ => match s.section x m 1 with
    | some b => match placeHexnum (s.sectionEnv x m false) x.w x.h b ((s.section x m 6).getD []) with
      | .ok l => .ok ⟨false, true, l, classOf l⟩
      | .error (c, p) => .error (loaderDetail 3 p c)
    | none => last

/-- The least circuit number among some. -/
def firstCircuit (l : List CircuitRec) : Option Nat := (l.map (·.cnum)).min?

/-- The routing checks: DETAIL of the first circuit that fails. -/
def State.routing (s : State) (l : Nat) : Option Word :=
  let x := s.launch l
  let others := (s.launches.filter (fun e => e.1 != l && (e.2.phase == .running || e.2.phase == .stopping))).map (·.2)
  let bad := x.circuits.filter (fun c =>
    x.circuits.any (fun d => d != c && s.circuitsMeet x c x d) || others.any (fun y => y.circuits.any (fun d => s.circuitsMeet x c y d)))
  match firstCircuit bad with
  | some n => some (loaderDetail 1 n 130)
  | none => (firstCircuit (x.circuits.filter x.hopsOutside)).map (fun n => loaderDetail 1 n 131)

/-! ### Writing through the launch's pages (R131, R238) -/

/-- Where a GEN address of a launch lies, when its leaf grants `rights`; else PAGE or ACCESS. -/
def State.loaderLoc (s : State) (l d : Nat) (a : Word) (rights : List Nat) : Except Nat Loc :=
  let x := s.launch l
  if bitsOf a 48 16 ≠ 0 then .error tACCESS
  else match s.walk (x.word 2) (bitsOf a 0 48) with
    | .error c => .error c
    | .ok (e, lvl) =>
      if !(rights.all (fun b => e.getLsbD b)) then .error tACCESS
      else s.physLoc d x (leafAddr e lvl (bitsOf a 0 48)) (bitsOf e 10 10) false

/-- Bytes written by the loader from an address; the trap and the first failing address otherwise. -/
def State.loaderPut (s : State) (l d : Nat) (rights : List Nat) : Nat → Word → List Byte → Except (Nat × Word) State
  | 0, _, _ => .ok s
  | fuel + 1, a, b =>
    if b.isEmpty then .ok s
    else
      let k := min b.length (64 - a.toNat % 64)
      match s.loaderLoc l d a rights with
      | .error c => .error (c, a)
      | .ok loc => (s.writeLoc loc (b.take k)).loaderPut l d rights fuel (a + BitVec.ofNat 64 k) (b.drop k)

def State.loaderWrite (s : State) (l d : Nat) (rights : List Nat) (a : Word) (b : List Byte) : Except (Nat × Word) State :=
  s.loaderPut l d rights (b.length / 64 + 2) a b

/-- Several pieces. -/
def State.loaderWrites (s : State) (l d : Nat) (rights : List Nat) : List (Word × List Byte) → Except (Nat × Word) State
  | [] => .ok s
  | (a, b) :: t => match s.loaderWrite l d rights a b with
    | .error e => .error e
    | .ok s => s.loaderWrites l d rights t

/-! ### The dies (R15, R183, R234, R238, R243) -/

/-- Every node of a die is zeroed. -/
def State.zeroDie (s : State) (d : Nat) : State :=
  let out (k : Nat) : Bool := k / 2 ^ 31 != d
  { s with mem := s.mem.filter (fun e => out e.1), poison := s.poison.filter (fun e => out e.1) }

/-- Nodes of dies whose last launch had another key domain are zeroed before anything is written (R243). -/
def State.zeroForeign (s : State) (l : Nat) : State :=
  let x := s.launch l
  (s.localDies x).foldl (fun s e =>
    let y := s.die e.2
    let s := if y.lastKeydom ≠ 0 ∧ y.lastKeydom ≠ x.keydom then s.zeroDie e.2 else s
    s.setDie e.2 { s.die e.2 with lastKeydom := x.keydom }) s

/-- HTAB of launch die `i` (R238). -/
def htabOf (base : Word) (i : Nat) : Word := if base = 0 then 0 else (base + BitVec.ofNat 64 (512 * i)) &&& maskHtab

/-- A core about to start: the arguments in a1 to a8, K mode, at the entry. -/
def Launch.startCore (x : Launch) (c : Core) (i : Nat) : Core :=
  { c.setN 1 ((List.range 8).map (fun k => x.word (7 + k))) with
    pc := x.textva + x.entry
    smode := false
    htab := htabOf x.htab i
    ptbase := x.word 2 &&& maskPtbase
    diex := BitVec.ofNat 64 (i % x.w)
    diey := BitVec.ofNat 64 (i / x.w)
    dien := BitVec.ofNat 64 i
    running := true
    halted := false
    wait := .none
    evq := []
    tokIn := []
    slots := 0xFF
    pbars := 0
    colls := 0
    collArgs := (0, 0)
    cfgl := false
    dcache := []
    ccache := []
    stq := []
    stSeq := 0
    early := []
    fences := []
    deferred := none
    stallAt := none }

/-- A die about to start: load 0 active, load 1 in the shadow set (R183). -/
def Launch.startDie (x : Launch) (l : Nat) (y : Die) (i : Nat) : Die :=
  let act := ({} : Bank).install x 0
  { launch := some l
    lastKeydom := y.lastKeydom
    g2 := x.g2
    core := x.startCore y.core i
    act
    shd := if x.hasLoad 1 then ({} : Bank).install x 1 else {}
    xns := act.xn.foldl (fun t e => tset {} t e.1 (({} : Xn).reload e.2)) []
    engines := y.engines.foldl (fun t e => tset {} t e.1 e.2.idle) [] }

/-- The first start of an admitted launch; the trap, FADDR and DETAIL of what fails. DESIGN CHOICE (log 23): a start that fails
at a page leaves the bytes of the pages before it unwritten; R131 does not say. -/
def State.firstStart (s : State) (l : Nat) : Except (Nat × Word × Word) State :=
  let x := s.launch l
  let d := ((s.localDies x).map (·.2)).headD 0
  match s.image x with
  | none => .error (tSCHED, 0, loaderDetail 4 4 0)
  | some m => match s.choose x m with
    | .error w => .error (tSCHED, 0, w)
    | .ok c =>
      let x : Launch := { x with
        g2 := c.g2, hex := c.hex, cls := c.cls, items := c.items, circuits := circuitsOfItems c.items
        entry := m.entry, textva := m.textva, htab := m.htab }
      let s := s.setLaunch l { x with cls := 0 }
      match s.routing l with
      | some w => .error (tSCHED, 0, w)
      | none =>
        let text := (s.section x m 4).getD []
        let tables := if m.htab = 0 then [] else (List.range x.dieCount).map (fun i => (htabOf m.htab i, List.replicate 512 (0 : Byte)))
        let data := match s.section x m 5 with
          | some b => Config.dataPieces b
          | none => []
        match s.loaderWrite l d [3, 1, 4] x.textva text with
        | .error e => .error (e.1, e.2, 0)
        | .ok s => match s.loaderWrites l d [1, 2, 4] tables with
          | .error e => .error (e.1, e.2, 0)
          | .ok s => match s.loaderWrites l d [] data with
            | .error e => .error (e.1, e.2, 0)
            | .ok s =>
              let s := (s.localDies x).foldl (fun s e => s.setDie e.2 (x.startDie l (s.die e.2) e.1)) s
              let s := s.setLaunch l { x with phase := .running }
              .ok ((s.localDies x).foldl (fun s e => s.activateLoad e.2) s)

/-! ### Save and resume (R88, R191, R192, R240) -/

/-- A byte of a node lies in a valid shelf of a set, discardable or not. -/
def Bank.inShelf (b : Bank) (disc : Bool) (ring node off : Nat) : Bool :=
  (b.mnCfg ring (slotOfNode node)).shelf.any (fun e =>
    shValid e.2 && shDisc e.2 == disc && decide (shBase e.2 ≤ off ∧ off < shBase e.2 + shDepth e.2 * shBytes e.2))

/-- A byte of a node lies in the launch's declared set: a range of any load of the image (R249). -/
def Launch.declares (x : Launch) (ring node off : Nat) : Bool :=
  x.items.any (fun e => match e.item with
    | .declared r => decide (r.ring = ring ∧ r.node = node ∧ r.lo ≤ off ∧ off < r.lo + r.len)
    | _ => false)

/-- A byte lies in a valid shelf of the running load or of the load prefetched after it, which keeps the running one's shelves
where it names no block for the node (R134). -/
def Die.inShelf (x : Die) (disc : Bool) (ring node off : Nat) : Bool :=
  x.act.inShelf disc ring node off ||
    (!x.shd.stale && (x.shd.mnCfg ring (slotOfNode node)).named && x.shd.inShelf disc ring node off)

/-- A byte that only discardable shelves hold; it returns as zero (R88, R240). -/
def Die.discards (x : Die) (ring node off : Nat) : Bool :=
  x.inShelf true ring node off && !x.inShelf false ring node off

/-- A byte that the save covers. -/
def Die.covers (x : Die) (y : Launch) (k : Nat) : Bool :=
  let ring := k / 2 ^ 25 % 64
  let node := k / 2 ^ 21 % 16
  let off := k % 2 ^ 21
  x.inShelf true ring node off || x.inShelf false ring node off || y.declares ring node off

def Die.keeps (x : Die) (y : Launch) (k : Nat) : Bool :=
  x.covers y k && !x.discards (k / 2 ^ 25 % 64) (k / 2 ^ 21 % 16) (k % 2 ^ 21)

/-- Tags of discardable shelves return as 0xFFFF; FULL bits and counts stay. -/
def Bank.untag (b : Bank) : Bank :=
  { b with bufs := b.bufs.foldl (fun t e =>
      if shDisc (tget 0 (tget {} b.mn (e.1 / 64)).shelf (e.1 % 64)) then tset {} t e.1 ({ e.2 with tags := [] } : ShelfSt)
      else tset {} t e.1 e.2) [] }

/-- What the save keeps of a die: no cache, no TLB, no freeze. -/
def Die.forSave (x : Die) : Die :=
  { x with
    act := x.act.untag
    shd := x.shd.untag
    regs := x.regs.foldl (fun t e => tset {} t e.1 ({ e.2 with frz := none } : Region)) []
    engines := x.engines.foldl (fun t e => tset {} t e.1 ({ e.2 with tlb := [] } : Engine)) []
    vcache := []
    tlb := []
    core := { x.core with dcache := [], ccache := [], early := [] } }

/-- The launch's dies, bytes and KEEP rows. -/
def State.savedOf (s : State) (l : Nat) : Saved :=
  let x := s.launch l
  let dies := s.localDies x
  let at_ (k : Nat) : Option Nat :=
    if spaceOf k = 0 then (dies.find? (fun e => e.2 == k / 2 ^ 31 && (s.die e.2).keeps x k)).map (fun e => e.1 * 2 ^ 31 + k % 2 ^ 31) else none
  { dies := dies.map (fun e => (e.1, (s.die e.2).forSave))
    bytes := s.mem.filterMap (fun e => (at_ e.1).map (fun k => (k, e.2)))
    poison := s.poison.filterMap (fun e => at_ e.1)
    rows := (s.stackTab.map (fun e => e.2.drawers.filterMap (fun f =>
      match f.2.row with
      | some r => if f.2.owner = l ∧ f.2.keep then some (e.1, f.1, r) else none
      | none => none))).flatten }

/-- KEEP drawers are written back and keep their slots; the others are freed. -/
def Drawer.parked (x : Drawer) : Drawer := if x.keep then { x with resv := true, evicted := false } else x.freed

/-- The save itself: the dies are free, the launch heads its queue again. -/
def State.save (s : State) (l : Nat) : State :=
  let saved := s.savedOf l
  let x := s.launch l
  let s := (s.mapDrawers l Drawer.parked).releaseDies l
  let s := s.setLaunch l { x with phase := .saved, preemptor := none, saved := some saved, precnt := x.precnt + 1, since := s.cycle }
  let q := s.queue x.queue
  s.setQueue x.queue { q with items := l :: q.items }

/-- Bytes of the save on the new dies; what the save gives up there reads as zero. -/
def State.restoreBytes (s : State) (l : Nat) (v : Saved) : State :=
  let x := s.launch l
  let dies := s.localDies x
  let gone (k : Nat) : Bool := spaceOf k == 0 && (match dies.find? (fun e => e.2 == k / 2 ^ 31) with
    | some e => v.dies.any (fun f => f.1 == e.1 && f.2.covers x k)
    | none => false)
  let dest (k : Nat) : Option Nat := (dies.find? (fun e => e.1 == k / 2 ^ 31)).map (fun e => e.2 * 2 ^ 31 + k % 2 ^ 31)
  let s : State := { s with mem := s.mem.filter (fun e => !gone e.1), poison := s.poison.filter (fun e => !gone e.1) }
  let s := v.bytes.foldl (fun s e => match dest e.1 with
    | some k => s.setByte k e.2
    | none => s) s
  v.poison.foldl (fun (s : State) k => match dest k with
    | some k => { s with poison := tset false s.poison k true }
    | none => s) s

/-- Derived regions rebuilt from the restored base; DOVF stays set (R163). -/
def State.rebuildDerivs (s : State) (d : Nat) : State :=
  (s.die d).derivs.foldl (fun s e =>
    match e.2 with
    | none => s
    | some x =>
      let ring := e.1 / 128
      let node := e.1 / 8 % 16
      s.setDeriv d ring node (e.1 % 8) (some { x with
        undo := []
        dovf := x.dovf || (!x.building && x.overflows (fun o => s.nodeView d ring node [] o)) })) s

/-- KEEP drawers reopened in their slots (R192). -/
def State.reopen (s : State) (v : Saved) : State :=
  v.rows.foldl (fun s e =>
    let x := s.stack e.1
    let y := tget ({} : Drawer) x.drawers e.2.1
    s.setStack e.1 { x with drawers := tset {} x.drawers e.2.1 { y with row := some e.2.2, resv := false } }) s

/-- The engine of the new die with the commands of the save: its count runs on since start-up (R201); the states that the
save's tickets name come back, and go before the engine's own of the same count (log 22). -/
def Engine.resumed (now was : Engine) : Engine :=
  { now with
    cmds := was.cmds
    hist := (was.hist ++ now.hist.filter (fun h => !(was.hist.any (fun g => g.1 == h.1)))).take 256
    tlb := [] }

/-- A saved launch resumes on its new dies. -/
def State.resume (s : State) (l : Nat) (v : Saved) : Except (Nat × Word × Word) State :=
  let x := s.launch l
  match s.routing l with
  | some w => .error (tSCHED, 0, w)
  | none =>
    let s := s.restoreBytes l v
    let s := (s.localDies x).foldl (fun s e =>
      match v.dies.find? (fun f => f.1 == e.1) with
      | none => s
      | some (_, y) => s.setDie e.2 { y with
          launch := some l
          lastKeydom := x.keydom
          engines := (List.range 16).foldl (fun t n =>
            tset {} t n ((tget ({} : Engine) (s.die e.2).engines n).resumed (tget ({} : Engine) y.engines n))) []
          core := { y.core with htab := htabOf x.htab e.1 } }) s
    let s := (s.localDies x).foldl (fun s e => s.rebuildDerivs e.2) s
    .ok ((s.reopen v).setLaunch l { x with phase := .running, saved := none })

end Sys2Proof.Machine
end

