-- ==== Sys2Proof/Machine/EvSched.lean ====
section
/-! DEFINITION. Device steps of the launch scheduler: acceptance and check of records (R14, R16), passes, ageing and
pre-emption (R42 to R45), gangs (R46, R47), starts, saves and ends of launches (R31, R45, R241, R296). -/

namespace Sys2Proof.Machine

/-! ### Records (R13 to R16) -/

/-- The sixteen words of a record slot. -/
def State.recordAt (s : State) (q slot : Nat) : List Word :=
  bytesWords 16 (s.bytes (mmioKey (q * 0x4000 + slot * 0x80)) 128)

/-- LAUNCH_RECORD_ACCEPTANCE (R14). -/
def execLaunchRecordAcceptance (q : Nat) (s : State) : Out :=
  let x := s.queue q
  let w := s.recordAt q (x.nextseq.toNat % 64)
  if q < 16 ∧ x.qstate = 1 ∧ x.nextseq ≠ 0 ∧ w[15]? = some x.nextseq then
    let l := s.nLaunch
    let s := s.setQueue q { x with nextseq := x.nextseq + 1, consumed := x.consumed + 1, items := x.items ++ [l] }
    let s := s.setLaunch l { words := w, queue := q, prio := bitsOf ((w[0]?).getD 0) 8 2, since := s.cycle,
                             w := bitsOf ((w[0]?).getD 0) 16 8, h := bitsOf ((w[0]?).getD 0) 24 8 }
    .next { s with nLaunch := l + 1, mgmt := { s.mgmt with passDue := true } }
  else .next s

/-- Reserved fields, zero fields, paths of a record (status 0x02). -/
def Launch.formBad (x : Launch) : Bool :=
  let w0 := x.word 0
  let crec := x.word 5
  decide (bitsOf w0 0 8 ≠ 1 ∨ bitsOf w0 59 5 ≠ 0 ∨ bitsOf w0 34 14 ≠ 0 ∨ bitsOf w0 10 6 ≠ 0 ∨ bitsOf (x.word 2) 52 12 ≠ 0 ∨
    bitsOf (x.word 2) 0 12 ≠ 0 ∨ bitsOf (x.word 4) 34 30 ≠ 0 ∨ bitsOf (x.word 6) 32 32 ≠ 0 ∨ x.w = 0 ∨ x.h = 0 ∨ x.keydom = 0 ∨
    (pathOf (x.word 1) ≠ 6 ∧ pathOf (x.word 1) ≠ 9) ∨ crec.toNat % 64 ≠ 0 ∨ pathOf crec ≠ 9 ∨ bitsOf crec 52 8 ≠ 0)

def Launch.gang (x : Launch) : Bool := (x.word 0).getLsbD 32

/-! ### Rectangles (R29, R44, R47) -/

/-- The dies of this package in a rectangle, as physical dies. -/
def State.rectDies (s : State) (x : Launch) (o : Nat × Nat) : List Nat :=
  (s.localDies { x with gx := o.1, gy := o.2 }).map (·.2)

/-- Every mesh link between two dies of a rectangle, as far as it ends in this package, is up (R18). -/
def State.linksUp (s : State) (x : Launch) (o : Nat × Nat) : Bool :=
  let here (p : Nat × Nat) : Bool := decide (p.1 / 2 = s.mgmt.pkgX ∧ p.2 / 4 = s.mgmt.pkgY)
  let inside (p : Nat × Nat) : Bool := decide (o.1 ≤ p.1 ∧ p.1 < o.1 + x.w ∧ o.2 ≤ p.2 ∧ p.2 < o.2 + x.h)
  (s.rectDies x o).all (fun d =>
    let gx := 2 * s.mgmt.pkgX + d % 2
    let gy := 4 * s.mgmt.pkgY + d / 2
    (List.range 4).all (fun dirn => match hopTo dirn gx gy with
      | none => true
      | some p => here p || !inside p ||
          (List.range 2).all (fun c => s.mgmt.meshUp.getLsbD (meshLink dirn (d % 2) (d / 2) c))))

/-- The candidate origins of a launch in first-fit order. -/
def State.origins (s : State) (x : Launch) : List (Nat × Nat) :=
  let m := s.mgmt
  let (x0, y0, x1, y1) : Nat × Nat × Nat × Nat :=
    if x.gang then (0, 0, 2 * m.meshW, 4 * m.meshH) else (2 * m.pkgX, 4 * m.pkgY, 2 * m.pkgX + 2, 4 * m.pkgY + 4)
  ((List.range (y1 - y0)).flatMap (fun j => (List.range (x1 - x0)).map (fun i => (x0 + i, y0 + j)))).filter (fun o =>
    decide (o.1 + x.w ≤ x1 ∧ o.2 + x.h ≤ y1) && !(s.rectDies x o).isEmpty && s.linksUp x o)

/-- LAUNCH_RECORD_CHECK (R16): the first failing check gives the status. A DRW byte never exceeds the pool of 255. -/
def State.recordStatus (s : State) (l : Nat) : Option Nat :=
  let x := s.launch l
  if x.formBad then some 2
  else if (s.origins x).isEmpty then some 3
  else if 2097152 < bitsOf (x.word 4) 0 24 then some 4
  else if !s.imageOk x then some 5
  else none

def execLaunchRecordCheck (l : Nat) (s : State) : Out :=
  let x := s.launch l
  if x.phase = .accepted ∧ l < s.nLaunch then
    match s.recordStatus l with
    | some n => .next (s.endLaunch l n 0 0 false)
    | none =>
      let s := s.setLaunch l { x with phase := .queued }
      .next { s with mgmt := { s.mgmt with passDue := true } }
  else .next s

/-! ### Ageing (R43) -/

/-- The launch waits and has not risen yet. -/
def Launch.mayAge (x : Launch) (now limit : Nat) : Bool :=
  (x.phase == .queued || x.phase == .saved || x.phase == .asking || x.phase == .accepted) && !x.aged && decide (x.since + limit ≤ now)

/-- PRIORITY_AGING (R43). -/
def execPriorityAging (l : Nat) (s : State) : Out :=
  let x := s.launch l
  if x.mayAge s.cycle s.mgmt.ageInUse.toNat ∧ l < s.nLaunch then
    let s := s.setLaunch l { x with aged := true, prio := min 3 (x.prio + 1) }
    .next { s with mgmt := { s.mgmt with passDue := true } }
  else .next s

/-! ### Resources (R44, R45, R188, R192) -/

/-- KEEP drawers of a launch on a stack. -/
def State.keepCount (s : State) (l st : Nat) : Nat :=
  ((s.stack st).drawers.filter (fun e => e.2.used && e.2.owner == l && e.2.keep)).length

def sumOf (l : List Nat) : Nat := l.foldl (· + ·) 0

/-- Drawers granted on a stack when some launches are removed: of those that hold or have asked for dies, and the reserved
slots of saved and removed ones. -/
def State.granted (s : State) (self st : Nat) (removed : List Nat) : Nat :=
  sumOf (s.launches.map (fun e =>
    if e.1 = self then 0
    else if (e.2.phase.holds || e.2.phase == .asking) && !removed.contains e.1 then e.2.drw st
    else if e.2.phase == .saved || removed.contains e.1 then s.keepCount e.1 st
    else 0))

/-- The same after the pre-emptions under way: victims saved, their pre-emptors in place. -/
def State.grantedNext (s : State) (self st : Nat) (removed : List Nat) : Nat :=
  let gone := removed ++ (s.launches.filter (fun e => e.2.phase == .stopping)).map (·.1)
  s.granted self st gone + sumOf (s.launches.map (fun e => if e.1 ≠ self ∧ e.2.resv then e.2.drw st else 0))

/-- Dies that are not free for a launch when some are removed. -/
def State.takenDies (s : State) (self : Nat) (removed : List Nat) : List Nat :=
  (s.launches.filter (fun e => e.1 != self && !removed.contains e.1 && (e.2.phase.holds || e.2.phase == .asking || e.2.resv))).flatMap
    (fun e => (s.localDies e.2).map (·.2)) ++ s.mgmt.granted.map (·.2) ++ s.mgmt.pending.flatMap (·.2)

/-- Dies and drawers are free. Node capacity is free on every free die (R44). -/
def State.fits (s : State) (self : Nat) (dies : List Nat) (drw : Nat → Nat) (removed : List Nat) : Bool :=
  let taken := s.takenDies self removed
  dies.all (fun d => !taken.contains d) &&
  (List.range 8).all (fun st => decide (max (s.granted self st removed) (s.grantedNext self st removed) + drw st ≤ 255))

/-- Other packages' part of an origin is free, as their schedulers say (log 13). -/
def State.remoteFree (s : State) (x : Launch) (o : Nat × Nat) (i : Nat) : Bool :=
  decide ((s.rectDies x o).length = x.dieCount) || Config.freeBit (s.freeCtr + i)

/-- The first origin that fits. -/
def State.firstFit (s : State) (l : Nat) : Option (Nat × Nat) :=
  let x := s.launch l
  ((s.origins x).zipIdx.find? (fun e => s.fits l (s.rectDies x e.1) x.drw [] && s.remoteFree x e.1 e.2)).map (·.1)

/-! ### Pre-emption (R45) -/

def subsets : List Nat → List (List Nat)
  | [] => [[]]
  | a :: t => let r := subsets t; r ++ r.map (fun l => a :: l)

/-- Running launches of lower priority. -/
def State.victims (s : State) (p : Nat) : List Nat :=
  (s.launches.filter (fun e => e.2.phase == .running && decide (e.2.prio < p))).map (·.1)

/-- The sets whose removal frees some dies and the drawers. -/
def State.removals (s : State) (self p : Nat) (dies : List Nat) (drw : Nat → Nat) : List (List Nat) :=
  (subsets (s.victims p)).filter (fun r => !r.isEmpty && s.fits self dies drw r)

/-- The key of a removal at an origin: highest priority removed, number removed, place of the origin. -/
def State.removalKey (s : State) (i : Nat) (r : List Nat) : Nat × Nat × Nat :=
  ((r.map (fun v => (s.launch v).prio)).foldl max 0, r.length, i)

def keyLess (a b : Nat × Nat × Nat) : Bool :=
  decide (a.1 < b.1 ∨ (a.1 = b.1 ∧ (a.2.1 < b.2.1 ∨ (a.2.1 = b.2.1 ∧ a.2.2 < b.2.2))))

/-- The best among some (key, value); the spec does not choose among equals, so the free number does (log 23). -/
def bestOf {α : Type} (n : Nat) (l : List ((Nat × Nat × Nat) × α)) : Option α :=
  let top := l.filter (fun e => l.all (fun f => !keyLess f.1 e.1))
  (top[n % max top.length 1]?).map (·.2)

/-- Victims stop admitting tile tasks. -/
def State.stopVictims (s : State) (r : List Nat) (by_ : Option Nat) : State :=
  r.foldl (fun s v => s.setLaunch v { s.launch v with phase := .stopping, preemptor := by_ }) s

/-- The removal a head starts: its origin and victims. -/
def State.preempt (s : State) (l : Nat) : Option ((Nat × Nat) × List Nat) :=
  let x := s.launch l
  bestOf (Config.freeNat s.freeCtr) ((s.origins x).zipIdx.flatMap (fun e =>
    if s.remoteFree x e.1 e.2 then
      (s.removals l x.prio (s.rectDies x e.1) x.drw).map (fun r => (s.removalKey e.2 r, (e.1, r)))
    else []))

/-! ### Passes (R42) -/

/-- The round robin goes on after the queue of a launch. -/
def State.served (s : State) (l : Nat) : State := { s with mgmt := { s.mgmt with rr := ((s.launch l).queue + 1) % 16 } }

/-- A launch takes its rectangle; one that covers other packages asks them first (R47). -/
def State.takeRect (s : State) (l : Nat) (o : Nat × Nat) : State :=
  let s := s.served l
  let x := s.launch l
  let y : Launch := { x with gx := o.1, gy := o.2, resv := false, grants := [] }
  if s.isLocal y then
    let s := s.setLaunch l { y with phase := .admitted }
    let q := s.queue x.queue
    s.setQueue x.queue { q with items := q.items.filter (fun k => k != l) }
  else s.setLaunch l { y with phase := .asking }

/-- Requests of other packages whose dies no launch holds any more are granted (R47). -/
def State.grantPending (s : State) : State :=
  let held := (s.launches.filter (fun e => e.2.phase.holds)).flatMap (fun e => (s.localDies e.2).map (·.2))
  let free (e : Nat × List Nat) : Bool := e.2.all (fun d => !held.contains d)
  let (now, later) := s.mgmt.pending.partition free
  { s with mgmt := { s.mgmt with
      granted := s.mgmt.granted ++ now.flatMap (fun e => e.2.map (fun d => (e.1, d)))
      pending := later } }

/-- Requests and pre-emptors whose victims are all gone are granted and admitted. -/
def State.settleReserved (s : State) : State :=
  let s := s.grantPending
  s.launches.foldl (fun s e =>
    let x := s.launch e.1
    if x.resv && (x.phase == .queued || x.phase == .saved) &&
        !s.launches.any (fun f => f.2.phase == .stopping && f.2.preemptor == some e.1) then s.takeRect e.1 (x.gx, x.gy) else s) s

/-- The heads to consider, in round-robin order from `rr`. -/
def State.heads (s : State) : List Nat :=
  (List.range 16).filterMap (fun k => match (s.queue ((s.mgmt.rr + k) % 16)).items with
    | l :: _ =>
      let x := s.launch l
      if (x.phase = .queued ∨ x.phase = .saved) ∧ !x.resv then some l else none
    | [] => none)

/-- A head is admitted or starts a pre-emption. -/
def State.tryHead (s : State) (l : Nat) : Option State :=
  let x := s.launch l
  let s := s.served l
  match s.firstFit l with
  | some o => some (s.takeRect l o)
  | none => match s.preempt l with
    | none => none
    | some (o, r) => some (({ s with freeCtr := s.freeCtr + 1 } : State).setLaunch l { x with gx := o.1, gy := o.2, resv := true } |>.stopVictims r (some l))

/-- One round over the heads, priority 3 down to 0. -/
def State.passRound (s : State) : Option State :=
  ([3, 2, 1, 0].flatMap (fun p => s.heads.filter (fun l => (s.launch l).prio == p))).findSome? s.tryHead

/-- Rounds until one admits nothing and starts no pre-emption. -/
def State.passFrom : Nat → State → State
  | 0, s => s
  | fuel + 1, s => match s.passRound with
    | some s' => State.passFrom fuel s'
    | none => s

/-- SCHEDULER_PASS (R42). -/
def execSchedulerPass (s : State) : Out :=
  if s.mgmt.passDue ∧ s.mgmt.powered then
    let s : State := { s with mgmt := { s.mgmt with passDue := false, ageInUse := s.mgmt.ageLimit } }
    let s := s.settleReserved.passFrom 64
    .next { s with freeCtr := s.freeCtr + 4096 }
  else .next s

/-! ### Gangs (R46, R47) -/

/-- The other packages a launch covers. -/
def State.otherPackages (s : State) (x : Launch) : List Nat :=
  ((List.range x.dieCount).filterMap (fun i =>
    let (gx, gy) := x.coord i
    if gx / 2 = s.mgmt.pkgX ∧ gy / 4 = s.mgmt.pkgY then none else some (gx / 2 * 16 + gy / 4))).eraseDups

/-- GANG_GRANT (R47). -/
def execGangGrant (l pkg : Nat) (ok : Bool) (s : State) : Out :=
  let x := s.launch l
  if x.phase = .asking ∧ (s.otherPackages x).contains pkg then
    let back : Phase := if x.saved.isSome then .saved else .queued
    if !ok then .next (s.setLaunch l { x with phase := back, grants := [] })
    else
      let g := x.grants.filter (fun e => e.1 != pkg) ++ [(pkg, true)]
      if (s.otherPackages x).all (fun p => g.any (fun e => e.1 == p)) then
        let s := (s.served l).setLaunch l { x with phase := .admitted, grants := g }
        let q := s.queue x.queue
        .next (s.setQueue x.queue { q with items := q.items.filter (fun k => k != l) })
      else .next (s.setLaunch l { x with grants := g })
  else .next s

/-- GANG_DIE_REQUEST (R47): a rectangle of this package's dies, at package coordinates, for a launch of another package.
The dies are granted, or reserved until the victims that hold them are saved, or refused. An empty rectangle gives every
grant back. -/
def execGangDieRequest (pkg prio x y wd ht : Nat) (s : State) : Out :=
  if wd = 0 ∨ ht = 0 then
    .next { s with mgmt := { s.mgmt with
      granted := s.mgmt.granted.filter (fun e => e.1 != pkg)
      pending := s.mgmt.pending.filter (fun e => e.1 != pkg)
      passDue := true } }
  else if 2 < x + wd ∨ 4 < y + ht then .next s
  else
    let dies := (List.range ht).flatMap (fun j => (List.range wd).map (fun i => 2 * (y + j) + x + i))
    let grant (s : State) : State := { s with mgmt := { s.mgmt with granted := s.mgmt.granted ++ dies.map (fun d => (pkg, d)) } }
    let reserve (s : State) : State := { s with mgmt := { s.mgmt with pending := s.mgmt.pending ++ [(pkg, dies)] } }
    let none_ (_ : Nat) : Nat := 0
    if s.fits s.nLaunch dies none_ [] then .next (grant s)
    else match bestOf (Config.freeNat s.freeCtr) ((s.removals s.nLaunch prio dies none_).map (fun r => (s.removalKey 0 r, r))) with
      | none => .next s
      | some r => .next (reserve (({ s with freeCtr := s.freeCtr + 1 } : State).stopVictims r none))

/-! ### Starts, saves, ends -/

/-- LAUNCH_START (R31). -/
def execLaunchStart (l : Nat) (s : State) : Out :=
  let x := s.launch l
  if x.phase = .admitted then
    let s := s.zeroForeign l
    match (match x.saved with
      | some v => s.resume l v
      | none => s.firstStart l) with
    | .ok s => .next s
    | .error (code, faddr, detail) => .next (s.refuse l code faddr detail)
  else .next s

/-- The core stands between two instructions, or in one that R241 saves and executes again. -/
def Core.atBoundary (c : Core) : Bool :=
  match c.wait with
  | .drain => false
  | .drained _ => false
  | .ddecl => false
  | .ddrop => false
  | _ => true

/-- Every die of a victim may be saved: its regions stand at tile-task boundaries, its tokens have completed, its bound
streams, circuits and commands have drained (R45, R240, R241). -/
def State.savable (s : State) (l : Nat) : Bool :=
  let x := s.launch l
  decide (x.phase = .stopping) && x.faults.isEmpty && x.transit.isEmpty && (s.isLocal x || Config.remoteReady s.cycle l) &&
  (s.localDies x).all (fun e =>
    let y := s.die e.2
    y.token.isNone && y.core.stq.isEmpty && !s.stale.any (fun g => g.die == e.2) && y.core.deferred.isNone &&
    y.core.tokIn.isEmpty && !s.baseBusy e.2 && y.core.atBoundary &&
    y.derivs.all (fun g => match g.2 with
      | some v => !v.building
      | none => true) &&
    y.regions.all (fun r => (y.reg r.1).finished r.2 && (y.reg r.1).fstop.isNone && (y.reg r.1).pipe.isEmpty) &&
    y.engines.all (fun g => g.2.cmds.all (fun c => decide (c.kind < 3) && !c.started)) &&
    y.xns.all (fun g => g.2.cmds.isEmpty && g.2.flight.isEmpty))

/-- LAUNCH_SAVE (R45): the save, then the pre-emptor's admission when it was the last victim. -/
def execLaunchSave (l : Nat) (s : State) : Out :=
  if s.savable l then
    let s := (s.save l).settleReserved
    .next { s with mgmt := { s.mgmt with passDue := true } }
  else .next s

/-- Steps 1 to 5 of the token have run on a die whose launch ends, with no further tile task (R296). -/
def State.dieEnded (s : State) (d : Nat) : Bool :=
  let y := s.die d
  y.regions.all (fun e =>
    let r := y.reg e.1
    !r.run || (decide (r.enables = 0) && r.finished e.2)) &&
  y.derivsQuiet s.cycle && s.quietDie d && y.engines.all (fun e => e.2.cmds.isEmpty)

/-- LAUNCH_END (R296). -/
def execLaunchEnd (l : Nat) (s : State) : Out :=
  let x := s.launch l
  if (x.phase = .running ∨ x.phase = .stopping) ∧ x.faults.isEmpty ∧ s.allHalted l ∧ x.transit.isEmpty ∧
      (s.localDies x).all (fun e => s.dieEnded e.2) then .next (s.endLaunch l 1 0 0 true)
  else .next s

end Sys2Proof.Machine
end

