-- ==== Sys2Proof/Machine/Dispatch.lean ====
section
/-! DEFINITION. The meaning of every instruction and device step: one arm per constructor of `Instr`. -/

namespace Sys2Proof.Machine

def exec (i : Instr) (s : State) : Host.Outcome State Fault Refusal :=
  match i with
  | .nop => Sys2Proof.Machine.execNop s
  | .copy a d p => Sys2Proof.Machine.execCopy a d p s
  | .xpt a c d p => Sys2Proof.Machine.execXpt a c d p s
  | .sel a b d v => Sys2Proof.Machine.execSel a b d v s
  | .bcst a c d p m => Sys2Proof.Machine.execBcst a c d p m s
  | .shuf a b d p => Sys2Proof.Machine.execShuf a b d p s
  | .zip a b d p h => Sys2Proof.Machine.execZip a b d p h s
  | .unz a b d p h => Sys2Proof.Machine.execUnz a b d p h s
  | .pmov a => Sys2Proof.Machine.execPmov a s
  | .pget d p => Sys2Proof.Machine.execPget d p s
  | .pand a v => Sys2Proof.Machine.execPand a v s
  | .por a v => Sys2Proof.Machine.execPor a v s
  | .pxor a v => Sys2Proof.Machine.execPxor a v s
  | .fadd a b d p m => Sys2Proof.Machine.execFadd a b d p m s
  | .fsub a b d p m => Sys2Proof.Machine.execFsub a b d p m s
  | .fmul a b d p m => Sys2Proof.Machine.execFmul a b d p m s
  | .fma a b c d p m => Sys2Proof.Machine.execFma a b c d p m s
  | .fmax a b d p => Sys2Proof.Machine.execFmax a b d p s
  | .fmin a b d p => Sys2Proof.Machine.execFmin a b d p s
  | .fabs a d p => Sys2Proof.Machine.execFabs a d p s
  | .fneg a d p => Sys2Proof.Machine.execFneg a d p s
  | .fcmp a b d p m => Sys2Proof.Machine.execFcmp a b d p m s
  | .fclip a b c d p => Sys2Proof.Machine.execFclip a b c d p s
  | .fscl a b d p m => Sys2Proof.Machine.execFscl a b d p m s
  | .frcp a d p m => Sys2Proof.Machine.execFrcp a d p m s
  | .frsq a d p m => Sys2Proof.Machine.execFrsq a d p m s
  | .fexp2 a d p m => Sys2Proof.Machine.execFexp2 a d p m s
  | .flog2 a d p m => Sys2Proof.Machine.execFlog2 a d p m s
  | .ftanh a d p m => Sys2Proof.Machine.execFtanh a d p m s
  | .fsig a d p m => Sys2Proof.Machine.execFsig a d p m s
  | .ftab a d p v s1 => Sys2Proof.Machine.execFtab a d p v s1 s
  | .fsumO a d m => Sys2Proof.Machine.execFsumO a d m s
  | .fsumU a d m => Sys2Proof.Machine.execFsumU a d m s
  | .fmaxr a d => Sys2Proof.Machine.execFmaxr a d s
  | .fdotO a b d m => Sys2Proof.Machine.execFdotO a b d m s
  | .fdotU a b d m => Sys2Proof.Machine.execFdotU a b d m s
  | .iadd a b d p m => Sys2Proof.Machine.execIadd a b d p m s
  | .isub a b d p m => Sys2Proof.Machine.execIsub a b d p m s
  | .imul a b d p m => Sys2Proof.Machine.execImul a b d p m s
  | .imad a b c d p m => Sys2Proof.Machine.execImad a b c d p m s
  | .imin a b d p u => Sys2Proof.Machine.execImin a b d p u s
  | .imax a b d p u => Sys2Proof.Machine.execImax a b d p u s
  | .vand a b d p => Sys2Proof.Machine.execVand a b d p s
  | .vor a b d p => Sys2Proof.Machine.execVor a b d p s
  | .vxor a b d p => Sys2Proof.Machine.execVxor a b d p s
  | .vandn a b d p => Sys2Proof.Machine.execVandn a b d p s
  | .vshl a b c d p m => Sys2Proof.Machine.execVshl a b c d p m s
  | .vshr a b c d p m => Sys2Proof.Machine.execVshr a b c d p m s
  | .vsar a b c d p m => Sys2Proof.Machine.execVsar a b c d p m s
  | .icmp a b d p m => Sys2Proof.Machine.execIcmp a b d p m s
  | .popc a d p => Sys2Proof.Machine.execPopc a d p s
  | .clz a d p => Sys2Proof.Machine.execClz a d p s
  | .isum a d m => Sys2Proof.Machine.execIsum a d m s
  | .iabs a d p m => Sys2Proof.Machine.execIabs a d p m s
  | .isat a c d p u => Sys2Proof.Machine.execIsat a c d p u s
  | .cvt a c d p m => Sys2Proof.Machine.execCvt a c d p m s
  | .req a b d m => Sys2Proof.Machine.execReq a b d m s
  | .bscl a b d m => Sys2Proof.Machine.execBscl a b d m s
  | .pack a b d => Sys2Proof.Machine.execPack a b d s
  | .unpk a d m => Sys2Proof.Machine.execUnpk a d m s
  | .qdec a c d p => Sys2Proof.Machine.execQdec a c d p s
  | .qenc a b c d m => Sys2Proof.Machine.execQenc a b c d m s
  | .iter d p m => Sys2Proof.Machine.execIter d p m s
  | .done => Sys2Proof.Machine.execDone s
  | .mnop => Sys2Proof.Machine.execMnop s
  | .lds lane pred ag chk shelf => Sys2Proof.Machine.execLds lane pred ag chk shelf s
  | .sts lane pred ag shelf => Sys2Proof.Machine.execSts lane pred ag shelf s
  | .ldx lane pred mode ag chk shelf imm => Sys2Proof.Machine.execLdx lane pred mode ag chk shelf imm s
  | .stx lane pred mode ag shelf imm => Sys2Proof.Machine.execStx lane pred mode ag shelf imm s
  | .amoO lane pred mode ag shelf imm => Sys2Proof.Machine.execAmoO lane pred mode ag shelf imm s
  | .amoU lane pred mode ag shelf imm => Sys2Proof.Machine.execAmoU lane pred mode ag shelf imm s
  | .drd lane pred dix imm => Sys2Proof.Machine.execDrd lane pred dix imm s
  | .shpub shelf => Sys2Proof.Machine.execShpub shelf s
  | .shrel shelf => Sys2Proof.Machine.execShrel shelf s
  | .mfence dix imm => Sys2Proof.Machine.execMfence dix imm s
  | .xnop => Sys2Proof.Machine.execXnop s
  | .xmm acc ver ash bsh kst anch => Sys2Proof.Machine.execXmm acc ver ash bsh kst anch s
  | .xclr acc ver anch => Sys2Proof.Machine.execXclr acc ver anch s
  | .xwb acc ver ash bsh kst sfmt clip scale dside => Sys2Proof.Machine.execXwb acc ver ash bsh kst sfmt clip scale dside s
  | .xdnd ver ash bsh kst anch map lb => Sys2Proof.Machine.execXdnd ver ash bsh kst anch map lb s
  | .xdfin ver ash anch map lb tap => Sys2Proof.Machine.execXdfin ver ash anch map lb tap s
  | .xdbx ver ash bsh kst anch map lb => Sys2Proof.Machine.execXdbx ver ash bsh kst anch map lb s
  | .xdbw ver ash bsh kst anch map lb => Sys2Proof.Machine.execXdbw ver ash bsh kst anch map lb s
  | .xtrq ash bsh => Sys2Proof.Machine.execXtrq ash bsh s
  | .xsta acc ver ash bsh dside => Sys2Proof.Machine.execXsta acc ver ash bsh dside s
  | .xlda acc ver ash bsh dside => Sys2Proof.Machine.execXlda acc ver ash bsh dside s
  | .cnop g => Sys2Proof.Machine.execCnop g s
  | .add d s1 t g => Sys2Proof.Machine.execAdd d s1 t g s
  | .addi d s1 i1 => Sys2Proof.Machine.execAddi d s1 i1 s
  | .sub d s1 t g => Sys2Proof.Machine.execSub d s1 t g s
  | .mul d s1 t g => Sys2Proof.Machine.execMul d s1 t g s
  | .mulh d s1 t g => Sys2Proof.Machine.execMulh d s1 t g s
  | .divu d s1 t g => Sys2Proof.Machine.execDivu d s1 t g s
  | .divs d s1 t g => Sys2Proof.Machine.execDivs d s1 t g s
  | .and d s1 t g => Sys2Proof.Machine.execAnd d s1 t g s
  | .andi d s1 i1 => Sys2Proof.Machine.execAndi d s1 i1 s
  | .or d s1 t g => Sys2Proof.Machine.execOr d s1 t g s
  | .ori d s1 i1 => Sys2Proof.Machine.execOri d s1 i1 s
  | .xor d s1 t g => Sys2Proof.Machine.execXor d s1 t g s
  | .xori d s1 i1 => Sys2Proof.Machine.execXori d s1 i1 s
  | .shl d s1 t g => Sys2Proof.Machine.execShl d s1 t g s
  | .shli d s1 i1 => Sys2Proof.Machine.execShli d s1 i1 s
  | .shr d s1 t g => Sys2Proof.Machine.execShr d s1 t g s
  | .shri d s1 i1 => Sys2Proof.Machine.execShri d s1 i1 s
  | .sar d s1 t g => Sys2Proof.Machine.execSar d s1 t g s
  | .sari d s1 i1 => Sys2Proof.Machine.execSari d s1 i1 s
  | .min d s1 t g => Sys2Proof.Machine.execMin d s1 t g s
  | .max d s1 t g => Sys2Proof.Machine.execMax d s1 t g s
  | .csel d s1 t g => Sys2Proof.Machine.execCsel d s1 t g s
  | .mov w d s1 g => Sys2Proof.Machine.execMov w d s1 g s
  | .movi d i1 => Sys2Proof.Machine.execMovi d i1 s
  | .movl d g imm => Sys2Proof.Machine.execMovl d g imm s
  | .movh d g imm => Sys2Proof.Machine.execMovh d g imm s
  | .cmp pd cond s1 t g => Sys2Proof.Machine.execCmp pd cond s1 t g s
  | .cmpi pd cond s1 i1 => Sys2Proof.Machine.execCmpi pd cond s1 i1 s
  | .plog pd cond pa pb g => Sys2Proof.Machine.execPlog pd cond pa pb g s
  | .br g off => Sys2Proof.Machine.execBr g off s
  | .call g off => Sys2Proof.Machine.execCall g off s
  | .ret g => Sys2Proof.Machine.execRet g s
  | .jmpr s1 g => Sys2Proof.Machine.execJmpr s1 g s
  | .loop c off => Sys2Proof.Machine.execLoop c off s
  | .ld w d base sz off g => Sys2Proof.Machine.execLd w d base sz off g s
  | .st w d base sz off g => Sys2Proof.Machine.execSt w d base sz off g s
  | .amadd z d s1 t g => Sys2Proof.Machine.execAmadd z d s1 t g s
  | .amand z d s1 t g => Sys2Proof.Machine.execAmand z d s1 t g s
  | .amor z d s1 t g => Sys2Proof.Machine.execAmor z d s1 t g s
  | .ammin z d s1 t g => Sys2Proof.Machine.execAmmin z d s1 t g s
  | .ammax z d s1 t g => Sys2Proof.Machine.execAmmax z d s1 t g s
  | .amxch z d s1 t g => Sys2Proof.Machine.execAmxch z d s1 t g s
  | .amcas z d s1 t g => Sys2Proof.Machine.execAmcas z d s1 t g s
  | .fence pset sset scope => Sys2Proof.Machine.execFence pset sset scope s
  | .waitv z d s1 t g => Sys2Proof.Machine.execWaitv z d s1 t g s
  | .sbind d s1 t g => Sys2Proof.Machine.execSbind d s1 t g s
  | .sstg d s1 t g => Sys2Proof.Machine.execSstg d s1 t g s
  | .sevc d s1 t g => Sys2Proof.Machine.execSevc d s1 t g s
  | .scpy d s1 t g => Sys2Proof.Machine.execScpy d s1 t g s
  | .swait d s1 g => Sys2Proof.Machine.execSwait d s1 g s
  | .sstat d s1 g => Sys2Proof.Machine.execSstat d s1 g s
  | .cfgl d s1 g => Sys2Proof.Machine.execCfgl d s1 g s
  | .cfgp d s1 g => Sys2Proof.Machine.execCfgp d s1 g s
  | .go s1 g => Sys2Proof.Machine.execGo s1 g s
  | .drain d g => Sys2Proof.Machine.execDrain d g s
  | .pbar g => Sys2Proof.Machine.execPbar g s
  | .xcmd d s1 g => Sys2Proof.Machine.execXcmd d s1 g s
  | .xwait s1 g => Sys2Proof.Machine.execXwait s1 g s
  | .coll d s1 t g => Sys2Proof.Machine.execColl d s1 t g s
  | .ddecl d s1 g => Sys2Proof.Machine.execDdecl d s1 g s
  | .ddrop d s1 g => Sys2Proof.Machine.execDdrop d s1 g s
  | .dwait s1 g => Sys2Proof.Machine.execDwait s1 g s
  | .ropen d s1 t g => Sys2Proof.Machine.execRopen d s1 t g s
  | .rclose s1 g => Sys2Proof.Machine.execRclose s1 g s
  | .nbop d s1 g => Sys2Proof.Machine.execNbop d s1 g s
  | .nbred d s1 g => Sys2Proof.Machine.execNbred d s1 g s
  | .optm d s1 g => Sys2Proof.Machine.execOptm d s1 g s
  | .nbstat d s1 g => Sys2Proof.Machine.execNbstat d s1 g s
  | .tload d s1 g => Sys2Proof.Machine.execTload d s1 g s
  | .rdig d s1 t g => Sys2Proof.Machine.execRdig d s1 t g s
  | .qfeat d i1 => Sys2Proof.Machine.execQfeat d i1 s
  | .rdsys d i1 => Sys2Proof.Machine.execRdsys d i1 s
  | .wrsys s1 i1 => Sys2Proof.Machine.execWrsys s1 i1 s
  | .trap i1 => Sys2Proof.Machine.execTrap i1 s
  | .eret g => Sys2Proof.Machine.execEret g s
  | .halt g => Sys2Proof.Machine.execHalt g s
  | .waite d s1 g => Sys2Proof.Machine.execWaite d s1 g s
  | .sendt d s1 t g => Sys2Proof.Machine.execSendt d s1 t g s
  | .keyld d s1 t g => Sys2Proof.Machine.execKeyld d s1 t g s
  | .attq d s1 t g => Sys2Proof.Machine.execAttq d s1 t g s
  | .alarmpWrite v => Sys2Proof.Machine.execAlarmpWrite v s
  | .alarmsClear v => Sys2Proof.Machine.execAlarmsClear v s
  | .ageLimitWrite v => Sys2Proof.Machine.execAgeLimitWrite v s
  | .htabWrite die v => Sys2Proof.Machine.execHtabWrite die v s
  | .startUp u => Sys2Proof.Machine.execStartUp u s
  | .hostAccess wr off n data => Sys2Proof.Machine.execHostAccess wr off n data s
  | .launchRecordAcceptance q => Sys2Proof.Machine.execLaunchRecordAcceptance q s
  | .launchRecordCheck l => Sys2Proof.Machine.execLaunchRecordCheck l s
  | .schedulerPass => Sys2Proof.Machine.execSchedulerPass s
  | .priorityAging l => Sys2Proof.Machine.execPriorityAging l s
  | .gangDieRequest pkg prio x y wd ht => Sys2Proof.Machine.execGangDieRequest pkg prio x y wd ht s
  | .launchStart l => Sys2Proof.Machine.execLaunchStart l s
  | .launchSave l => Sys2Proof.Machine.execLaunchSave l s
  | .launchEnd l => Sys2Proof.Machine.execLaunchEnd l s
  | .powerThrottle above_ => Sys2Proof.Machine.execPowerThrottle above_ s
  | .thermalThrottle hot => Sys2Proof.Machine.execThermalThrottle hot s
  | .thermalShutdown => Sys2Proof.Machine.execThermalShutdown s
  | .linkLoss k => Sys2Proof.Machine.execLinkLoss k s
  | .linkRetrain k delay => Sys2Proof.Machine.execLinkRetrain k delay s
  | .securityAlarm src => Sys2Proof.Machine.execSecurityAlarm src s
  | .perBankRefresh st pch bank => Sys2Proof.Machine.execPerBankRefresh st pch bank s
  | .refreshHeartbeat st => Sys2Proof.Machine.execRefreshHeartbeat st s
  | .refreshTakeover st => Sys2Proof.Machine.execRefreshTakeover st s
  | .refreshHandback st => Sys2Proof.Machine.execRefreshHandback st s
  | .remoteReadRequest st pkg off n => Sys2Proof.Machine.execRemoteReadRequest st pkg off n s
  | .actWindowExpiry st => Sys2Proof.Machine.execActWindowExpiry st s
  | .actWrite st idx w0 w1 => Sys2Proof.Machine.execActWrite st idx w0 w1 s
  | .tileTaskBegin die rg => Sys2Proof.Machine.execTileTaskBegin die rg s
  | .controllerChildStart die cell child => Sys2Proof.Machine.execControllerChildStart die cell child s
  | .regionUnfreeze die rg => Sys2Proof.Machine.execRegionUnfreeze die rg s
  | .regionWdog die rg => Sys2Proof.Machine.execRegionWdog die rg s
  | .reconfigStep die => Sys2Proof.Machine.execReconfigStep die s
  | .reconfigSwap die => Sys2Proof.Machine.execReconfigSwap die s
  | .prefetchComplete die => Sys2Proof.Machine.execPrefetchComplete die s
  | .circuitTransferStart l c => Sys2Proof.Machine.execCircuitTransferStart l c s
  | .circuitPublish l c => Sys2Proof.Machine.execCircuitPublish l c s
  | .streamCommandStart die eng k => Sys2Proof.Machine.execStreamCommandStart die eng k s
  | .streamCompletion die eng k => Sys2Proof.Machine.execStreamCompletion die eng k s
  | .xnCommandStart die ring slot => Sys2Proof.Machine.execXnCommandStart die ring slot s
  | .xnCompletion die ring slot k => Sys2Proof.Machine.execXnCompletion die ring slot k s
  | .nodeStoreArrival die k => Sys2Proof.Machine.execNodeStoreArrival die k s
  | .cabinetOperation st pch => Sys2Proof.Machine.execCabinetOperation st pch s
  | .reductionOperation st => Sys2Proof.Machine.execReductionOperation st s
  | .optimiserUpdate st => Sys2Proof.Machine.execOptimiserUpdate st s
  | .tokenArrival die => Sys2Proof.Machine.execTokenArrival die s
  | .faultStop die rg => Sys2Proof.Machine.execFaultStop die rg s
  | .regionFaultFreeze l => Sys2Proof.Machine.execRegionFaultFreeze l s
  | .faultRecordWrite l => Sys2Proof.Machine.execFaultRecordWrite l s
  | .collectiveCompletion l => Sys2Proof.Machine.execCollectiveCompletion l s
  | .derivedBuildDone die node dix => Sys2Proof.Machine.execDerivedBuildDone die node dix s
  | .gangGrant l pkg ok => Sys2Proof.Machine.execGangGrant l pkg ok s
  | .eccError loc fixed => Sys2Proof.Machine.execEccError loc fixed s

end Sys2Proof.Machine
end

