-- ==== Sys2Proof/Machine/Defer.lean ====
section
/-! DEFINITION. What a fence holds back (R208, R289), and loads and atomics that are performed after accesses behind them
(R205, R210, log 5). -/

namespace Sys2Proof.Machine

/-! ### The members of a successor set (R208) -/

/-- The members of an access by its path: DRV and LINE. -/
def pathMembers (a : Word) : BitVec 8 := if pathOf a = 4 then 0x20 else if pathOf a = 5 then 0x40 else 0

/-- The members of R208 that describe an instruction, as a later access; none where its guard is false. COLL reads and writes as
loads and stores do. -/
def State.members (s : State) (i : Instr) : BitVec 8 :=
  let on (g : BitVec 4) (m : BitVec 8) : BitVec 8 := if s.cc.guard g then m else 0
  let path (r : BitVec 6) : BitVec 8 := pathMembers (s.cc.get r)
  match i with
  | .ld _ _ b sz off g => on g (0x01 ||| pathMembers (s.accessAddr b sz off))
  | .st _ _ b sz off g => on g (0x02 ||| pathMembers (s.accessAddr b sz off))
  | .amadd _ _ a _ g => on g (0x04 ||| path a)
  | .amand _ _ a _ g => on g (0x04 ||| path a)
  | .amor _ _ a _ g => on g (0x04 ||| path a)
  | .ammin _ _ a _ g => on g (0x04 ||| path a)
  | .ammax _ _ a _ g => on g (0x04 ||| path a)
  | .amxch _ _ a _ g => on g (0x04 ||| path a)
  | .amcas _ _ a _ g => on g (0x04 ||| path a)
  | .waitv _ _ a _ g => on g (0x01 ||| path a)
  | .rdig _ a _ g => on g (0x03 ||| path a)
  | .tload _ a g => on g (0x01 ||| path a)
  | .sstat _ _ g => on g 0x01
  | .swait _ _ g => on g 0x01
  | .keyld _ _ _ g => on g 0x01
  | .attq _ _ _ g => on g 0x03
  | .sendt _ _ _ g => on g 0x02
  | .coll _ _ _ g => on g 0x03
  | .scpy _ _ _ g => on g 0x08
  | .sstg _ _ _ g => on g 0x08
  | .sevc _ _ _ g => on g 0x08
  | .sbind _ _ _ g => on g 0x08
  | .xcmd _ _ g => on g 0x10
  | .ropen _ _ _ g => on g 0x40
  | .rclose _ g => on g 0x40
  | .nbop _ _ g => on g 0x80
  | .nbred _ _ g => on g 0x80
  | .optm _ _ g => on g 0x80
  | _ => 0

/-- A fence that is not complete holds the instruction back; one that has issued goes on (R289). -/
def State.held (s : State) (i : Instr) : Bool :=
  s.cc.wait == .none && s.cc.fences.any (fun f => f.sset &&& s.members i != 0)

/-- Instructions that issue and then stall: a late trap of an earlier store leaves their successor in TRAPPC (R149). -/
def stalls (i : Instr) : Bool :=
  match i with
  | .waitv _ _ _ _ _ => true
  | .waite _ _ _ => true
  | .xwait _ _ => true
  | .swait _ _ _ => true
  | .dwait _ _ => true
  | .ddecl _ _ _ => true
  | .ddrop _ _ _ => true
  | .drain _ _ => true
  | .pbar _ => true
  | .coll _ _ _ _ => true
  | .go _ _ => true
  | _ => false

/-! ### Deferred accesses -/

/-- The meaning of a load or an atomic, which alone are deferred. -/
def runAccess (i : Instr) (s : State) : Option Out :=
  match i with
  | .ld w d b sz off g => some (execLd w d b sz off g s)
  | .amadd z d a t g => some (execAmadd z d a t g s)
  | .amand z d a t g => some (execAmand z d a t g s)
  | .amor z d a t g => some (execAmor z d a t g s)
  | .ammin z d a t g => some (execAmmin z d a t g s)
  | .ammax z d a t g => some (execAmmax z d a t g s)
  | .amxch z d a t g => some (execAmxch z d a t g s)
  | .amcas z d a t g => some (execAmcas z d a t g s)
  | _ => none

/-- The meaning of an access that may be performed before a deferred one. -/
def runPasser (i : Instr) (s : State) : Option Out :=
  match i with
  | .st w t b sz off g => some (execSt w t b sz off g s)
  | .scpy d a t g => some (execScpy d a t g s)
  | .sstg d a t g => some (execSstg d a t g s)
  | .sevc d a t g => some (execSevc d a t g s)
  | .xcmd d a g => some (execXcmd d a g s)
  | .nbop d a g => some (execNbop d a g s)
  | .nbred d a g => some (execNbred d a g s)
  | .optm d a g => some (execOptm d a g s)
  | i => runAccess i s

/-- Address, bytes and use of a load, a store or an atomic. -/
def State.accessOf (s : State) (i : Instr) : Option (Word × Nat × Use) :=
  let am (z : BitVec 2) (a : BitVec 6) : Option (Word × Nat × Use) := some (s.cc.get a, if z = 2 then 4 else 8, .amo)
  match i with
  | .ld w _ b sz off _ => some (s.accessAddr b sz off, accessLen w sz, .ld)
  | .st w _ b sz off _ => some (s.accessAddr b sz off, accessLen w sz, .st)
  | .amadd z _ a _ _ => am z a
  | .amand z _ a _ _ => am z a
  | .amor z _ a _ _ => am z a
  | .ammin z _ a _ _ => am z a
  | .ammax z _ a _ _ => am z a
  | .amxch z _ a _ _ => am z a
  | .amcas z _ a _ _ => am z a
  | _ => none

/-- The place of an access; a VIEW or a DERIV read has none of its own. -/
def State.placeOf (s : State) (a : Word) (k : Use) : Option Loc :=
  if pathOf a = 3 ∨ pathOf a = 4 then some ⟨0, 0, none, 0, 0, 0, 0, none⟩
  else match s.locate s.cdie none a k s.cc.smode with
    | .ok loc => some loc
    | .error _ => none

/-- An instruction of four bytes has gone on without a trap or a stall. -/
def State.wentOn (s : State) (o : Out) : Option State :=
  match o with
  | .next t => if t.cc.pc = s.cc.pc + 4 ∧ t.cc.smode = s.cc.smode then some t else none
  | _ => none

/-- The register that a load or an atomic writes. -/
def destOf (w : BitVec 32) : BitVec 6 := w.extractLsb' 16 6

/-- Two accesses of one core that stay in program order: to one location on one path (R207). -/
def Deferred.meets (f : Deferred) (p : Nat) (loc : Loc) (n : Nat) : Bool :=
  f.path == p && (p == 3 || p == 4 || f.loc.tgt == loc.tgt && decide (f.loc.key < loc.key + n ∧ loc.key < f.loc.key + f.len))

/-- An instruction that may be performed before the deferred one: it touches none of the (groups of eight) registers that the
deferred one writes, no place that keeps them in order, and goes on. -/
def State.passes (s : State) (f : Deferred) (w : BitVec 32) (i : Instr) : Bool :=
  let group (r : BitVec 6) : Nat := r.toNat / 8
  let free (lo : Nat) : Bool := group (w.extractLsb' lo 6) != group f.dest
  free 16 && free 10 && free 4 &&
  (match s.accessOf i with
   | some (a, n, k) => match s.placeOf a k with
     | some loc => !f.meets (pathOf a) loc n
     | none => false
   | none => true) &&
  (match runPasser i s with
   | some o => (s.wentOn o).isSome
   | none => false)

/-- A load or an atomic issues and is left to be performed later: it has been found to go on, and a load keeps what it would
have read. -/
def State.defer (s : State) (w : BitVec 32) (i : Instr) : Option State :=
  match runAccess i s, s.accessOf i with
  | some o, some (a, n, k) => match s.wentOn o, s.placeOf a k with
    | some t, some loc =>
      let c := s.cc
      if s.members i == 0 || s.held i then none
      else
        some { s.setCc { c with
          pc := c.pc + 4
          deferred := some ⟨i, c.pc, c.smode, c.a, destOf w, t.cc.getN (destOf w) (max 1 (n / 8)), pathOf a, loc, n⟩ } with
          freeCtr := t.freeCtr }
    | _, _ => none
  | _, _ => none

/-- The registers that a deferred access writes: from another core state, or from the values kept. -/
def Deferred.write (f : Deferred) (c : Core) (l : List Word) : Core := c.setN f.dest (l.take (max 1 (f.len / 8)))

/-- The deferred access of a core is performed now, with the registers it read. An atomic waits for the core's own store to its
place; a load that can no longer be performed gives what it would have read when it issued, an atomic takes its trap (log 5). -/
def State.resolve (s : State) (d : Nat) : State :=
  let s : State := { s with cur := (d, 0, 0) }
  let c := s.core d
  match c.deferred with
  | none => s
  | some f =>
    let s1 := s.setCore d { c with a := f.a, pc := f.pc, smode := f.smode, wait := .none, deferred := none }
    match runAccess f.instr s1 with
    | some o => match s1.wentOn o, o with
      | some t, _ =>
        t.setCore d (f.write { t.core d with a := c.a, pc := c.pc, smode := c.smode, wait := c.wait } ((t.core d).getN f.dest (max 1 (f.len / 8))))
      | none, .next t =>
        if (t.core d).pc = f.pc ∧ (t.core d).smode = f.smode then s
        else match f.instr with
          | .ld _ _ _ _ _ _ => s.setCore d (f.write { c with deferred := none } f.vals)
          | _ => t.setCore d { t.core d with a := c.a }
      | none, _ => s
    | none => s.setCore d { c with deferred := none }

end Sys2Proof.Machine
end

