-- ==== Sys2Proof/Machine/Tick.lean ====
section
/-! DEFINITION. What a step does around `exec`: the instruction a turn stands for (fetch, R101, R128, or the row that a
region's counters select, R25, R170), and the end of a cycle with the turns of the next one (R25, R37, R42, R43, log 4). -/

namespace Sys2Proof.Machine

/-! ### Fetch (R101, R128, R131) -/

/-- The word at an instruction address: of the core's own stores in flight, fetches see those that a fence has performed at
CORE scope (R127, R206). -/
def State.fetchWord (s : State) (d : Nat) (a : Word) : Except Trap (BitVec 32 × State) :=
  if pathOf a ≠ 0 then .error ⟨tACCESS, a⟩
  else if a.toNat % 4 ≠ 0 then .error ⟨tALIGN, a⟩
  else match s.genLoc d none a .fetch (s.core d).smode with
    | .error t => .error t
    | .ok loc => match s.readLoc loc a 4 with
      | .error t => .error t
      | .ok l => .ok (BitVec.ofNat 32 (leNat (overlay (s.core d).stq fetchPath loc l)), s.noteXlate d none loc)

/-- An instruction's words: the second is fetched for an L form alone. -/
def State.fetch (s : State) (d : Nat) (a : Word) : Except Trap (BitVec 32 × BitVec 32 × State) :=
  match s.fetchWord d a with
  | .error t => .error t
  | .ok (w, s) =>
    if isLong w then match s.fetchWord d (a + 4) with
      | .error t => .error t
      | .ok (y, s) => .ok (w, y, s)
    else .ok (w, 0, s)

/-- What a turn comes to. -/
inductive Turned where
  /-- an instruction to execute -/
  | run (i : Instr) (s : State)
  /-- the outcome, without one -/
  | done (o : Out)

/-- A core that issues notes whether its instruction is one that stalls (R149). -/
def Core.issue (c : Core) (i : Instr) : Core := { c with stallAt := if stalls i then some c.pc else none }

/-- The core of a die issues its next instruction: the fetch, then the decoder (R128). A fence may hold it back, and a deferred
access is performed before what may not pass it. -/
def State.coreTurn (s : State) (d : Nat) : Turned :=
  let s : State := { s with cur := (d, 0, 0) }
  let c := s.core d
  if c.halted ∨ !(c.running || c.smode) then .done (.next s)
  else
    let s := s.settleFences d
    let trap (s : State) (t : Trap) : Turned :=
      .done (.next (if c.deferred.isSome then s.resolve d else s.trapHere t))
    match s.fetch d c.pc with
    | .error t => trap s t
    | .ok (w, y, s) => match decodeCore w y with
      | .ok i =>
        if s.held i then .done (.next s)
        else match c.deferred with
          | none => .run i (s.setCore d ((s.core d).issue i))
          | some f => if s.passes f w i then .run i s else .done (.next (s.resolve d))
      | .error _ => trap s ⟨tILL, w.setWidth 64⟩

/-- The core's deferred access is performed, or its next instruction, a load or an atomic, is deferred (R205, log 5). -/
def State.lateTurn (s : State) (d : Nat) : State :=
  let s : State := { s with cur := (d, 0, 0) }
  let c := s.core d
  if c.deferred.isSome then s.resolve d
  else if c.halted ∨ !(c.running || c.smode) then s
  else match s.fetch d c.pc with
    | .ok (w, y, t) => match decodeCore w y with
      | .ok i => (t.defer w i).getD s
      | .error _ => s
    | .error _ => s

/-- A unit executes the row its region's counters select; a nullified row does nothing, an illegal one raises ILL (R26,
R60, R120). -/
def State.unitTurn (s : State) (d r sl : Nat) : Turned :=
  let s : State := { s with cur := (d, r, sl) }
  if isCe sl then
    match s.rowCtx d r sl with
    | none => .done (.next s)
    | some c =>
      let w := tget nopWord ((s.die d).act.ceCfg r sl).rows c.mc
      match decodeRow w with
      | .ok i => .run i s
      | .error _ => .done (.next (s.raiseFault d c.reg r sl 0 tILL c.mc c.stage (w.setWidth 64) 0 0))
  else if isMn sl then
    match s.rowCtx d r sl with
    | none => .done (.next s)
    | some c => match decodeMn (s.mnEntry c) with
      | .ok i => .run i s
      | .error _ => .done (.next (s.mnFault c ⟨tILL, s.mnEntry c, 0, 0⟩))
  else if isXn sl then
    match s.xnSlot with
    | none => .done (.next s)
    | some (c, served) =>
      let w := tget 0 ((s.die d).act.xnCfg r sl).rows c.idx
      match decodeXn w with
      | .ok i => .run i s
      | .error _ => .done (.next (s.xnNoEntry c served))
  else .done (.fault .noUnit)

/-- What a turn stands for. -/
def State.turn (s : State) (t : Turn) : Turned :=
  match t with
  | .core d => s.coreTurn d
  | .unit d r sl => s.unitTurn d r sl
  | .issue d => .done (.next (s.issueDie d))
  | .event i => .run i s
  | .perform d k => .done (.next (s.performStore d k))
  | .early d => .done (.next (s.loadEarly d))
  | .late d => .done (.next (s.lateTurn d))
  | .spread k => .done (.next (s.spreadStore k))

/-! ### The end of a cycle -/

/-- A region of the die has executed the cycle that ends. -/
def Region.ran (x : Region) : Bool := x.run && !x.halted && x.frz.isNone

/-- The dies of a package. -/
def dieList : List Nat := List.range 8

/-- The values on operand ports of a die are written in the cycle that ends (R172). -/
def State.writePorts (s : State) (d : Nat) : State :=
  (s.die d).regions.foldl (fun s e => if (s.region d e.1).ran then s.portWrites d e.1 e.2 else s) s

/-- One die in a new cycle: lanes moved, RC counted, results visible, operations in flight counted, GO taken. -/
def State.tickDie (s : State) (d : Nat) : State :=
  let rs := (s.die d).regions
  let s := (s.die d).xns.foldl (fun s e =>
    let ring := e.1 / 48
    match (s.die d).act.regionAt ring with
    | some (n, _) => s.xnCycle d ring (e.1 % 48) (s.region d n).ran ((s.region d n).ringStopped ring)
    | none => s.xnCycle d ring (e.1 % 48) false false) s
  let s := rs.foldl (fun s e => s.tickRegion d e.1 e.2) s
  rs.foldl (fun s e => (s.takeGo d e.1 e.2).frameThrottle d e.1 e.2) s

/-- LCYC counts for every launch that holds its rectangle (R235). -/
def State.countCycles (s : State) : State :=
  { s with launches := s.launches.map (fun e => if e.2.phase.holds then (e.1, { e.2 with lcyc := e.2.lcyc + 1 }) else e) }

/-! ### Turns of the new cycle -/

/-- The device steps of a die that happen in a fixed cycle, in their order, and its issue. -/
def State.dieTurns (s : State) (d : Nat) : List Turn :=
  let x := s.die d
  let rs := x.regions
  let ev (l : List Instr) : List Turn := l.map Turn.event
  ev (rs.filterMap (fun e => if ((x.reg e.1).ringsDue e.2 s.cycle).isEmpty then none else some (.faultStop d e.1))) ++
  ev (x.xns.flatMap (fun e => (e.2.flight.zipIdx.reverse.filterMap (fun f =>
    if f.1.left = 0 ∧ !f.1.applied then some (.xnCompletion d (e.1 / 48) (e.1 % 48) f.2) else none)))) ++
  ev (rs.filterMap (fun e => if (x.reg e.1).mayUnfreeze s.cycle then some (.regionUnfreeze d e.1) else none)) ++
  ev (rs.filterMap (fun e => if (x.reg e.1).wdogDue s.cycle then some (.regionWdog d e.1) else none)) ++
  ev (rs.filterMap (fun e => if 0 < (x.reg e.1).enables then some (.tileTaskBegin d e.1) else none)) ++
  ev (x.cellRuns.flatMap (fun e => (List.range 8).filterMap (fun k =>
    if x.childReady e.1 k then some (.controllerChildStart d e.1 k) else none))) ++
  (match x.token with
   | some t => [.event (if t.step = 6 then .reconfigSwap d else .reconfigStep d)]
   | none => []) ++
  (if rs.isEmpty then [] else [.issue d]) ++
  ev (x.xns.filterMap (fun e => if e.2.cmds.isEmpty then none else some (.xnCommandStart d (e.1 / 48) (e.1 % 48))))

/-- The freezes of R230, which come before the rows of their cycle. -/
def State.freezeTurns (s : State) : List Turn :=
  s.launches.filterMap (fun e => match e.2.firstFault with
    | some f => if e.2.phase.holds ∧ f + 70 = s.cycle then some (Turn.event (.regionFaultFreeze e.1)) else none
    | none => none)

/-- The device steps of launches that happen in a fixed cycle. -/
def State.launchTurns (s : State) : List Turn :=
  (s.launches.filterMap (fun e => if e.2.mayAge s.cycle s.mgmt.ageInUse.toNat then some (Turn.event (.priorityAging e.1)) else none)) ++
  (if s.mgmt.passDue then [.event .schedulerPass] else []) ++
  ((List.range 8).filterMap (fun k => match (s.stack k).lapse s.cycle with
    | some t => if t + 2500 ≤ s.cycle then some (.event (.refreshTakeover k)) else none
    | none => none))

/-- The 1 ms windows of the access-control tables end, with the compute dies powered or not (R199). -/
def State.windowTurns (s : State) : List Turn :=
  if s.cycle % 1250000 = 0 then s.stackTab.map (fun e => Turn.event (.actWindowExpiry e.1)) else []

/-- A core that may issue: at the firmware's own entry only where the state holds its code (log 21). -/
def State.mayIssue (s : State) (d : Nat) : Bool :=
  let c := s.core d
  !c.halted && (if c.smode then c.pc != Config.firmwareVector || (match s.fetch d c.pc with
    | .ok _ => true
    | .error _ => false) else c.running)

/-- The turns of a die that may come in any cycle (log 4). -/
def State.dieMay (s : State) (d : Nat) : List Turn :=
  let x := s.die d
  let ev (l : List Instr) : List Turn := l.map Turn.event
  (x.core.stq.zipIdx.filterMap (fun e => if !x.core.mayArrive e.2 then none
    else if e.1.loc.tgt = 2 then some (.event (.nodeStoreArrival d e.2)) else some (.perform d e.2))) ++
  (if x.core.tokIn.isEmpty then [] else [.event (.tokenArrival d)]) ++
  ev (x.engines.flatMap (fun e => (List.range e.2.cmds.length).reverse.flatMap (fun k =>
    (if s.mayFinish d e.1 k then [.streamCompletion d e.1 k] else []) ++
    (if s.mayStart d e.1 k then [.streamCommandStart d e.1 k] else [])))) ++
  ev (x.derivs.filterMap (fun e => match e.2 with
    | some v => if v.building then some (.derivedBuildDone d (e.1 / 8) (e.1 % 8)) else none
    | none => none)) ++
  (if x.prefetch.isSome then [.event (.prefetchComplete d)] else []) ++
  (if x.core.deferred.isSome || s.mayIssue d then [.late d] else []) ++
  (if s.mayIssue d then [.early d, .core d] else [])

/-- The turns of a stack that may come in any cycle. -/
def State.stackMay (s : State) (k : Nat) : List Turn :=
  let x := s.stack k
  let ev (l : List Instr) : List Turn := l.map Turn.event
  ev (x.cabs.filterMap (fun e => if e.2.q.isEmpty then none else some (.cabinetOperation k e.1))) ++
  (if x.red.q.isEmpty then [] else [.event (.reductionOperation k)]) ++
  (if x.opt.q.isEmpty then [] else [.event (.optimiserUpdate k)]) ++
  (if (x.lapse s.cycle).isSome then [.event (.refreshTakeover k)] else []) ++
  (if x.takenOver ∧ x.resumed.isSome then [.event (.refreshHandback k)] else [])

/-- The turns of a launch that may come in any cycle. -/
def State.launchMay (s : State) (l : Nat) : List Turn :=
  let x := s.launch l
  let ev (l : List Instr) : List Turn := l.map Turn.event
  match x.phase with
  | .accepted => ev [.launchRecordCheck l]
  | .admitted => ev [.launchStart l]
  | .queued => []
  | .asking => []
  | .saved => []
  | .ended => []
  | _ =>
    ev ((List.range x.circuits.length).flatMap (fun c =>
      if (tget none x.transit c).isSome then [.circuitPublish l c]
      else match x.circuits[c]? with
        | some r => if (s.circuitBufs l r).isSome && s.circuitOn l c r then [.circuitTransferStart l c] else []
        | none => [])) ++
    ev (if (s.localDies x).any (fun e => (s.core e.2).wait == .coll) then [.collectiveCompletion l] else []) ++
    ev (if x.faults.isEmpty then
          (if s.savable l then [.launchSave l] else []) ++ (if s.allHalted l then [.launchEnd l] else [])
        else [.faultRecordWrite l])

/-- A queue whose slot holds its next record. -/
def State.queueMay (s : State) (q : Nat) : List Turn :=
  let x := s.queue q
  if x.qstate = 1 ∧ x.nextseq ≠ 0 ∧ s.bytes (mmioKey (q * 0x4000 + x.nextseq.toNat % 64 * 0x80 + 120)) 8 = leBytes 8 x.nextseq.toNat
  then [.event (.launchRecordAcceptance q)] else []

/-- Everything that may come in this cycle. -/
def State.mayCome (s : State) : List Turn :=
  (List.range s.stale.length).map Turn.spread ++ (List.range 16).flatMap s.queueMay ++ s.launches.flatMap (fun e => s.launchMay e.1) ++
  (List.range 8).flatMap s.stackMay ++ dieList.flatMap s.dieMay

/-- What the outside world, or firmware, can do (log 12). -/
def isExternal (i : Instr) : Bool :=
  match i with
  | .alarmpWrite _ => true
  | .alarmsClear _ => true
  | .ageLimitWrite _ => true
  | .htabWrite _ _ => true
  | .startUp _ => true
  | .hostAccess _ _ _ _ => true
  | .gangDieRequest _ _ _ _ _ _ => true
  | .gangGrant _ _ _ => true
  | .powerThrottle _ => true
  | .thermalThrottle _ => true
  | .thermalShutdown => true
  | .linkLoss _ => true
  | .linkRetrain _ _ => true
  | .securityAlarm _ => true
  | .eccError _ _ => true
  | .perBankRefresh _ _ _ => true
  | .refreshHeartbeat _ => true
  | .remoteReadRequest _ _ _ _ => true
  | .actWrite _ _ _ _ => true
  | _ => false

/-- The next outside event. -/
def State.inputTurn (s : State) : List Turn :=
  match s.inputs with
  | i :: _ => if isExternal i then [.event i] else []
  | [] => []

/-- The next cycle begins. Without power the dies stand still. -/
def State.refill (s : State) : State :=
  let s := if s.mgmt.powered then dieList.foldl State.writePorts s else s
  let s := { s with cycle := s.cycle + 1 }
  let s := if s.mgmt.powered then dieList.foldl State.tickDie s else s
  let s := s.countCycles
  let may := if s.mgmt.powered then s.mayCome else []
  let come := (may.zipIdx.filter (fun e => Config.freeBit (s.freeCtr + e.2))).map (·.1)
  { s with
    agenda := (if s.mgmt.powered then s.freezeTurns ++ dieList.flatMap s.dieTurns ++ s.launchTurns else []) ++
      s.windowTurns ++ come ++ s.inputTurn
    inputs := s.inputs.tail
    freeCtr := s.freeCtr + may.length }

end Sys2Proof.Machine
end

