-- ==== Sys2Proof/Machine/Step.lean ====
section
/-! DEFINITION. One step: the next turn of the cycle, or the next cycle; and the placing of an instruction where a step
fetches it (log 15). -/

namespace Sys2Proof.Machine

/-- One step of the package. -/
def step (s : State) : Host.Outcome State Fault Refusal :=
  match s.agenda with
  | [] => .next s.refill
  | t :: rest => match ({ s with agenda := rest } : State).turn t with
    | .run i s' => exec i s'
    | .done o => o

/-! ### Placing an instruction (log 15) -/

/-- A translation of the page of `va` to offset 0 of node 0, ring 0 of launch die 0: tables at stack offsets 0, 0x8000 and
0x10000, a leaf with R, W, X and U. -/
def State.mapCode (s : State) (va : Nat) : State :=
  let put (s : State) (pa v : Nat) : State := s.putBytes (stackKey (linOf pa)) (leBytes 8 v)
  let s := put s (8 * (va / 2 ^ 39 % 512)) (2 ^ 22 + 1)
  let s := put s (0x8000 + 8 * (va / 2 ^ 27 % 4096)) (2 * 2 ^ 22 + 1)
  put s (0x10000 + 8 * (va / 2 ^ 15 % 4096)) (2 ^ 56 + 0x1F)

/-- The core of die 0, in a launch of that die alone, is about to fetch the bytes at its pc. -/
def State.placeCore (s : State) (w : Nat) : State :=
  let va := (s.core 0).pc.toNat % 2 ^ 48
  let s := (s.mapCode va).putBytes (sramKey 0 0 0 (va % 2 ^ 15)) (leBytes 8 w)
  let s := s.setLaunch 0 { w := 1, h := 1, phase := .running }
  let x := s.die 0
  let s := s.setDie 0 { x with
    launch := some 0
    tlb := []
    core := { x.core with running := true, halted := false, wait := .none, ptbase := 0, pc := BitVec.ofNat 64 va } }
  { s with agenda := [.core 0], nLaunch := max 1 s.nLaunch }

/-- Region 0 of die 0 on ring 0, with II and NS 1, in the first cycle of a tile task of a launch of that die alone; one unit
holds the row. -/
def State.placeRow (s : State) (sl : Nat) (f : Bank → Bank) : State :=
  let s := s.setLaunch 0 { w := 1, h := 1, phase := .running }
  let x := s.die 0
  let s := s.setDie 0 { x with
    launch := some 0
    act := f { x.act with rdesc := tset none x.act.rdesc 0 (some 1) }
    regs := tset {} x.regs 0 { run := true, tasks := [(0, 1)] } }
  { s with agenda := [.unit 0 0 sl], nLaunch := max 1 s.nLaunch }

/-- The instruction of `nbits` bits `w` stands where the next step fetches: an element row in CE slot 2, an MN entry in
slot 1 of mode ORDERED, an XN entry in slot 3, any other in the memory of the core of die 0. -/
def State.withFetchWord (s : State) (nbits w : Nat) : State :=
  let w := w % 2 ^ nbits
  match decodeTableWord nbits w with
  | none => s.placeCore w
  | some i =>
    match rowFields i, mnFields i, xnFields i with
    | some _, _, _ => s.placeRow 2 (fun b => { b with ce := tset {} b.ce 2 { rows := tset nopWord [] 0 (BitVec.ofNat 32 w), named := true } })
    | none, some _, _ => s.placeRow 1 (fun b => { b with mn := tset {} b.mn 1 { rows := tset 0 [] 0 (BitVec.ofNat 64 w), ncfg := 2, named := true } })
    | none, none, some _ => s.placeRow 3 (fun b => { b with xn := tset {} b.xn 3 { rows := tset 0 [] 0 (BitVec.ofNat 64 w), named := true } })
    | none, none, none => s.placeCore w

end Sys2Proof.Machine
end

