-- ==== Sys2Proof/Safety.lean ====
section
/-! DEFINITION. What claims about the machine are stated in: the invariant, safe steps, and what a step may leave unchanged
or change at one place (frames). -/

namespace Sys2Proof

open Sys2Proof.Machine

/-- The canonical form of memory: addresses rise strictly and no listed byte is what an unlisted address reads as. -/
def Memory.wf (m : Tab Byte) : Bool := twf 0 m

/-- The invariant of the state: memory in its canonical form. -/
def Inv (s : State) : Prop := Memory.wf s.mem = true

/-- A step ends in a next state: it neither faults nor refuses. -/
def StepSafe (s : State) : Prop := ∃ t, step s = .next t

/-- `n` steps from a state, each of them safe. -/
def RunSafe : Nat → State → Prop
  | 0, _ => True
  | n + 1, s => ∃ t, step s = .next t ∧ RunSafe n t

namespace Claims

/-! ### Frames -/

/-- Every byte of memory reads as before. -/
def SameBytes (s t : State) : Prop := ∀ k, t.byte k = s.byte k

/-- Every byte of memory outside the `n` bytes from `lo` reads as before. -/
def SameBytesOutside (s t : State) (lo n : Nat) : Prop := ∀ k, ¬(lo ≤ k ∧ k < lo + n) → t.byte k = s.byte k

/-- The management processor, the stacks' engines and drawers, the key slots, the values an unordered access may still read
and the clock are as before. -/
def SameSystem (s t : State) : Prop :=
  t.mgmt = s.mgmt ∧ t.stackTab = s.stackTab ∧ t.keys = s.keys ∧ t.nLaunch = s.nLaunch ∧ t.cycle = s.cycle ∧
  t.inputs = s.inputs ∧ t.stale = s.stale

/-- Nothing outside the dies changes, memory included. -/
def SameOutsideDies (s t : State) : Prop :=
  SameBytes s t ∧ SameSystem s t ∧ t.cur = s.cur ∧ t.agenda = s.agenda ∧ t.hostData = s.hostData ∧ t.freeCtr = s.freeCtr ∧
  t.poison = s.poison ∧ t.keyTag = s.keyTag ∧ t.launches = s.launches

/-- Of the dies, only die `d` may change. -/
def OnlyDie (s t : State) (d : Nat) : Prop := ∀ e, e ≠ d → t.die e = s.die e

/-- Nothing changes but the control core that executes. -/
def OnlyCore (s t : State) : Prop :=
  SameOutsideDies s t ∧ OnlyDie s t s.cdie ∧ t.die s.cdie = { s.die s.cdie with core := t.cc }

/-- The mode of a core, its exception, handler, page-table and identity registers and its event queue are as before. -/
def SameSpecial (c e : Core) : Prop :=
  e.smode = c.smode ∧ e.trapc = c.trapc ∧ e.trappc = c.trappc ∧ e.trapval = c.trapval ∧ e.htab = c.htab ∧
  e.ptbase = c.ptbase ∧ e.diex = c.diex ∧ e.diey = c.diey ∧ e.dien = c.dien ∧ e.evq = c.evq ∧ e.tokIn = c.tokIn ∧
  e.running = c.running ∧ e.halted = c.halted

/-- Every general register but `d` is as before. -/
def SameRegsBut (c e : Core) (d : BitVec 6) : Prop := ∀ r, r ≠ d → e.get r = c.get r

/-- Register `d` takes `v`, the pc moves `n` bytes on, and nothing else changes: no other register, no predicate, no
special register, no byte of memory, no other die. -/
def WritesReg (s t : State) (d : BitVec 6) (v : Word) (n : Nat) : Prop :=
  OnlyCore s t ∧ t.cc.get d = v ∧ SameRegsBut s.cc t.cc d ∧ t.cc.pc = s.cc.pc + BitVec.ofNat 64 n ∧
  t.cc = { s.cc with a := t.cc.a, pc := t.cc.pc }

/-- The instruction completes: it writes one register, with a value that has property `P`, and only goes on. -/
def Completes (i : Instr) (s : State) (d : BitVec 6) (n : Nat) (P : Word → Prop) : Prop :=
  ∃ t v, exec i s = .next t ∧ WritesReg s t d v n ∧ P v

/-- Only the pc changes: to `a`. -/
def GoesTo (s t : State) (a : Word) : Prop := OnlyCore s t ∧ t.cc = { s.cc with pc := a }

/-- The executing core has taken a trap (R234): code, value and saved pc; the mode is S and the pc the firmware vector;
every other register of the core, every byte and every other unit is as before; a token of the die that has not reached step 6
is abandoned (R41). -/
def Trapped (s t : State) (code : Nat) (val tpc : Word) : Prop :=
  t.cc.trapc.toNat = (if s.cc.smode then 2 ^ 12 else 0) + 3 * 2 ^ 8 + code ∧ t.cc.trappc = tpc ∧ t.cc.trapval = val ∧
  t.cc.smode = true ∧ t.cc.pc = Config.firmwareVector ∧
  t.cc = { s.cc with trapc := t.cc.trapc, trappc := tpc, trapval := val, smode := true, wait := .none, pc := t.cc.pc } ∧
  SameBytes s t ∧ SameSystem s t ∧ OnlyDie s t s.cdie ∧
  t.die s.cdie = { s.die s.cdie with core := t.cc, token := (s.die s.cdie).tokenLeft }

/-- The registers of the executing core but `d` and every special register are as before; no predicate changes. -/
def CoreFrame (s t : State) (d : BitVec 6) : Prop :=
  SameRegsBut s.cc t.cc d ∧ t.cc.p = s.cc.p ∧ SameSpecial s.cc t.cc

end Claims

end Sys2Proof
end

