-- ==== Sys2Proof/Certificates/Slice0/Obligations.lean ====
section
/-! DEFINITION. The statements about the model, from the spec's numbered rules. `Trapped`, `WritesReg`, `OnlyCore` and the
other frames they use are those of Sys2Proof/Safety.lean. -/

open Sys2Proof Sys2Proof.Machine Sys2Proof.Claims

/-! ### Encoding and the step -/

/-- For every well-formed instruction that has an encoding, the decoder reads back from the encoder's words the
instruction itself, with every operand at every value the encoding admits (R115 to R130). -/
def Obligations.EncodeThenDecode : Prop :=
  ∀ i : Instr, WellFormed i → encode i ≠ .event → decode (encode i) = .ok i

/-- What the decoder reads from any element row, MN entry, XN entry or control-core word is well formed: no reserved
field value is ever executed (R60, R120, R122, R128). -/
def Obligations.DecodedIsWellFormed : Prop :=
  ∀ (i : Instr) (w y : BitVec 32) (e : BitVec 64),
    (decodeRow w = .ok i ∨ decodeMn e = .ok i ∨ decodeXn e = .ok i ∨ decodeCore w y = .ok i) → WellFormed i

/-- Words that the spec's reference entries and its program listing give as examples, read as the spec reads them: R115, R118,
R126, R127, R254, R261, R316, R317, R346 and the listing of 07_assembler.md (the source codes 13 cw0, 25 z0, 8 L and 9 NL of R52;
bit 45 of an LDS is TAGCHK, R117; LANE 13 is the write port, R118). -/
def Obligations.SpecWordsDecode : Prop :=
  decodeCore 0x0103105A 0 = .ok (.add 3 4 5 0xA) ∧ decodeCore 0x02030FFE 0 = .ok (.addi 3 3 0x3FE) ∧
  decodeCore 0x201FFFFE 0 = .ok (.br 1 0xFFFFE) ∧ decodeCore 0x17D06000 0 = .ok (.mov 3 16 24 0) ∧
  decodeCore 0x19050000 0x4B800003 = .ok (.movl 5 0 0x4B800003) ∧ decodeCore 0x1C1C1051 0 = .ok (.cmp 3 4 4 5 1) ∧
  decodeCore 0x67051870 0 = .ok (.sendt 5 6 7 0) ∧ decodeCore 0x3BC64070 0 = .ok (.scpy 6 16 7 0) ∧
  decodeRow 0xB3FFFC00 = .ok .done ∧ decodeMn 0x0420200000000000 = .ok (.lds 1 0 0 1 0) ∧
  decodeRow 0x24DCFC00 = .ok (.fmul 13 25 0 0 0) ∧ decodeRow 0x2084FF40 = .ok (.fadd 8 9 13 0 0) ∧
  decodeMn 0x09A000FF00000000 = .ok (.sts 13 0 0 0xFF)

/-- The core's turn with the fetch at an aligned GEN address that reads four bytes: the word they make, lowest byte first, is
decoded and executed in the state after the fetch (R3, R101, R127, R128); stores of the core that a fence has performed for it
alone are seen by the fetch. A fence that is not complete holds back an access of its successor set (R289). The order is the
model's (log 5): complete fences are settled first; a load or an atomic that the core has left to be performed later is passed by
an instruction that may pass it and performed before any other; the issue of an instruction that may stall is noted. -/
def Obligations.StepRunsFetchedInstruction : Prop :=
  ∀ (s : State) (d : Nat) (rest : List Turn) (loc : Loc) (l : List Byte) (i : Instr),
    s.agenda = .core d :: rest →
    let u := ({ s with agenda := rest, cur := (d, 0, 0) } : State).settleFences d
    let pc := (s.core d).pc
    let v := u.noteXlate d none loc
    let w := BitVec.ofNat 32 (leNat (overlay (u.core d).stq fetchPath loc l))
    (s.core d).halted = false → ((s.core d).running = true ∨ (s.core d).smode = true) → pathOf pc = 0 → pc.toNat % 4 = 0 →
    u.genLoc d none pc .fetch (u.core d).smode = .ok loc → u.readLoc loc pc 4 = .ok l → isLong w = false → decodeCore w 0 = .ok i →
    (v.held i = true → step s = .next v) ∧
    (v.held i = false → (s.core d).deferred = none → step s = exec i (v.setCore d ((v.core d).issue i))) ∧
    (v.held i = false → ∀ f, (s.core d).deferred = some f →
      step s = if v.passes f w i then exec i v else .next (v.resolve d)) ∧
    ((s.core d).fences = [] → u = { s with agenda := rest, cur := (d, 0, 0) } ∧ v.held i = false)

/-- An L form's turn: the second word is fetched at the pc + 4 and given to the decoder with the first (R127, R128). -/
def Sys2Proof.Claims.StepRunsLongInstruction : Prop :=
  ∀ (s : State) (d : Nat) (rest : List Turn) (w y : BitVec 32) (s1 s2 : State) (i : Instr),
    s.agenda = .core d :: rest →
    let u := ({ s with agenda := rest, cur := (d, 0, 0) } : State).settleFences d
    (s.core d).halted = false → ((s.core d).running = true ∨ (s.core d).smode = true) → (s.core d).deferred = none →
    u.fetchWord d (s.core d).pc = .ok (w, s1) → isLong w = true →
    s1.fetchWord d ((s.core d).pc + 4) = .ok (y, s2) → decodeCore w y = .ok i →
    step s = exec i (s2.setCore d ((s2.core d).issue i))

/-- A unit's turn: the row that the region's counters select at a CE, an MN or an XN is decoded and executed; a
nullified one (no admitted instance has its index) changes nothing (R25, R26, R170). -/
def Sys2Proof.Claims.StepRunsSelectedRow : Prop :=
  ∀ (s : State) (d r sl : Nat) (rest : List Turn), s.agenda = .unit d r sl :: rest →
    let u : State := { s with agenda := rest, cur := (d, r, sl) }
    (isCe sl = true → ∀ c i, u.rowCtx d r sl = some c →
      decodeRow (tget nopWord ((u.die d).act.ceCfg r sl).rows c.mc) = .ok i → step s = exec i u) ∧
    (isMn sl = true → ∀ c i, u.rowCtx d r sl = some c → decodeMn (u.mnEntry c) = .ok i → step s = exec i u) ∧
    (isXn sl = true → ∀ c served i, u.xnSlot = some (c, served) →
      decodeXn (tget 0 ((u.die d).act.xnCfg r sl).rows c.idx) = .ok i → step s = exec i u) ∧
    (isXn sl = false → (isCe sl || isMn sl) = true → u.rowCtx d r sl = none → step s = .next u)

/-- A device step's turn executes it; with no turn left the next cycle begins: the cycle counts on and the turns of
the new cycle are listed. The turns and their order are the model's (log 4). -/
def Sys2Proof.Claims.StepTakesEventsAndCycles : Prop :=
  (∀ (s : State) (i : Instr) (rest : List Turn), s.agenda = .event i :: rest →
    step s = exec i { s with agenda := rest }) ∧
  (∀ s : State, s.agenda = [] → ∃ t, step s = .next t ∧ t.cycle = s.cycle + 1 ∧ t.inputs = s.inputs.tail)

/-- A step runs the two-word instruction, the selected row or the device step whose turn it is, and with no turn left the next
cycle begins (R25, R26, R127, R128, R170; the turns are the model's, log 4). -/
def Obligations.StepRunsOtherTurns : Prop := Claims.StepRunsLongInstruction ∧ Claims.StepRunsSelectedRow ∧ Claims.StepTakesEventsAndCycles

/-- The core's turn with a word, or with the two words of an L form, that the decoder refuses: ILL with the first word in TRAPVAL
and its own address in TRAPPC, unless a load or an atomic of the core is still to be performed, which comes first (log 5). -/
def Sys2Proof.Claims.RefusedCoreWordRaisesIll : Prop :=
  ∀ (s : State) (d : Nat) (rest : List Turn) (w y : BitVec 32) (s1 : State) (e : Defect),
    s.agenda = .core d :: rest →
    let u := ({ s with agenda := rest, cur := (d, 0, 0) } : State).settleFences d
    let pc := (s.core d).pc
    (s.core d).halted = false → ((s.core d).running = true ∨ (s.core d).smode = true) →
    ((isLong w = false ∧ y = 0 ∧ u.fetchWord d pc = .ok (w, s1)) ∨
      (isLong w = true ∧ ∃ s0, u.fetchWord d pc = .ok (w, s0) ∧ s0.fetchWord d (pc + 4) = .ok (y, s1))) →
    decodeCore w y = .error e →
    ((s.core d).deferred = none → ∃ t, step s = .next t ∧ Trapped s1 t 0x01 (w.setWidth 64) pc) ∧
    ((s.core d).deferred ≠ none → step s = .next (s1.resolve d))

/-- ILL at a unit begins the region's fault stop there, with the word in TRAPVAL (R60, R120, R229, R233). -/
def Sys2Proof.Claims.UnitIll (s u : State) (c : RowCtx) (row : Nat) (w : Word) : Prop :=
  (u.region c.d c.reg).fstop = none → ∃ t f, step s = .next t ∧ (t.region c.d c.reg).fstop = some f ∧ f.code = 0x01 ∧
    f.ring = c.r ∧ f.slot = c.sl ∧ f.row = row ∧ (t.core c.d).trapval = w

/-- A word of a live row or entry that the decoder refuses: ILL at its unit. An MN's is refused in whatever mode; an XN's once no
version holds it, at once where its opcode is reserved (R60, R120, R174, R181). -/
def Sys2Proof.Claims.RefusedUnitWordRaisesIll : Prop :=
  ∀ (s : State) (d r sl : Nat) (rest : List Turn) (c : RowCtx) (e : Defect), s.agenda = .unit d r sl :: rest →
    let u : State := { s with agenda := rest, cur := (d, r, sl) }
    (isCe sl = true → u.rowCtx d r sl = some c →
      let w := tget nopWord ((u.die d).act.ceCfg r sl).rows c.mc
      decodeRow w = .error e → Claims.UnitIll s u c c.mc (w.setWidth 64)) ∧
    (isMn sl = true → u.rowCtx d r sl = some c → decodeMn (u.mnEntry c) = .error e →
      Claims.UnitIll s u c c.idx (u.mnEntry c)) ∧
    (isXn sl = true → u.xnSlot = some (c, true) →
      let w := tget 0 ((u.die d).act.xnCfg r sl).rows c.idx
      decodeXn w = .error e → (11 ≤ w.toNat / 2 ^ 58 ∨ u.entryGap c w = 0) → Claims.UnitIll s u c c.idx w)

/-- An unassigned or reserved opcode of the control core, of an element row, of an MN entry and of an XN entry is refused by name
(R116, R120, R126). -/
def Sys2Proof.Claims.UnassignedOpcodesRefused : Prop :=
  (∀ (x : BitVec 24) (y : BitVec 32) (op : BitVec 8),
    op.toNat ∈ [0x1B, 0x1F, 0x25, 0x26, 0x27] ∨ (0x33 ≤ op.toNat ∧ op.toNat ≤ 0x37) ∨ op.toNat = 0x3E ∨ op.toNat = 0x3F ∨
      (0x4B ≤ op.toNat ∧ op.toNat ≤ 0x4F) ∨ op.toNat = 0x56 ∨ op.toNat = 0x57 ∨
      (0x5A ≤ op.toNat ∧ op.toNat ≤ 0x5F) ∨ 0x6A ≤ op.toNat →
    decodeCore (op ++ x) y = .error .opcode) ∧
  (∀ (x : BitVec 25) (op : BitVec 7),
    (0x0D ≤ op.toNat ∧ op.toNat ≤ 0x0F) ∨ (0x27 ≤ op.toNat ∧ op.toNat ≤ 0x2F) ∨ (0x43 ≤ op.toNat ∧ op.toNat ≤ 0x47) ∨
      (0x4F ≤ op.toNat ∧ op.toNat ≤ 0x57) ∨ 0x5A ≤ op.toNat → decodeRow (op ++ x) = .error .opcode) ∧
  (∀ (x : BitVec 58) (op : BitVec 6), 0x0B ≤ op.toNat →
    decodeMn (op ++ x) = .error .opcode ∧ decodeXn (op ++ x) = .error .opcode)

/-- A refused word raises ILL where it stands, at the core and at each kind of unit; every unassigned or reserved opcode is refused
(R60, R116, R120, R126, R128). -/
def Obligations.RefusedWordsRaiseIll : Prop :=
  Claims.RefusedCoreWordRaisesIll ∧ Claims.RefusedUnitWordRaisesIll ∧ Claims.UnassignedOpcodesRefused

/-! ### Control core: registers, predicates, branches -/

/-- The three-register forms under a true guard: the value of D as the reference entries compute it, in numbers; every
other register, predicate, special register and byte stays, and the pc moves 4 bytes on (R254, R258, R313, R319, R326,
R344, R358, R375). -/
def Obligations.RegisterArithmeticResults : Prop :=
  ∀ (s : State) (d x y : BitVec 6) (g : BitVec 4), s.cc.guard g = true →
    let a := s.cc.get x
    let b := s.cc.get y
    Completes (.add d x y g) s d 4 (fun v => v.toNat = (a.toNat + b.toNat) % 2 ^ 64) ∧
    Completes (.sub d x y g) s d 4 (fun v => (v.toNat : Int) = ((a.toNat : Int) - b.toNat) % 2 ^ 64) ∧
    Completes (.mul d x y g) s d 4 (fun v => v.toNat = a.toNat * b.toNat % 2 ^ 64) ∧
    Completes (.mulh d x y g) s d 4 (fun v => v.toNat = a.toNat * b.toNat / 2 ^ 64) ∧
    Completes (.and d x y g) s d 4 (fun v => ∀ i, v.getLsbD i = (a.getLsbD i && b.getLsbD i)) ∧
    Completes (.or d x y g) s d 4 (fun v => ∀ i, v.getLsbD i = (a.getLsbD i || b.getLsbD i)) ∧
    Completes (.xor d x y g) s d 4 (fun v => ∀ i, v.getLsbD i = (a.getLsbD i != b.getLsbD i)) ∧
    Completes (.shl d x y g) s d 4 (fun v => v.toNat = a.toNat * 2 ^ (b.toNat % 64) % 2 ^ 64) ∧
    Completes (.shr d x y g) s d 4 (fun v => v.toNat = a.toNat / 2 ^ (b.toNat % 64)) ∧
    Completes (.sar d x y g) s d 4 (fun v => v.toInt = a.toInt / 2 ^ (b.toNat % 64)) ∧
    Completes (.min d x y g) s d 4 (fun v => v.toInt = min a.toInt b.toInt) ∧
    Completes (.max d x y g) s d 4 (fun v => v.toInt = max a.toInt b.toInt)

/-- The immediate forms have no guard: they complete in every state, with the immediate sign-extended, or unsigned for a
shift; CSEL always writes D, with G as its selector (R254, R258, R271, R318, R326, R344, R375). -/
def Obligations.ImmediateAndSelectResults : Prop :=
  ∀ (s : State) (d x y : BitVec 6) (i : BitVec 10) (g : BitVec 4),
    let a := s.cc.get x
    Completes (.addi d x i) s d 4 (fun v => (v.toNat : Int) = ((a.toNat : Int) + i.toInt) % 2 ^ 64) ∧
    Completes (.andi d x i) s d 4 (fun v => ∀ k, k < 64 → v.getLsbD k = (a.getLsbD k && (if k < 10 then i.getLsbD k else i.msb))) ∧
    Completes (.ori d x i) s d 4 (fun v => ∀ k, k < 64 → v.getLsbD k = (a.getLsbD k || (if k < 10 then i.getLsbD k else i.msb))) ∧
    Completes (.xori d x i) s d 4 (fun v => ∀ k, k < 64 → v.getLsbD k = (a.getLsbD k != (if k < 10 then i.getLsbD k else i.msb))) ∧
    Completes (.shli d x i) s d 4 (fun v => v.toNat = a.toNat * 2 ^ i.toNat % 2 ^ 64) ∧
    Completes (.shri d x i) s d 4 (fun v => v.toNat = a.toNat / 2 ^ i.toNat) ∧
    Completes (.sari d x i) s d 4 (fun v => v.toInt = a.toInt / 2 ^ i.toNat) ∧
    Completes (.movi d i) s d 4 (fun v => v.toInt = i.toInt) ∧
    Completes (.csel d x y g) s d 4 (fun v => v = if s.cc.guard g then a else s.cc.get y)

/-- Quotients of DIVU and DIVS by a divisor that is not zero, toward zero for DIVS; −2^63 by −1 gives −2^63; a zero
divisor raises DIV0 precisely and D is unchanged; a false guard tests no divisor (R275). -/
def Obligations.DivisionResultsAndTrap : Prop :=
  (∀ (s : State) (d x y : BitVec 6) (g : BitVec 4), s.cc.guard g = true →
    let a := s.cc.get x
    let b := s.cc.get y
    (b ≠ 0 →
      Completes (.divu d x y g) s d 4 (fun v => v.toNat = a.toNat / b.toNat) ∧
      Completes (.divs d x y g) s d 4 (fun v => (v.toInt - a.toInt.tdiv b.toInt) % 2 ^ 64 = 0)) ∧
    (b = 0 → (∃ t, exec (.divu d x y g) s = .next t ∧ Trapped s t 0x12 0 s.cc.pc) ∧
      (∃ t, exec (.divs d x y g) s = .next t ∧ Trapped s t 0x12 0 s.cc.pc))) ∧
  (∀ (s : State) (d x y : BitVec 6) (g : BitVec 4), s.cc.guard g = false →
    (∃ t, exec (.divu d x y g) s = .next t ∧ GoesTo s t (s.cc.pc + 4)) ∧
    (∃ t, exec (.divs d x y g) s = .next t ∧ GoesTo s t (s.cc.pc + 4))) ∧
  (∀ s : State, (s.cc.get 4).toInt = -7 → s.cc.get 5 = 2 →
    Completes (.divs 3 4 5 0) s 3 4 (fun v => v.toInt = -3) ∧
    Completes (.divu 3 4 5 0) s 3 4 (fun v => v.toNat = 0x7FFFFFFFFFFFFFFC)) ∧
  decodeCore 0x06031050 0 = .ok (.divu 3 4 5 0) ∧ decodeCore 0x07031051 0 = .ok (.divs 3 4 5 1)

/-- MOV copies 2^W registers with all sources read first, D and S1 aligned to W; MOVL and MOVH write D and go on at their
first word + 8, which a false guard reaches too; CNOP changes nothing but the pc, whatever its guard, and its other bits
must be zero (R268, R316, R317). -/
def Obligations.MovesOfRegistersAndConstants : Prop :=
  (∀ (s : State) (w : BitVec 2) (d x : BitVec 6) (g : BitVec 4) (imm : BitVec 32),
    (∃ t, exec (.cnop g) s = .next t ∧ GoesTo s t (s.cc.pc + 4)) ∧
    (s.cc.guard g = true →
      (∃ t, exec (.mov w d x g) s = .next t ∧ OnlyCore s t ∧ t.cc = { s.cc with a := t.cc.a, pc := s.cc.pc + 4 } ∧
        (∀ j, j < 2 ^ w.toNat → t.cc.get (d + BitVec.ofNat 6 j) = s.cc.get (x + BitVec.ofNat 6 j)) ∧
        (∀ r, (∀ j, j < 2 ^ w.toNat → r ≠ d + BitVec.ofNat 6 j) → t.cc.get r = s.cc.get r)) ∧
      Completes (.movl d g imm) s d 8 (fun v => v.toNat = imm.toNat) ∧
      Completes (.movh d g imm) s d 8 (fun v => v.toNat = imm.toNat * 2 ^ 32 + (s.cc.get d).toNat % 2 ^ 32)) ∧
    (s.cc.guard g = false → (∃ t, exec (.movl d g imm) s = .next t ∧ GoesTo s t (s.cc.pc + 8)) ∧
      (∃ t, exec (.movh d g imm) s = .next t ∧ GoesTo s t (s.cc.pc + 8)))) ∧
  (∀ w y : BitVec 32,
    (w.toNat / 2 ^ 24 = 0x19 ∨ w.toNat / 2 ^ 24 = 0x1A → isLong w = true) ∧
    (w.toNat / 2 ^ 24 = 0 → (w.toNat / 2 ^ 4 % 2 ^ 20 ≠ 0 ∨ w.toNat % 2 ^ 4 = 8) → ∃ e, decodeCore w y = .error e) ∧
    (∀ k d x g, decodeCore w y = .ok (.mov k d x g) → d.toNat % 2 ^ k.toNat = 0 ∧ x.toNat % 2 ^ k.toNat = 0)) ∧
  decodeCore 0 0 = .ok (.cnop 0) ∧ decodeCore 0x17010C01 0 = .ok (.mov 0 1 3 1) ∧
  decodeCore 0x17D06000 0 = .ok (.mov 3 16 24 0) ∧ decodeCore 0x19050000 0x4B800003 = .ok (.movl 5 0 0x4B800003) ∧
  decodeCore 0x1A050000 0x10000000 = .ok (.movh 5 0 0x10000000)

/-- The truth of the eight conditions of CMP and CMPI (R267) on two register values. -/
def Sys2Proof.Claims.condTruth (cond : BitVec 3) (a b : Word) : Prop :=
  match cond.toNat with
  | 0 => a = b
  | 1 => a ≠ b
  | 2 => a.toInt < b.toInt
  | 3 => b.toInt ≤ a.toInt
  | 4 => a.toNat < b.toNat
  | 5 => b.toNat ≤ a.toNat
  | 6 => a.toInt ≤ b.toInt
  | _ => b.toInt < a.toInt

/-- The eight functions of PLOG (R125). -/
def Sys2Proof.Claims.plogTruth (cond : BitVec 3) (p q : Prop) : Prop :=
  match cond.toNat with
  | 0 => p ∧ q
  | 1 => p ∨ q
  | 2 => ¬(p ↔ q)
  | 3 => p ∧ ¬q
  | 4 => p ∨ ¬q
  | 5 => p ↔ q
  | 6 => ¬(p ∧ q)
  | _ => ¬(p ∨ q)

/-- Only predicate `pd` changes, to the truth of `P`, and the pc moves 4 bytes on. -/
def Sys2Proof.Claims.SetsPred (s : State) (i : Instr) (pd : BitVec 3) (P : Prop) : Prop :=
  ∃ t, exec i s = .next t ∧ OnlyCore s t ∧ t.cc = { s.cc with p := t.cc.p, pc := s.cc.pc + 4 } ∧
    (t.cc.pred pd = true ↔ P) ∧ ∀ q, q ≠ pd → t.cc.pred q = s.cc.pred q

/-- CMP, CMPI and PLOG set pd to the condition coded in cond, and no other predicate; p0 always reads as true, and the
decoder refuses pd = 0 (R125, R267, R332). -/
def Obligations.PredicateResults : Prop :=
  (∀ (s : State) (pd cond : BitVec 3) (x y : BitVec 6) (i : BitVec 10) (pa pb : BitVec 3) (g : BitVec 4), pd ≠ 0 →
    Claims.SetsPred s (.cmpi pd cond x i) pd (Sys2Proof.Claims.condTruth cond (s.cc.get x) (BitVec.ofInt 64 i.toInt)) ∧
    (s.cc.guard g = true →
      Claims.SetsPred s (.cmp pd cond x y g) pd (Sys2Proof.Claims.condTruth cond (s.cc.get x) (s.cc.get y)) ∧
      Claims.SetsPred s (.plog pd cond pa pb g) pd (Claims.plogTruth cond (s.cc.pred pa = true) (s.cc.pred pb = true)))) ∧
  (∀ c : Core, c.pred 0 = true) ∧
  (∀ (w y : BitVec 32) (i : Instr), decodeCore w y = .ok i → match i with
    | .cmp pd _ _ _ _ => pd ≠ 0
    | .cmpi pd _ _ _ => pd ≠ 0
    | .plog pd _ _ _ _ => pd ≠ 0
    | _ => True)

/-- Branches with a true guard: BR and CALL go to their own word + 4 × offset, CALL leaves its return address in a63,
RET and JMPR go to a register; LOOP counts a register down and goes back while it is not zero (R127, R261, R263, R306,
R312, R342). A target with bits 1:0 not zero raises ALIGN at the jump. -/
def Sys2Proof.Claims.BranchTargets : Prop :=
  ∀ (s : State) (g : BitVec 4) (off : BitVec 20) (lo : BitVec 18) (c r : BitVec 6),
    (s.cc.guard g = true →
      (∃ t, exec (.br g off) s = .next t ∧ GoesTo s t (BitVec.ofInt 64 (s.cc.pc.toNat + 4 * off.toInt))) ∧
      (∃ t, exec (.call g off) s = .next t ∧ OnlyCore s t ∧ t.cc.get 63 = s.cc.pc + 4 ∧ SameRegsBut s.cc t.cc 63 ∧
        t.cc = { s.cc with a := t.cc.a, pc := BitVec.ofInt 64 (s.cc.pc.toNat + 4 * off.toInt) }) ∧
      ((s.cc.get 63).toNat % 4 = 0 → ∃ t, exec (.ret g) s = .next t ∧ GoesTo s t (s.cc.get 63)) ∧
      ((s.cc.get r).toNat % 4 = 0 → ∃ t, exec (.jmpr r g) s = .next t ∧ GoesTo s t (s.cc.get r)) ∧
      ((s.cc.get 63).toNat % 4 ≠ 0 → ∃ t, exec (.ret g) s = .next t ∧ Trapped s t 0x03 (s.cc.get 63) s.cc.pc) ∧
      ((s.cc.get r).toNat % 4 ≠ 0 → ∃ t, exec (.jmpr r g) s = .next t ∧ Trapped s t 0x03 (s.cc.get r) s.cc.pc)) ∧
    (∃ t v, exec (.loop c lo) s = .next t ∧ OnlyCore s t ∧ v = s.cc.get c - 1 ∧ t.cc.get c = v ∧ SameRegsBut s.cc t.cc c ∧
      t.cc = { s.cc with
        a := t.cc.a
        pc := if v = 0 then s.cc.pc + 4 else BitVec.ofInt 64 (s.cc.pc.toNat + 4 * lo.toInt) })

/-- The guard field of the instructions that have one (CSEL's G is a selector), and the length of their fall-through. -/
def Sys2Proof.Claims.guardOf : Instr → Option (BitVec 4 × Nat)
  | .cnop g => some (g, 4) | .add _ _ _ g => some (g, 4) | .sub _ _ _ g => some (g, 4) | .mul _ _ _ g => some (g, 4)
  | .mulh _ _ _ g => some (g, 4) | .divu _ _ _ g => some (g, 4) | .divs _ _ _ g => some (g, 4) | .and _ _ _ g => some (g, 4)
  | .or _ _ _ g => some (g, 4) | .xor _ _ _ g => some (g, 4) | .shl _ _ _ g => some (g, 4) | .shr _ _ _ g => some (g, 4)
  | .sar _ _ _ g => some (g, 4) | .min _ _ _ g => some (g, 4) | .max _ _ _ g => some (g, 4) | .mov _ _ _ g => some (g, 4)
  | .movl _ g _ => some (g, 8) | .movh _ g _ => some (g, 8) | .cmp _ _ _ _ g => some (g, 4) | .plog _ _ _ _ g => some (g, 4)
  | .br g _ => some (g, 4) | .call g _ => some (g, 4) | .ret g => some (g, 4) | .jmpr _ g => some (g, 4)
  | .ld _ _ _ _ _ g => some (g, 4) | .st _ _ _ _ _ g => some (g, 4) | .amadd _ _ _ _ g => some (g, 4)
  | .amand _ _ _ _ g => some (g, 4) | .amor _ _ _ _ g => some (g, 4) | .ammin _ _ _ _ g => some (g, 4)
  | .ammax _ _ _ _ g => some (g, 4) | .amxch _ _ _ _ g => some (g, 4) | .amcas _ _ _ _ g => some (g, 4)
  | .waitv _ _ _ _ g => some (g, 4) | .sbind _ _ _ g => some (g, 4) | .sstg _ _ _ g => some (g, 4)
  | .sevc _ _ _ g => some (g, 4) | .scpy _ _ _ g => some (g, 4) | .swait _ _ g => some (g, 4) | .sstat _ _ g => some (g, 4)
  | .cfgl _ _ g => some (g, 4) | .cfgp _ _ g => some (g, 4) | .go _ g => some (g, 4) | .drain _ g => some (g, 4)
  | .pbar g => some (g, 4) | .xcmd _ _ g => some (g, 4) | .xwait _ g => some (g, 4) | .coll _ _ _ g => some (g, 4)
  | .ddecl _ _ g => some (g, 4) | .ddrop _ _ g => some (g, 4) | .dwait _ g => some (g, 4) | .ropen _ _ _ g => some (g, 4)
  | .rclose _ g => some (g, 4) | .nbop _ _ g => some (g, 4) | .nbred _ _ g => some (g, 4) | .optm _ _ g => some (g, 4)
  | .nbstat _ _ g => some (g, 4) | .tload _ _ g => some (g, 4) | .rdig _ _ _ g => some (g, 4) | .halt g => some (g, 4)
  | .waite _ _ g => some (g, 4) | .sendt _ _ _ g => some (g, 4)
  | _ => none

/-- An instruction with a false guard changes no state but the pc, which falls through: 4 bytes, 8 for an L form; ERET,
KEYLD and ATTQ are checked for their mode first, so this holds of them in S mode (R125, R127, R128). -/
def Sys2Proof.Claims.FalseGuardOnlyGoesOn : Prop :=
  (∀ (i : Instr) (g : BitVec 4) (n : Nat) (s : State), Claims.guardOf i = some (g, n) → s.cc.guard g = false →
    ∃ t, exec i s = .next t ∧ GoesTo s t (s.cc.pc + BitVec.ofNat 64 n)) ∧
  (∀ (d x y : BitVec 6) (g : BitVec 4) (s : State), s.cc.smode = true → s.cc.guard g = false →
    (∃ t, exec (.eret g) s = .next t ∧ GoesTo s t (s.cc.pc + 4)) ∧
    (∃ t, exec (.keyld d x y g) s = .next t ∧ GoesTo s t (s.cc.pc + 4)) ∧
    (∃ t, exec (.attq d x y g) s = .next t ∧ GoesTo s t (s.cc.pc + 4)))

/-- Branches, jumps and false guards (R125, R127). -/
def Obligations.BranchAndGuardResults : Prop := Claims.BranchTargets ∧ Claims.FalseGuardOnlyGoesOn

/-! ### Control core: memory -/

/-- Bytes of an M-form access (R308). -/
def Sys2Proof.Claims.mBytes (w sz : BitVec 2) : Nat := if w = 0 then 2 ^ sz.toNat else 8 * 2 ^ w.toNat

/-- The address of an M form (R308): `[base + OFF · 2^SZ]`. -/
def Sys2Proof.Claims.mAddr (s : State) (base : BitVec 6) (sz : BitVec 2) (off : BitVec 4) : Word :=
  BitVec.ofNat 64 ((s.cc.get base).toNat + off.toNat * 2 ^ sz.toNat)

/-- The bytes an ST stores: the low bytes of one register, or 2^W registers in order (R355). -/
def Sys2Proof.Claims.mData (s : State) (w sz : BitVec 2) (r : BitVec 6) : List Byte :=
  if w = 0 then leBytes (2 ^ sz.toNat) (s.cc.get r).toNat
  else ((List.range (2 ^ w.toNat)).map (fun j => leBytes 8 (s.cc.get (r + BitVec.ofNat 6 j)).toNat)).flatten

/-- The `l.length` bytes from `key` under a key slot now read as `l`; every other byte reads as before under that slot; and
outside the 64 B granules touched every stored byte is as before, whatever the key. -/
def Sys2Proof.Claims.StoresAt (s t : State) (key : Nat) (slot : Option Nat) (l : List Byte) : Prop :=
  t.plainBytes key slot l.length = l ∧
  (∀ k, ¬(key ≤ k ∧ k < key + l.length) → t.plainByte k slot = s.plainByte k slot) ∧
  (∀ k, ¬(key / 64 * 64 ≤ k ∧ k < (key + l.length + 63) / 64 * 64) → t.byte k = s.byte k)

/-- A write performed at a place: the bytes of a stack, the capacity tier, the host or a node; a window write touches its
own aperture bytes at most; another package's memory is not this state. -/
def Sys2Proof.Claims.Performs (s t : State) (loc : Loc) (l : List Byte) : Prop :=
  if loc.tgt = 9 then SameBytes s t
  else if loc.tgt = 4 then SameBytesOutside s t (mmioKey loc.off) l.length
  else if loc.tgt = 2 then Claims.StoresAt s t (sramKey loc.die loc.ring loc.node loc.off) none l
  else Claims.StoresAt s t loc.key loc.slot l

/-- The instruction has completed without a trap: the pc moves 4 bytes on, predicates, special registers and the other
dies' cores stay. -/
def Sys2Proof.Claims.GoesOn (s t : State) : Prop :=
  t.cc.pc = s.cc.pc + 4 ∧ t.cc.p = s.cc.p ∧ SameSpecial s.cc t.cc ∧ (∀ e, e ≠ s.cdie → t.core e = s.core e) ∧
  t.keys = s.keys

/-- LD at an aligned address whose read succeeds writes the bytes read, zero-extended, or 2^W registers of 8 bytes each, and
no other register and no byte of memory; a misaligned address raises ALIGN, a failing read its trap, and no register is
written (R308). -/
def Obligations.LoadResults : Prop :=
  ∀ (s : State) (w : BitVec 2) (d base : BitVec 6) (sz : BitVec 2) (off g : BitVec 4),
    s.cc.guard g = true → (w = 0 ∨ sz = 3) →
    let n := Claims.mBytes w sz
    let a := Claims.mAddr s base sz off
    (a.toNat % n ≠ 0 → ∃ t, exec (.ld w d base sz off g) s = .next t ∧ Trapped s t 0x03 a s.cc.pc) ∧
    (∀ e, a.toNat % n = 0 → s.loadBytes s.cdie a n = .error e →
      ∃ t, exec (.ld w d base sz off g) s = .next t ∧ Trapped s t e.code e.val s.cc.pc) ∧
    (∀ l u, a.toNat % n = 0 → s.loadBytes s.cdie a n = .ok (l, u) →
      ∃ t, exec (.ld w d base sz off g) s = .next t ∧ Claims.GoesOn s t ∧ SameBytes s t ∧ t.mgmt = s.mgmt ∧
        (w = 0 → t.cc.get d = BitVec.ofNat 64 (leNat l) ∧ SameRegsBut s.cc t.cc d) ∧
        (w ≠ 0 → (∀ j, j < 2 ^ w.toNat → t.cc.get (d + BitVec.ofNat 6 j) = BitVec.ofNat 64 (leNat ((l.drop (8 * j)).take 8))) ∧
          ∀ r, (∀ j, j < 2 ^ w.toNat → r ≠ d + BitVec.ofNat 6 j) → t.cc.get r = s.cc.get r))

/-- ST at an aligned address that its path and page allow puts the low bytes of a register, or 2^W registers, into the core's
stores in flight, in program order: one store for a node, one for each aligned 8 bytes elsewhere, all numbered with the count of
the core's stores. No register changes, and no byte of memory before a store is performed (R205; the queue and its numbers are the
model's, log 5). A misaligned address raises ALIGN; a failing check its trap. -/
def Sys2Proof.Claims.StoreIssues : Prop :=
  ∀ (s : State) (w : BitVec 2) (r base : BitVec 6) (sz : BitVec 2) (off g : BitVec 4),
    s.cc.guard g = true → (w = 0 ∨ sz = 3) →
    let n := Claims.mBytes w sz
    let a := Claims.mAddr s base sz off
    let l := Claims.mData s w sz r
    (a.toNat % n ≠ 0 → ∃ t, exec (.st w r base sz off g) s = .next t ∧ Trapped s t 0x03 a s.cc.pc) ∧
    (∀ e, a.toNat % n = 0 → s.locate s.cdie none a .st s.cc.smode = .error e →
      ∃ t, exec (.st w r base sz off g) s = .next t ∧ Trapped s t e.code e.val s.cc.pc) ∧
    (∀ loc, a.toNat % n = 0 → s.locate s.cdie none a .st s.cc.smode = .ok loc →
      ∃ t q, exec (.st w r base sz off g) s = .next t ∧ Claims.GoesOn s t ∧ t.cc.a = s.cc.a ∧ t.mgmt = s.mgmt ∧
        SameBytes s t ∧ t.cc.stq = s.cc.stq ++ q ∧
        t.cc.stSeq = s.cc.stSeq + 1 ∧
        (loc.tgt = 2 → q = [⟨{ loc with pte := none }, l, a, false, s.cc.stSeq, false⟩]) ∧
        (loc.tgt ≠ 2 → q.length = (n + 7) / 8 ∧ ∀ i, i < (n + 7) / 8 → q[i]? =
          some ⟨{ loc with pte := none, key := loc.key + 8 * i, off := loc.off + 8 * i }, (l.drop (8 * i)).take 8,
            a + BitVec.ofNat 64 (8 * i), false, s.cc.stSeq, decide (n = 64)⟩))

/-- The turn of a store in flight that goes to no node performs it, at the place it names, and no register changes; it has to
wait behind an earlier store to one of its bytes on its path (R205, R207). The dies other than its own, or the host, may still
find the bytes of before: the step notes at most this one store as such, with its old and new bytes (R207; the model's, log 5). -/
def Sys2Proof.Claims.StorePerforms : Prop :=
  ∀ (s : State) (d k : Nat) (rest : List Turn) (e : PendSt), s.agenda = .perform d k :: rest →
    let u : State := { s with agenda := rest }
    (s.core d).stq[k]? = some e → e.loc.tgt ≠ 2 →
    ((s.core d).mayArrive k = true → ∃ t, step s = .next t ∧ Claims.Performs u t e.loc e.bytes ∧
      t.core d = { s.core d with stq := (s.core d).stq.eraseIdx k } ∧ (∀ f, f ≠ d → t.core f = s.core f) ∧ t.keys = s.keys ∧
      ∀ x, x ∈ t.stale → x ∈ s.stale ∨ x.die = d ∧ x.seq = e.seq ∧ x.key = e.loc.key ∧ x.slot = e.loc.slot ∧ x.new = e.bytes ∧
        x.old = s.plainBytes e.loc.key e.loc.slot e.bytes.length) ∧
    ((s.core d).mayArrive k = false → step s = .next u) ∧
    (∀ j f, j < k → (s.core d).stq[j]? = some f → f.loc.tgt = e.loc.tgt → pathOf f.addr = pathOf e.addr →
      f.loc.key < e.loc.key + e.bytes.length → e.loc.key < f.loc.key + f.bytes.length → (s.core d).mayArrive k = false)

/-- Stores of a control core: issued by ST (R355), performed later (R205, R207). -/
def Obligations.StoreResults : Prop := Claims.StoreIssues ∧ Claims.StorePerforms

/-- In S mode, a load of n bytes from the STACK path after a store of n bytes there gives the low n bytes of the stored
register, for each size, whatever the memory held and whatever key its granule was written under (R98, R207, R242). -/
def Obligations.StoreThenLoadReturnsValue : Prop :=
  ∀ (s t : State) (r d base : BitVec 6) (sz : BitVec 2) (off : BitVec 4),
    s.cc.smode = true → s.poison = [] →
    let n := 2 ^ sz.toNat
    let a := Claims.mAddr s base sz off
    pathOf a = 6 → bitsOf a 40 20 = 0 → a.toNat % n = 0 →
    exec (.st 0 r base sz off 0) s = .next t →
    ∃ u, exec (.ld 0 d base sz off 0) t = .next u ∧ (u.cc.get d).toNat = (s.cc.get r).toNat % 2 ^ (8 * n)

/-- One atomic has completed: D takes the old value, zero-extended, the place takes the new value or nothing is written,
and no other register changes. -/
def Sys2Proof.Claims.AtomicDone (i : Instr) (s : State) (d : BitVec 6) (loc : Loc) (n old : Nat) (x : Option Nat) : Prop :=
  ∃ t, exec i s = .next t ∧ Claims.GoesOn s t ∧ t.cc.get d = BitVec.ofNat 64 old ∧ SameRegsBut s.cc t.cc d ∧
    t.mgmt = s.mgmt ∧
    match x with
    | some v => Claims.Performs s t loc (leBytes n v)
    | none => SameBytes s t

/-- Signed reading of an n-byte number. -/
def Sys2Proof.Claims.signedOf (n x : Nat) : Int := (BitVec.ofNat (8 * n) x).toInt

/-- The seven atomics of the A form. -/
def Sys2Proof.Claims.atomics (z : BitVec 2) (d ar o : BitVec 6) (g : BitVec 4) : List Instr :=
  [.amadd z d ar o g, .amand z d ar o g, .amor z d ar o g, .ammin z d ar o g, .ammax z d ar o g, .amxch z d ar o g, .amcas z d ar o g]

/-- Each atomic under a true guard, at an aligned address that its path and page allow, with no store of the core itself in
flight to the place on the same path: D takes the old value and the place the new one of the table of R255; a failing
AMCAS writes nothing. With such a store in flight it waits, which is the model's way to keep them in order (DEDUCED, log 5). A
misaligned address raises ALIGN, a path or page that does not
allow it and a failing read their traps, each precisely. -/
def Sys2Proof.Claims.AtomicResults : Prop :=
  ∀ (s : State) (z : BitVec 2) (d ar o : BitVec 6) (g : BitVec 4),
    s.cc.guard g = true → (z = 2 ∨ z = 3) →
    let n := if z = 2 then 4 else 8
    let a := s.cc.get ar
    (∀ i, i ∈ Claims.atomics z d ar o g →
      (a.toNat % n ≠ 0 → ∃ t, exec i s = .next t ∧ Trapped s t 0x03 a s.cc.pc) ∧
      (a.toNat % n = 0 → ∀ e, s.locate s.cdie none a .amo s.cc.smode = .error e →
        ∃ t, exec i s = .next t ∧ Trapped s t e.code e.val s.cc.pc) ∧
      (a.toNat % n = 0 → ∀ loc, s.locate s.cdie none a .amo s.cc.smode = .ok loc →
        (s.inFlight s.cdie (pathOf a) loc n = true → exec i s = .next s) ∧
        (s.inFlight s.cdie (pathOf a) loc n = false → ∀ e, s.readLoc loc a n = .error e →
          ∃ t, exec i s = .next t ∧ Trapped s t e.code e.val s.cc.pc))) ∧
    (∀ loc l, a.toNat % n = 0 → s.locate s.cdie none a .amo s.cc.smode = .ok loc →
      s.inFlight s.cdie (pathOf a) loc n = false → s.readLoc loc a n = .ok l →
      let old := leNat l
      let v := (s.cc.get o).toNat % 2 ^ (8 * n)
      let w := (s.cc.get (o + 1)).toNat % 2 ^ (8 * n)
      Claims.AtomicDone (.amadd z d ar o g) s d loc n old (some ((old + v) % 2 ^ (8 * n))) ∧
      Claims.AtomicDone (.amand z d ar o g) s d loc n old (some (old &&& v)) ∧
      Claims.AtomicDone (.amor z d ar o g) s d loc n old (some (old ||| v)) ∧
      Claims.AtomicDone (.ammin z d ar o g) s d loc n old
        (some (if Claims.signedOf n v < Claims.signedOf n old then v else old)) ∧
      Claims.AtomicDone (.ammax z d ar o g) s d loc n old
        (some (if Claims.signedOf n old < Claims.signedOf n v then v else old)) ∧
      Claims.AtomicDone (.amxch z d ar o g) s d loc n old (some v) ∧
      Claims.AtomicDone (.amcas z d ar o g) s d loc n old (if old = v then some w else none))

/-- The condition under which WAITV waits (R129). -/
def Sys2Proof.Claims.waits (z : BitVec 2) (v x : Word) : Prop :=
  match z.toNat with
  | 0 => v = x
  | 1 => v ≠ x
  | 2 => v.toNat < x.toNat
  | _ => x.toNat ≤ v.toNat

/-- WAITV completes on a read that finds its condition failed, and writes that value to D; while the condition holds it is
executed again: no register and no byte changes. Misaligned addresses raise ALIGN; CONST and VIEW raise ACCESS; a failing
read its trap (R129, R366). -/
def Sys2Proof.Claims.WaitvResults : Prop :=
  ∀ (s : State) (z : BitVec 2) (d ar o : BitVec 6) (g : BitVec 4), s.cc.guard g = true →
    let a := s.cc.get ar
    (a.toNat % 8 ≠ 0 → ∃ t, exec (.waitv z d ar o g) s = .next t ∧ Trapped s t 0x03 a s.cc.pc) ∧
    (a.toNat % 8 = 0 → (pathOf a = 2 ∨ pathOf a = 3) →
      ∃ t, exec (.waitv z d ar o g) s = .next t ∧ Trapped s t 0x05 a s.cc.pc) ∧
    (a.toNat % 8 = 0 → pathOf a ≠ 2 → pathOf a ≠ 3 →
      (∀ e, s.loadBytes s.cdie a 8 true = .error e →
        ∃ t, exec (.waitv z d ar o g) s = .next t ∧ Trapped s t e.code e.val s.cc.pc) ∧
      (∀ l u, s.loadBytes s.cdie a 8 true = .ok (l, u) →
        let v := BitVec.ofNat 64 (leNat l)
        (¬ Claims.waits z v (s.cc.get o) → ∃ t, exec (.waitv z d ar o g) s = .next t ∧ Claims.GoesOn s t ∧
          t.cc.get d = v ∧ SameRegsBut s.cc t.cc d ∧ SameBytes s t) ∧
        (Claims.waits z v (s.cc.get o) → ∃ t, exec (.waitv z d ar o g) s = .next t ∧ t.cc.pc = s.cc.pc ∧ t.cc.a = s.cc.a ∧
          t.cc.p = s.cc.p ∧ SameBytes s t)))

/-- The atomics of a control core, and the waiting load (R129, R212, R255, R366). -/
def Obligations.AtomicAndWaitvResults : Prop := Claims.AtomicResults ∧ Claims.WaitvResults

/-- A fence that no earlier one holds back and that is complete has its effect at once; any other joins the fences that have issued
and are not complete, with the numbers, tickets and counts of what it waits for. Either way the pc goes on and no register and no
byte changes; later accesses outside its successor set go on, those in it are held back (R208, R289). -/
def Sys2Proof.Claims.FenceIssues : Prop :=
  ∀ (s : State) (pset sset : BitVec 8) (scope : BitVec 3),
    let f := s.fenceNow s.cdie pset sset scope.toNat
    let go (t : State) : Prop := exec (.fence pset sset scope) s = .next t ∧ Claims.GoesOn s t ∧ t.cc.a = s.cc.a ∧ SameBytes s t ∧
      SameSystem s t ∧ t.launches = s.launches
    (f.pset = pset ∧ f.sset = sset ∧ f.scope = scope.toNat ∧ f.upto = s.cc.stSeq ∧
      f.strm = (if pset.getLsbD 3 then (s.die s.cdie).streamCmds else []) ∧
      f.nb = (if pset.getLsbD 7 then s.baseCmds s.cdie else [])) ∧
    (s.cc.fences = [] → s.fenceDone s.cdie f = true → ∃ t, go t ∧ t.cc.fences = [] ∧
      (sset.getLsbD 0 = true → t.cc.early = []) ∧
      (scope ≠ 0 → t.cc.stq = s.cc.stq ∧
        (sset.getLsbD 0 = true → t.cc.dcache = [] ∧ t.cc.ccache = [] ∧ (t.die s.cdie).vcache = [])) ∧
      (scope = 0 → t.cc.stq = s.cc.stq.map (fun e => { e with
          core := e.core || ((pset.getLsbD 1 || pset.getLsbD 6 && pathOf e.addr == 5) && decide (e.seq < s.cc.stSeq)) }) ∧
        t.cc.dcache = s.cc.dcache ∧ t.cc.ccache = s.cc.ccache)) ∧
    ((s.cc.fences ≠ [] ∨ s.fenceDone s.cdie f = false) → ∃ t, go t ∧ t.cc = { s.cc with
      pc := s.cc.pc + 4, fences := s.cc.fences ++ [f] } ∧ OnlyCore s t)

/-- What a fence waits for: at a scope above CORE, every store of its predecessor set and every token (ST) that the core issued
before it, in flight or, from PKG on, not yet seen by every die, and at SYS by the host; stream commands and base-die commands it
names; at CORE scope no store. A fence of no such set is complete at once (R208, R210, R217, R239). The queues are the model's
(log 5). -/
def Sys2Proof.Claims.FenceWaits : Prop :=
  ∀ (s : State) (d : Nat) (f : Fence),
    let left := s.fenceStores d f = false
    (f.scope ≠ 0 → f.pset.getLsbD 1 = true → ∀ e, e ∈ (s.core d).stq → e.seq < f.upto → left) ∧
    (f.scope ≠ 0 → f.pset.getLsbD 6 = true → ∀ e, e ∈ (s.core d).stq → e.seq < f.upto → pathOf e.addr = 5 → left) ∧
    (f.scope ≠ 0 → f.pset.getLsbD 1 = true → ∀ k x t, (k, x) ∈ s.dies → t ∈ x.core.tokIn → t.src = d → t.seq < f.upto → left) ∧
    (2 ≤ f.scope → f.pset.getLsbD 1 = true → ∀ e, e ∈ s.stale → e.die = d → e.seq < f.upto →
      (4 ≤ f.scope ∨ e.host = false) → left) ∧
    (∀ e, e ∈ f.strm → e ∈ (s.die d).streamCmds → left) ∧ (∀ e, e ∈ f.nb → e ∈ s.baseCmds d → left) ∧
    (f.strm = [] → f.xmat = [] → f.nb = [] → (f.scope = 0 ∨ f.pset &&& 0x42 = 0) → s.fenceStores d f = true) ∧
    ((f.pset.getLsbD 1 = false ∨ f.sset.getLsbD 5 = false ∨ f.scope = 0) → s.fenceDone d f = s.fenceStores d f)

/-- The members of R208 that an instruction has as a later access hold it back while a fence of the core names one and is not
complete; an instruction with none, or with a false guard, is never held (R208, R289). -/
def Sys2Proof.Claims.FenceHoldsBack : Prop :=
  ∀ (s : State) (w : BitVec 2) (d b : BitVec 6) (sz : BitVec 2) (off g : BitVec 4) (i : Instr),
    let named (m : BitVec 8) : Prop := ∃ f, f ∈ s.cc.fences ∧ f.sset &&& m ≠ 0
    (s.cc.wait = .none → s.cc.guard g = true → pathOf (Claims.mAddr s b sz off) ≠ 4 → pathOf (Claims.mAddr s b sz off) ≠ 5 →
      (s.held (.ld w d b sz off g) = true ↔ named 0x01) ∧ (s.held (.st w d b sz off g) = true ↔ named 0x02)) ∧
    (s.cc.wait = .none → s.cc.guard g = true → pathOf (Claims.mAddr s b sz off) = 4 →
      (s.held (.ld w d b sz off g) = true ↔ named 0x21)) ∧
    (s.cc.wait = .none → s.cc.guard g = true →
      (s.held (.scpy d b b g) = true ↔ named 0x08) ∧ (s.held (.xcmd d b g) = true ↔ named 0x10) ∧
      (s.held (.nbop d b g) = true ↔ named 0x80) ∧ (s.held (.sendt d b b g) = true ↔ named 0x02)) ∧
    (s.members i = 0 → s.held i = false) ∧
    s.members (.add d b b g) = 0 ∧ s.members (.go d g) = 0 ∧ s.members (.br g 0) = 0 ∧
    (s.cc.guard g = false → s.members (.ld w d b sz off g) = 0)

/-- FENCE: its issue, what it waits for, and what it holds back (R207, R208, R209, R289). -/
def Obligations.FenceResults : Prop := Claims.FenceIssues ∧ Claims.FenceWaits ∧ Claims.FenceHoldsBack

/-! ### Control core: system -/

/-- The feature word of a leaf (R140), for the G2 profile (`true`) and the G3 profile. -/
def Sys2Proof.Claims.feature (g2 : Bool) (leaf : Nat) : Nat :=
  match leaf, g2 with
  | 0, false => 0x030303
  | 0, true => 0x020303
  | 1, _ => 0x001FFFFF
  | 2, false => 0x081018304008
  | 2, true => 0x050B10202808
  | 3, false => 0xFF
  | 3, true => 0x7F
  | 4, false => 0x100800080F
  | 4, true => 0
  | 5, false => 0x040040080800
  | 5, true => 0x040040080400
  | 6, _ => 0x08080810
  | _, _ => 0

/-- QFEAT writes the word of R140 for its leaf, of the running profile, to D; it has no guard and never faults after
decode; leaves 0 to 3 are FEAT0 to FEAT3 (R337). -/
def Obligations.FeatureWords : Prop :=
  ∀ (s : State) (d : BitVec 6) (i : BitVec 10),
    let word (v : Word) : Prop := v.toNat = Claims.feature (s.die s.cdie).g2 i.toNat
    Completes (.qfeat d i) s d 4 word ∧ (i.toNat < 4 → Completes (.rdsys d i) s d 4 word) ∧
    decodeCore 0x60050002 0 = .ok (.qfeat 5 2)

/-- The registers of R235 with their view (`true`: readable in K mode) and the bits of a read. -/
def Sys2Proof.Claims.sysValue (s : State) (n : Nat) : Option (Bool × Word) :=
  let c := s.cc
  match n with
  | 0x010 => some (true, c.diex &&& 0xFF)
  | 0x011 => some (true, c.diey &&& 0xFF)
  | 0x012 => some (true, c.dien &&& 0xFFFF)
  | 0x018 => some (true, (s.launchAt s.cdie).lcyc)
  | 0x020 => some (false, c.trapc &&& 0x1FFF)
  | 0x021 => some (false, c.trappc)
  | 0x022 => some (false, c.trapval)
  | 0x028 => some (false, c.htab &&& 0x0000FFFFFFFFFE00)
  | 0x029 => some (false, c.ptbase &&& 0x000FFFFFFFFFF000)
  | 0x030 => some (false, s.mgmt.ageLimit.setWidth 64)
  | 0x038 => some (false, s.mgmt.alarmLevel.setWidth 64)
  | 0x039 => some (false, s.mgmt.alarms.setWidth 64)
  | 0x040 => some (false, s.mgmt.frzrec &&& 0x0000007FFFFFFC1F)
  | _ => if n < 4 then some (true, BitVec.ofNat 64 (Claims.feature (s.die s.cdie).g2 n)) else none

/-- What a read of register `n` gives once it has been written with `v`: RO registers keep their value, reserved bits read
as zero, a lower LEVEL is ignored and a one in ALARMS clears its bit (R234, R235). -/
def Sys2Proof.Claims.sysAfter (n : Nat) (old v : Word) : Word :=
  match n with
  | 0x020 => v &&& 0x1FFF
  | 0x021 => v
  | 0x022 => v
  | 0x028 => v &&& 0x0000FFFFFFFFFE00
  | 0x029 => v &&& 0x000FFFFFFFFFF000
  | 0x030 => v &&& 0xFFFFFFFF
  | 0x038 => if v.toNat % 4 < old.toNat then old else v &&& 3
  | 0x039 => old &&& ~~~v
  | 0x040 => v &&& 0x0000007FFFFFFC1F
  | _ => old

/-- RDSYS of every assigned register that the mode may read writes its value to D and changes nothing else; outside its
view PRIV, an unassigned number ILL (R234, R235, R340). -/
def Sys2Proof.Claims.SystemRegisterReads : Prop :=
  ∀ (s : State) (d : BitVec 6) (i : BitVec 10),
    match Claims.sysValue s i.toNat with
    | some (u, x) =>
      ((u = true ∨ s.cc.smode = true) → Completes (.rdsys d i) s d 4 (fun v => v = x)) ∧
      (u = false → s.cc.smode = false → ∃ t, exec (.rdsys d i) s = .next t ∧ Trapped s t 0x02 (i.setWidth 64) s.cc.pc)
    | none => ∃ t v, exec (.rdsys d i) s = .next t ∧ Trapped s t 0x01 v s.cc.pc

/-- WRSYS of every assigned register that the mode may access: a read of the register afterwards gives the written value
under the register's rules, a read of any other gives what it gave before; no general register, no predicate and no byte
changes; outside the view PRIV, an unassigned number ILL (R234, R235, R340). -/
def Sys2Proof.Claims.SystemRegisterWrites : Prop :=
  ∀ (s : State) (r : BitVec 6) (i : BitVec 10),
    match Claims.sysValue s i.toNat with
    | some (u, x) =>
      ((u = true ∨ s.cc.smode = true) → ∃ t, exec (.wrsys r i) s = .next t ∧ t.cc.a = s.cc.a ∧ t.cc.p = s.cc.p ∧
        t.cc.smode = s.cc.smode ∧ t.cc.pc = s.cc.pc + 4 ∧ SameBytes s t ∧
        Claims.sysValue t i.toNat = some (u, Claims.sysAfter i.toNat x (s.cc.get r)) ∧
        ∀ n, n ≠ i.toNat → Claims.sysValue t n = Claims.sysValue s n) ∧
      (u = false → s.cc.smode = false → ∃ t, exec (.wrsys r i) s = .next t ∧ Trapped s t 0x02 (i.setWidth 64) s.cc.pc)
    | none => ∃ t v, exec (.wrsys r i) s = .next t ∧ Trapped s t 0x01 v s.cc.pc

/-- RDSYS and WRSYS (R234, R235, R340). -/
def Obligations.SystemRegisterResults : Prop := Claims.SystemRegisterReads ∧ Claims.SystemRegisterWrites

/-- TRAP #n enters S mode at the firmware vector with SOFT in TRAPC, n in TRAPVAL and the next instruction's address in
TRAPPC; taken in K mode it is recorded for the launch of its die unless the die has a fault recorded already (R230, R233,
R234, R360). -/
def Sys2Proof.Claims.SoftTrapEntry : Prop :=
  ∀ (s : State) (i : BitVec 10), ∃ t, exec (.trap i) s = .next t ∧
    Trapped s t 0x14 (i.setWidth 64) (s.cc.pc + 4) ∧
    ∀ l, s.cc.smode = false → s.launchOf s.cdie = some l → (s.launch l).phase ≠ .ended →
      (s.launch l).faults.any (fun f => f.die == s.cc.dien.toNat) = false →
      ∃ f, (t.launch l).faults = (s.launch l).faults ++ [f] ∧ f.code = 0x14 ∧ f.src = 3 ∧ f.die = s.cc.dien.toNat

/-- ERET in S mode under a true guard sets the mode to TRAPC.PMODE and continues at TRAPPC, and a trap followed by ERET
resumes at the saved address in the mode before it; HALT stops the core: its turns change nothing (R234, R280, R296). -/
def Sys2Proof.Claims.ReturnAndHalt : Prop :=
  (∀ (s : State) (g : BitVec 4), s.cc.guard g = true → s.cc.smode = true →
    ∃ t, exec (.eret g) s = .next t ∧ OnlyCore s t ∧
      t.cc = { s.cc with smode := s.cc.trapc.getLsbD 12, pc := s.cc.trappc }) ∧
  (∀ (s t : State) (i : BitVec 10), exec (.trap i) s = .next t →
    ∃ u, exec (.eret 0) t = .next u ∧ u.cc.smode = s.cc.smode ∧ u.cc.pc = s.cc.pc + 4 ∧ u.cc.a = s.cc.a ∧ u.cc.p = s.cc.p) ∧
  (∀ (s : State) (g : BitVec 4), s.cc.guard g = true →
    ∃ t, exec (.halt g) s = .next t ∧ OnlyCore s t ∧ t.cc = { s.cc with halted := true, pc := s.cc.pc + 4 }) ∧
  (∀ (s : State) (d : Nat) (rest : List Turn), s.agenda = .core d :: rest → (s.core d).halted = true →
    step s = .next { s with agenda := rest, cur := (d, 0, 0) })

/-- TRAP enters S mode; ERET returns; HALT stops (R230, R233, R234, R280, R296, R360). -/
def Obligations.TrapReturnAndHalt : Prop := Claims.SoftTrapEntry ∧ Claims.ReturnAndHalt

/-- ERET, KEYLD and ATTQ raise PRIV in K mode whatever their guard; the value in TRAPVAL is the model's (R128, R280). -/
def Obligations.PrivilegedInstructionsTrap : Prop :=
  ∀ (s : State) (d x y : BitVec 6) (g : BitVec 4), s.cc.smode = false →
    (∃ t v, exec (.eret g) s = .next t ∧ Trapped s t 0x02 v s.cc.pc) ∧
    (∃ t v, exec (.keyld d x y g) s = .next t ∧ Trapped s t 0x02 v s.cc.pc) ∧
    (∃ t v, exec (.attq d x y g) s = .next t ∧ Trapped s t 0x02 v s.cc.pc)

/-- SENDT with its zero bits zero to a die of the launch in this package whose queue of 16 is not full puts the token on
its way, as one more store of its core, and writes status 1; a set zero bit gives 2, a die outside the launch 3; a full queue stalls
the sender (R236, R239, R348). To a die of another package status 1 has no effect in this package, whose queue is then taken to have
room: the model's choice (log 13). -/
def Sys2Proof.Claims.SendTokenResults : Prop :=
  ∀ (s : State) (d x y : BitVec 6) (g : BitVec 4), s.cc.guard g = true →
    let a := s.cc.get x
    let tok := s.cc.get y
    ((2 ^ 16 ≤ a.toNat ∨ 2 ^ 38 ≤ tok.toNat) → Completes (.sendt d x y g) s d 4 (fun v => v = 2)) ∧
    (a.toNat < 2 ^ 16 → tok.toNat < 2 ^ 38 →
      (s.physDie (s.launchAt s.cdie) a.toNat = none → Completes (.sendt d x y g) s d 4 (fun v => v = 3)) ∧
      (s.physDie (s.launchAt s.cdie) a.toNat = some none → Completes (.sendt d x y g) s d 4 (fun v => v = 1)) ∧
      (∀ pd, s.physDie (s.launchAt s.cdie) a.toNat = some (some pd) →
        let n := (s.core pd).evq.length + (s.core pd).tokIn.length
        (n < 16 → ∃ t, exec (.sendt d x y g) s = .next t ∧ SameOutsideDies s t ∧ t.cc.get d = 1 ∧
          SameRegsBut s.cc t.cc d ∧ t.cc.pc = s.cc.pc + 4 ∧ t.cc.p = s.cc.p ∧
          (t.core pd).tokIn = (s.core pd).tokIn ++ [⟨tok, s.cdie, s.cc.stSeq⟩] ∧ t.cc.stSeq = s.cc.stSeq + 1 ∧
          (t.core pd).evq = (s.core pd).evq ∧
          ∀ e, e ≠ pd → e ≠ s.cdie → t.die e = s.die e) ∧
        (16 ≤ n → exec (.sendt d x y g) s = .next s)))

/-- WAITE with a queued token removes the oldest, writes it to D and the next instruction's address to S1, and continues
at the token's handler; a word that names one register for both is refused, so it raises ILL. With an
empty queue it stalls, unless no token is on its way and every other core of the launch has halted: then it raises SCHED (R236, R296,
R365). Whether a core of another package has halted is a free bit (log 13). -/
def Sys2Proof.Claims.WaitTokenResults : Prop :=
  ∀ (s : State) (d x : BitVec 6) (g : BitVec 4), s.cc.guard g = true →
    let x0 := s.launchAt s.cdie
    let others := (∀ e, e ∈ s.localDies x0 → e.2 ≠ s.cdie → (s.core e.2).halted = true) ∧
      (s.isLocal x0 = true ∨ Config.remoteHalted s.cycle 0 = true)
    (∀ tok h q, d ≠ x → s.cc.evq = (tok, h) :: q → ∃ t, exec (.waite d x g) s = .next t ∧ OnlyCore s t ∧
      t.cc.get d = tok ∧ t.cc.get x = s.cc.pc + 4 ∧ (∀ r, r ≠ d → r ≠ x → t.cc.get r = s.cc.get r) ∧
      t.cc = { s.cc with a := t.cc.a, evq := q, pc := h }) ∧
    (s.cc.evq = [] → s.cc.tokIn ≠ [] → exec (.waite d x g) s = .next s) ∧
    (s.cc.evq = [] → ¬others → exec (.waite d x g) s = .next s) ∧
    (s.cc.evq = [] → s.cc.tokIn = [] → others → ∃ t v, exec (.waite d x g) s = .next t ∧ Trapped s t 0x07 v s.cc.pc) ∧
    (∀ w y : BitVec 32, w.toNat / 2 ^ 24 = 0x66 → w.toNat / 2 ^ 16 % 2 ^ 6 = w.toNat / 2 ^ 10 % 2 ^ 6 → ∃ e, decodeCore w y = .error e)

/-- SENDT and WAITE (R236, R239, R348, R365). -/
def Obligations.TokenInstructionResults : Prop := Claims.SendTokenResults ∧ Claims.WaitTokenResults

/-- KEYLD in S mode: a reserved bit or domain 0 for a slot other than 0 gives status 2; when the 72 bytes are read, a failed
unwrap gives 3 and leaves every slot, and a good one loads exactly the named slot with its domain and gives 1 (R242, R307). That a
source that is not 8 B aligned raises ALIGN, as the loads that read it would, is the model's reading (DEDUCED, log 23). -/
def Sys2Proof.Claims.KeyLoadResults : Prop :=
  ∀ (s : State) (d x y : BitVec 6) (g : BitVec 4), s.cc.guard g = true → s.cc.smode = true →
    let v := s.cc.get x
    let a := s.cc.get y
    let n := bitsOf v 0 10
    let dom := bitsOf v 10 10
    ((bitsOf v 20 44 ≠ 0 ∨ (dom = 0 ∧ n ≠ 0)) → Completes (.keyld d x y g) s d 4 (fun r => r = 2)) ∧
    (bitsOf v 20 44 = 0 → (dom ≠ 0 ∨ n = 0) →
      (a.toNat % 8 ≠ 0 → ∃ t, exec (.keyld d x y g) s = .next t ∧ Trapped s t 0x03 a s.cc.pc) ∧
      (∀ l u, a.toNat % 8 = 0 → s.loadRange s.cdie true false 72 a 72 = .ok (l, u) →
        ∃ t, exec (.keyld d x y g) s = .next t ∧ SameBytes s t ∧ SameRegsBut s.cc t.cc d ∧ t.cc.pc = s.cc.pc + 4 ∧
          t.cc.p = s.cc.p ∧ SameSpecial s.cc t.cc ∧
          (Config.keyUnwrap l = none → t.cc.get d = 3 ∧ ∀ m, t.keySlot m = s.keySlot m) ∧
          (∀ k, Config.keyUnwrap l = some k → t.cc.get d = 1 ∧
            t.keySlot n = some ⟨if n = 0 then 0 else dom, k⟩ ∧ ∀ m, m ≠ n → t.keySlot m = s.keySlot m)))

/-- ATTQ in S mode: a misaligned destination gives status 2, an exhausted signature count 4; when the nonce is read and the
stores of the 2,956 bytes of the quote are issued, status 1, one signature more is spent and no other register changes (R245, R259). -/
def Sys2Proof.Claims.AttestationResults : Prop :=
  ∀ (s : State) (d x y : BitVec 6) (g : BitVec 4), s.cc.guard g = true → s.cc.smode = true →
    let dest := s.cc.get y
    (dest.toNat % 8 ≠ 0 → Completes (.attq d x y g) s d 4 (fun r => r = 2)) ∧
    (dest.toNat % 8 = 0 → 2 ^ 20 ≤ s.mgmt.sigs → Completes (.attq d x y g) s d 4 (fun r => r = 4)) ∧
    (∀ l u w, dest.toNat % 8 = 0 → s.mgmt.sigs < 2 ^ 20 → s.loadRange s.cdie false false 64 (s.cc.get x) 64 = .ok (l, u) →
      u.storeRange s.cdie 2956 dest (u.quoteHead l ++ Config.xmssSign (digestOf (u.quoteHead l)) s.mgmt.sigs) = .ok w →
      ∃ t, exec (.attq d x y g) s = .next t ∧ t.cc.get d = 1 ∧ SameRegsBut s.cc t.cc d ∧ t.cc.pc = s.cc.pc + 4 ∧
        t.mgmt.sigs = s.mgmt.sigs + 1 ∧ SameSpecial s.cc t.cc ∧ t.cc.stq = w.cc.stq ∧ ∀ k, t.byte k = w.byte k)

/-- KEYLD and ATTQ (R242, R245). -/
def Obligations.KeyAndAttestationResults : Prop := Claims.KeyLoadResults ∧ Claims.AttestationResults

/-! ### Control core: streams, the fabric, derived regions, base dies -/

/-- A status: one register takes it, nothing else changes. -/
def Sys2Proof.Claims.Status (i : Instr) (s : State) (d : BitVec 6) (n : Nat) : Prop := Completes i s d 4 (fun v => v.toNat = n)

/-- The core has gone on to the next instruction with `v` in D; nothing outside its die changes. -/
def Sys2Proof.Claims.DieReturns (s t : State) (d : BitVec 6) (v : Nat) : Prop :=
  SameOutsideDies s t ∧ OnlyDie s t s.cdie ∧ (t.cc.get d).toNat = v ∧ SameRegsBut s.cc t.cc d ∧
  t.cc.pc = s.cc.pc + 4 ∧ t.cc.p = s.cc.p ∧ SameSpecial s.cc t.cc

/-- Stream engine `n` of the executing die holds one command more, `c`, pending under the ticket of count `k`; the other
engines, the banks and the fabric are as before. -/
def Sys2Proof.Claims.Queued (s t : State) (n k : Nat) (c : SCmd) : Prop :=
  let e := (s.die s.cdie).engine n
  let f := (t.die s.cdie).engine n
  f.cmds = e.cmds ++ [c] ∧ f.count = e.count + 1 ∧ f.state k = 0 ∧ c.ticket = n * 2 ^ 28 + k ∧ c.started = false ∧
  (∀ m, m ≠ n → (t.die s.cdie).engine m = (s.die s.cdie).engine m) ∧
  t.die s.cdie = { s.die s.cdie with core := t.cc, engines := (t.die s.cdie).engines }

/-- SCPY, SSTG and SEVC put the record of eight registers into engine a[S2][3:0] and write the ticket of R352 to D, which
SSTAT finds pending (the count of free choices moves on, log 19); while the engine holds 64 commands the core stalls (R200, R346,
R349, R354). -/
def Obligations.StreamCommandIssue : Prop :=
  ∀ (s : State) (d r x : BitVec 6) (g : BitVec 4) (i : Instr),
    s.cc.guard g = true → (i = .scpy d r x g ∨ i = .sstg d r x g ∨ i = .sevc d r x g) →
    let n := (s.cc.get x).toNat % 16
    let e := (s.die s.cdie).engine n
    let k := (e.count + 1) % 2 ^ 28
    (e.cmds.length < 64 → ∃ t c, exec i s = .next t ∧ Claims.DieReturns s { t with freeCtr := s.freeCtr } d (n * 2 ^ 28 + k) ∧
      Claims.Queued s t n k c ∧
      (∀ j, j < 8 → c.words[j]? = some (s.cc.get (r + BitVec.ofNat 6 j))) ∧ c.port = none) ∧
    (64 ≤ e.cmds.length → exec i s = .next s)

/-- Which record and binding word SBIND refuses, by R345, R98, R104 and R106: 2 for a reserved bit of the word or the record, or an
address, stride or CREC off its alignment; 3 for a fabric side on a path other than GEN and NODE, on a GEN page that does not
translate or is not pinned, and for another side whose path R98 does not allow; a record that publishes nothing and whose first
element lies in the running declared set is never bound (R111). The order of the checks is the model's (log 23). -/
def Sys2Proof.Claims.BindRefusals : Prop :=
  ∀ (s : State) (d r x : BitVec 6) (g : BitVec 4), s.cc.guard g = true →
    let w (k : Nat) : Nat := (s.cc.get (r + BitVec.ofNat 6 k)).toNat
    let b := (s.cc.get x).toNat
    let size := 2 ^ (w 5 % 4)
    let side := if b / 2 ^ 9 % 2 = 1 then w 0 else w 1
    let other := if b / 2 ^ 9 % 2 = 1 then w 1 else w 0
    let stride (k : Nat) : Nat := w (3 + k / 2) / 2 ^ (32 * (k % 2)) % 2 ^ 32
    let zero := b < 2 ^ 10 ∧ b / 2 ^ 6 % 4 = 0 ∧ w 5 / 4 % 2 ^ 6 = 0 ∧ w 5 / 2 ^ 13 % 2 ^ 19 = 0 ∧ w 5 < 2 ^ 48 ∧
      w 6 / 2 ^ 4 % 2 ^ 4 = 0 ∧ w 6 < 2 ^ 16
    let even := w 0 % size = 0 ∧ w 1 % size = 0 ∧ (∀ k, k < 4 → stride k % size = 0) ∧ w 7 % 32 = 0
    let path (a : Nat) : Nat := a / 2 ^ 60
    let page := s.xlate s.cdie none (side % 2 ^ 48)
    let badSide := (path side ≠ 0 ∧ path side ≠ 1) ∨
      path side = 0 ∧ ((∃ e, page = .error e) ∨ ∃ e l, page = .ok (e, l) ∧ e.getLsbD 6 = false)
    let badOther := path other ≥ 10 ∨ (s.cc.smode = false ∧ (path other = 6 ∨ path other = 7)) ∨
      (b / 2 ^ 9 % 2 = 1 ∧ (path other = 2 ∨ path other = 3 ∨ path other = 4 ∨ path other = 8))
    ((¬zero ∨ ¬even) → Claims.Status (.sbind d r x g) s d 2) ∧
    (zero → even → (badSide ∨ badOther) → Claims.Status (.sbind d r x g) s d 3) ∧
    (∀ loc, w 6 / 2 % 2 = 0 → 0 < scTotal (s.cc.getN r 8) → s.nodeAddr s.cdie (s.cc.get (r + 1)) = some loc →
      s.declaredHit loc size = true → ∃ n, n ≠ 1 ∧ n < 5 ∧ Claims.Status (.sbind d r x g) s d n)

/-- SSTAT writes the state and trap code that the engine keeps for the ticket among its last 256 commands, 4 for any other
ticket; SWAIT writes the same, and stalls while the state is 0 (R352). SBIND writes the status of its first failing check,
2 for a reserved bit of the binding word; a good binding enters engine PORT mod 16 and D takes its ticket (R345). -/
def Sys2Proof.Claims.TicketAndBindCompletions : Prop :=
  ∀ (s : State) (d r x : BitVec 6) (g : BitVec 4), s.cc.guard g = true →
    (let t := (s.cc.get r).toNat
     let h := ((s.die s.cdie).engine (t / 2 ^ 28 % 16)).hist.find? (fun h => h.1 == t % 2 ^ 28)
     (h = none → Claims.Status (.sstat d r g) s d 4 ∧ Claims.Status (.swait d r g) s d 4) ∧
     (∀ k st fc, h = some (k, st, fc) → Claims.Status (.sstat d r g) s d (st.toNat + fc.toNat * 256) ∧
       (st ≠ 0 → Claims.Status (.swait d r g) s d (st.toNat + fc.toNat * 256)) ∧
       (st = 0 → exec (.swait d r g) s = .next s))) ∧
    (let b := s.cc.get x
     let n := b.toNat % 16
     let e := (s.die s.cdie).engine n
     let k := (e.count + 1) % 2 ^ 28
     let res := s.bindCheck s.cdie 3 (s.cc.getN r 8) b s.cc.smode
     ((2 ^ 10 ≤ b.toNat ∨ b.toNat / 64 % 4 ≠ 0) → Claims.Status (.sbind d r x g) s d 2) ∧
     (∀ st, res = (st, none) → st < 5 ∧ Claims.Status (.sbind d r x g) s d st) ∧
     (∀ st c, res = (st, some c) → st = 1 ∧ c.port = some (b.toNat % 64) ∧
       (e.cmds.length < 64 → ∃ t, exec (.sbind d r x g) s = .next t ∧
         Claims.DieReturns s t d (1 + (n * 2 ^ 28 + k) * 2 ^ 32) ∧ Claims.Queued s t n k { c with ticket := n * 2 ^ 28 + k }) ∧
       (64 ≤ e.cmds.length → exec (.sbind d r x g) s = .next s)))

/-- SSTAT, SWAIT and SBIND (R104, R111, R345, R352). -/
def Obligations.TicketAndBindResults : Prop := Claims.TicketAndBindCompletions ∧ Claims.BindRefusals

/-- CFGL writes 2 for a bit above 7, 3 for a load the image lacks, else 1, and that load's prefetch begins (R264). CFGP waits
while a prefetch is in progress; it writes 2 for a reserved bit or a constant above Z5, 3 where no CE stands, else 1, and
in the shadow set that CE's constant takes the value, its other constants and every other CE stay, and the active set is
as before (R265). -/
def Obligations.ShadowConfigurationResults : Prop :=
  ∀ (s : State) (d r : BitVec 6) (g : BitVec 4), s.cc.guard g = true →
    let x := s.die s.cdie
    (let v := (s.cc.get r).toNat
     (256 ≤ v → Claims.Status (.cfgl d r g) s d 2) ∧
     (v < 256 → (s.launchAt s.cdie).hasLoad v = false → Claims.Status (.cfgl d r g) s d 3) ∧
     (v < 256 → (s.launchAt s.cdie).hasLoad v = true → ∃ t, exec (.cfgl d r g) s = .next t ∧ Claims.DieReturns s t d 1 ∧
       t.cc.cfgl = true ∧ t.die s.cdie = { x with core := t.cc, prefetch := some v })) ∧
    (let w := (s.cc.get r).toNat
     let v := (s.cc.get (r + 1)).toNat
     let ring := w / 2 ^ 12 % 64
     let sl := w / 2 ^ 6 % 64
     let z := w % 8
     let bad := 2 ^ 18 ≤ w ∨ w / 8 % 8 ≠ 0 ∨ 2 ^ 32 ≤ v ∨ 5 < z
     let out := sl % 2 ≠ 0 ∨ slotsOf x.g2 ≤ sl ∨ ringsOf x.g2 ≤ ring
     (x.prefetch.isSome = true → exec (.cfgp d r g) s = .next s) ∧
     (x.prefetch = none → bad → Claims.Status (.cfgp d r g) s d 2) ∧
     (x.prefetch = none → ¬bad → out → Claims.Status (.cfgp d r g) s d 3) ∧
     (x.prefetch = none → ¬bad → ¬out → ∃ t, exec (.cfgp d r g) s = .next t ∧ Claims.DieReturns s t d 1 ∧
       t.die s.cdie = { x with core := t.cc, shd := { x.shd with ce := (t.die s.cdie).shd.ce } } ∧
       let old := x.shd.ceCfg ring sl
       let new := (t.die s.cdie).shd.ceCfg ring sl
       tget 0 new.z z = BitVec.ofNat 32 v ∧ (∀ y, y ≠ z → tget 0 new.z y = tget 0 old.z y) ∧
       new.rows = old.rows ∧ new.stages = old.stages ∧ new.fcfg = old.fcfg ∧
       ∀ k, k ≠ 48 * ring + sl → tget {} (t.die s.cdie).shd.ce k = tget {} x.shd.ce k))

/-- TLOAD waits while a prefetch is in progress; a target that is no place of the die gives 3, a wrong path ACCESS, a
misaligned address ALIGN, a bad record its status or TABLE as the target's TE bit says; a good record of 1,040 bytes goes
into the shadow set, whole, and D takes 1 (R185, R359). -/
def Obligations.TableLoadResults : Prop :=
  ∀ (s : State) (d r : BitVec 6) (g : BitVec 4), s.cc.guard g = true →
    let x := s.die s.cdie
    let a := s.cc.get r
    let w := s.cc.get (r + 1)
    (x.prefetch.isSome = true → exec (.tload d r g) s = .next s) ∧
    (x.prefetch = none →
      (tlTargetOk x.g2 w = false → Claims.Status (.tload d r g) s d 3) ∧
      (tlTargetOk x.g2 w = true →
        (pathOf a ≠ 0 → pathOf a ≠ 1 → ∃ t, exec (.tload d r g) s = .next t ∧ Trapped s t 0x05 a s.cc.pc) ∧
        ((pathOf a = 0 ∨ pathOf a = 1) → a.toNat % 16 ≠ 0 →
          ∃ t, exec (.tload d r g) s = .next t ∧ Trapped s t 0x03 a s.cc.pc) ∧
        (∀ l u, (pathOf a = 0 ∨ pathOf a = 1) → a.toNat % 16 = 0 → s.loadRange s.cdie false false 1040 a 1040 = .ok (l, u) →
          let tab := BitVec.ofNat 8320 (leNat l)
          let st := tlRecord (w.toNat % 4) tab
          (st = 1 → ∃ t, exec (.tload d r g) s = .next t ∧ Claims.GoesOn s t ∧ SameBytes s t ∧ t.cc.get d = 1 ∧
            SameRegsBut s.cc t.cc d ∧ (t.die s.cdie).act = (u.die s.cdie).act ∧
            (t.die s.cdie).shd = (u.die s.cdie).shd.putTable (w.toNat % 4) (w.toNat / 2 ^ 12 % 64) (w.toNat / 2 ^ 6 % 64)
              (w.toNat / 4 % 16) (some tab)) ∧
          (st ≠ 1 → (teOf (x.act.tlFcfg w)).getLsbD 0 = false →
            ∃ t, exec (.tload d r g) s = .next t ∧ Claims.GoesOn s t ∧ SameBytes s t ∧ t.cc.get d = BitVec.ofNat 64 st ∧
              SameRegsBut s.cc t.cc d ∧ (t.die s.cdie).shd = (u.die s.cdie).shd) ∧
          (st ≠ 1 → (teOf (x.act.tlFcfg w)).getLsbD 0 = true →
            ∃ t, exec (.tload d r g) s = .next t ∧ t.cc.smode = true ∧ t.cc.trappc = s.cc.pc ∧
              t.cc.trapval = BitVec.ofNat 64 st ∧ t.cc.trapc.toNat % 2 ^ 8 = 0x0A ∧ t.cc.a = s.cc.a))))

/-- GO waits while a token of the die runs, a store of the core is in flight or a command stages; then it raises SCHED for
a value above 63, a cell that is off or no root, or a running root; else the tree starts: its root runs unless its count
is 0, every region of the tree gets its GO two cycles later with its trip count read, no other register and no byte
changes (R295). -/
def Obligations.GoResults : Prop :=
  ∀ (s : State) (r : BitVec 6) (g : BitVec 4), s.cc.guard g = true →
    let x := s.die s.cdie
    let v := s.cc.get r
    let k := v.toNat % 64
    let w := (x.cell k).1
    let bad := 64 ≤ v.toNat ∨ w.toNat / 2 ^ 62 = 0 ∨ w.toNat / 2 ^ 56 % 64 ≠ k ∨ (x.cellRun k).active = true
    let low (n : Nat) : Nat := (s.cc.get (BitVec.ofNat 6 n)).toNat % 2 ^ 32
    (s.goReady s.cdie = false → exec (.go r g) s = .next s) ∧
    (x.token.isSome = true ∨ s.cc.stq ≠ [] → s.goReady s.cdie = false) ∧
    (s.goReady s.cdie = true → bad → ∃ t, exec (.go r g) s = .next t ∧ Trapped s t 0x07 v s.cc.pc) ∧
    (s.goReady s.cdie = true → ¬bad → ∃ t, exec (.go r g) s = .next t ∧ SameOutsideDies s t ∧ OnlyDie s t s.cdie ∧
      t.cc = { s.cc with pc := s.cc.pc + 4 } ∧
      t.die s.cdie = { x with core := t.cc, regs := (t.die s.cdie).regs, cellRuns := (t.die s.cdie).cellRuns, phase := true } ∧
      (let n := if w.getLsbD 37 then low (w.toNat % 64) else w.toNat % 2 ^ 32
       (t.die s.cdie).cellRun k = { active := decide (n ≠ 0), done := decide (n = 0), n }) ∧
      (∀ m y, m ∈ x.treeRegions k → tget none x.act.rdesc m = some y →
        (t.die s.cdie).reg m = { x.reg m with
          goAt := some (s.cycle + 2)
          enables := 0
          trip := if y.getLsbD 40 then low (y.toNat % 64) else y.toNat % 2 ^ 32 }) ∧
      (∀ m, m ∉ x.treeRegions k → (t.die s.cdie).reg m = x.reg m))

/-- DRAIN first issues the token of its die, lays down a fence of everything before it at scope DIE, and stalls; when step 6 has
completed and that fence is complete, it writes the die's flag summary to D and acts as the fence (R215, R277). PBAR is counted once,
lays down its fence at scope LAUNCH and stalls; it completes when every core of the launch has issued it and each one's fences are
complete, writing no register; a halted core that never reached it makes it raise SCHED (R216, R330). That the two wait as fences
among the core's is the model's (log 5). -/
def Obligations.DrainAndBarrierResults : Prop :=
  ∀ (s : State) (d : BitVec 6) (g : BitVec 4), s.cc.guard g = true →
    let fenced (scope : Nat) : List Fence := s.cc.fences ++ [s.fenceNow s.cdie 0xFF 0xFF scope]
    (s.cc.wait = .none → (s.die s.cdie).token = none → ∃ t, exec (.drain d g) s = .next t ∧ SameOutsideDies s t ∧
      OnlyDie s t s.cdie ∧ t.die s.cdie = { s.die s.cdie with
        core := { s.cc with wait := .drain, fences := fenced 1 }, token := some ⟨1, s.cycle⟩ }) ∧
    (s.cc.wait = .none → (s.die s.cdie).token ≠ none → exec (.drain d g) s = .next s) ∧
    (s.cc.wait = .drain → exec (.drain d g) s = .next s) ∧
    (∀ f, s.cc.wait = .drained f → s.cc.fences ≠ [] → exec (.drain d g) s = .next s) ∧
    (∀ f, s.cc.wait = .drained f → s.cc.fences = [] → ∃ t, exec (.drain d g) s = .next t ∧ SameOutsideDies s t ∧ OnlyDie s t s.cdie ∧
      t.cc.get d = f.setWidth 64 ∧ SameRegsBut s.cc t.cc d ∧
      t.cc = { s.cc with a := t.cc.a, pc := s.cc.pc + 4, wait := .none, dcache := [], ccache := [], early := [] } ∧
      t.die s.cdie = { s.die s.cdie with core := t.cc, vcache := [], derivs := (t.die s.cdie).derivs }) ∧
    (s.cc.wait ≠ .pbar → ∃ t, exec (.pbar g) s = .next t ∧ OnlyCore s t ∧
      t.cc = { s.cc with pbars := s.cc.pbars + 1, wait := .pbar, fences := fenced 3 }) ∧
    (s.cc.wait = .pbar → s.isLocal (s.launchAt s.cdie) = false → Config.remoteHalted s.cycle s.cc.pbars = true →
      ∃ t v, exec (.pbar g) s = .next t ∧ Trapped s t 0x07 v s.cc.pc) ∧
    (let dies := (s.localDies (s.launchAt s.cdie)).map (·.2)
     s.cc.wait = .pbar → s.isLocal (s.launchAt s.cdie) = true →
     ((∃ e, e ∈ dies ∧ (s.core e).halted = true ∧ (s.core e).pbars < s.cc.pbars) →
       ∃ t v, exec (.pbar g) s = .next t ∧ Trapped s t 0x07 v s.cc.pc) ∧
     ((∀ e, e ∈ dies → s.cc.pbars ≤ (s.core e).pbars ∧
         ((s.core e).wait = .pbar → (s.core e).pbars = s.cc.pbars → (s.core e).fences = [])) →
       ∃ t, exec (.pbar g) s = .next t ∧ SameOutsideDies s t ∧
         t.cc = { s.cc with pc := s.cc.pc + 4, wait := .none, dcache := [], ccache := [], early := [] }) ∧
     ((∀ e, e ∈ dies → (s.core e).halted = false) → (∃ e, e ∈ dies ∧ ((s.core e).pbars < s.cc.pbars ∨
         (s.core e).wait = .pbar ∧ (s.core e).pbars = s.cc.pbars ∧ (s.core e).fences ≠ [])) →
       exec (.pbar g) s = .next s))

/-- COLL traps for an untranslatable buffer and for one that touches shadow storage, stalls until the core's stores are performed, is
counted once with its buffer and descriptor, and ends with the collective's status in D; a halted participant that never issued
it makes it raise SCHED (R149, R247, R296). XCMD writes 2 or 3 for a refused command, else it joins the XN's queue of 4, clears its
slot when SETEN is set and gives 1; a full queue stalls (R175); that a slot without an XN gives 3, as a ring of no region does, is
the model's reading (DEDUCED, log 23). XWAIT completes when each slot of its mask has been seen set (R378). -/
def Obligations.CollectiveAndCommandResults : Prop :=
  ∀ (s : State) (d r x : BitVec 6) (g : BitVec 4), s.cc.guard g = true →
    (let a := s.cc.get r
     let f := s.fenceNow s.cdie 0x03 0x03 3
     (∀ st, s.cc.wait = .collDone st → ∃ t, exec (.coll d r x g) s = .next t ∧ SameOutsideDies s t ∧
       t.cc.get d = st.setWidth 64 ∧ SameRegsBut s.cc t.cc d ∧ t.cc.pc = s.cc.pc + 4 ∧ t.cc.wait = .none ∧
       t.cc.p = s.cc.p ∧ SameSpecial s.cc t.cc ∧ t.cc.dcache = [] ∧ t.cc.early = []) ∧
     (s.cc.wait = .none → s.collTrap s.cdie a (s.cc.get x) = none → s.fenceDone s.cdie f = true → ∃ t,
       exec (.coll d r x g) s = .next t ∧ OnlyCore s t ∧
       t.cc = { s.cc with colls := s.cc.colls + 1, collArgs := (a, s.cc.get x), wait := .coll }) ∧
     (s.cc.wait = .none → s.collTrap s.cdie a (s.cc.get x) = none →
       (s.fenceDone s.cdie f = false ∨ ∃ e, e ∈ s.cc.stq ∧ e.seq < s.cc.stSeq) → exec (.coll d r x g) s = .next s) ∧
     (∀ e, s.cc.wait = .none → s.collTrap s.cdie a (s.cc.get x) = some e →
       ∃ t, exec (.coll d r x g) s = .next t ∧ Trapped s t e.code e.val s.cc.pc) ∧
     (s.cc.wait = .none → s.collShadow s.cdie a (s.cc.get x) = true →
       ∃ t, exec (.coll d r x g) s = .next t ∧ Trapped s t 0x05 a s.cc.pc) ∧
     (s.cc.wait = .coll → ∀ e, e ∈ s.localDies (s.launchAt s.cdie) → (s.core e.2).halted = true →
       (s.core e.2).colls < s.cc.colls → ∃ t v, exec (.coll d r x g) s = .next t ∧ Trapped s t 0x07 v s.cc.pc)) ∧
    (let y := s.die s.cdie
     let m := (s.cc.get r).toNat
     let w := s.cc.get (r + 1)
     let ring := m / 8 % 64
     let sl := 6 * (m % 8) + 3
     let bad := 2 ^ 26 ≤ m ∨ m / 2 ^ 9 % 32 ≠ 0 ∨ commandOk y.g2 w = false
     let out := y.act.regionAt ring = none ∨ slotsOf y.g2 ≤ sl
     let q := (s.xn s.cdie ring sl).cmds
     (bad → Claims.Status (.xcmd d r g) s d 2) ∧
     (¬bad → out → Claims.Status (.xcmd d r g) s d 3) ∧
     (¬bad → ¬out → 4 ≤ q.length → exec (.xcmd d r g) s = .next s) ∧
     (¬bad → ¬out → q.length < 4 → ∃ t, exec (.xcmd d r g) s = .next t ∧ Claims.DieReturns s t d 1 ∧
       t.die s.cdie = { y with core := t.cc, xns := (t.die s.cdie).xns } ∧
       t.xn s.cdie ring sl = { s.xn s.cdie ring sl with cmds := q ++ [(s.cc.get r, w)], ncmd := (s.xn s.cdie ring sl).ncmd + 1 } ∧
       (∀ k, k ≠ 48 * ring + sl → tget {} (t.die s.cdie).xns k = tget {} y.xns k) ∧
       ∀ b, b < 8 → t.cc.slots.getLsbD b = (s.cc.slots.getLsbD b && !(m / 2 ^ 25 % 2 == 1 && m / 2 ^ 22 % 8 == b)))) ∧
    (let seen (m : Byte) : Prop := ∀ b, b < 8 → m.getLsbD b = true → s.cc.slots.getLsbD b = true
     (s.cc.wait = .none → seen ((s.cc.get r).setWidth 8) → GoesTo s (s.setCc { s.cc with pc := s.cc.pc + 4 }) (s.cc.pc + 4) ∧
       exec (.xwait r g) s = .next (s.setCc { s.cc with pc := s.cc.pc + 4 })) ∧
     (∀ m, s.cc.wait = .xwait m → seen m →
       exec (.xwait r g) s = .next (s.setCc { s.cc with pc := s.cc.pc + 4, wait := .none })) ∧
     (s.cc.wait = .none → ¬seen ((s.cc.get r).setWidth 8) → ∃ m, exec (.xwait r g) s = .next (s.setCc { s.cc with wait := .xwait m }) ∧
       ∀ b, b < 8 → m.getLsbD b = ((s.cc.get r).getLsbD b && !s.cc.slots.getLsbD b)))


/-- The core has gone on with `v` in D; memory reads as before. -/
def Sys2Proof.Claims.Returns (s t : State) (d : BitVec 6) (v : Nat) : Prop :=
  Claims.GoesOn s t ∧ SameBytes s t ∧ (t.cc.get d).toNat = v ∧ SameRegsBut s.cc t.cc d

/-- Which declaration DDECL refuses on a node of the launch (R147 to R150): 2 for a reserved field, an empty array, a format above
0x0B, a shadow offset that is no multiple of 64, a row stride below the row or off its element, a base beyond the node, a field of
another kind, or a limit of the kind; 3 off the NODE path; 4 for a STREAM node; 5 for a DIX in use or eight regions; 6 for shadow storage
beyond the node or over its own base; 7 for BSCALE in G2. The order of the codes is the model's (log 23). -/
def Sys2Proof.Claims.DeclareRefusals : Prop :=
  ∀ (s : State) (d r : BitVec 6) (g : BitVec 4) (pd ring node : Nat), s.cc.guard g = true → s.cc.wait = .none →
    s.nodeOf (s.cc.get r) = some (some (pd, ring, node)) → r.toNat % 8 = 0 →
    let w (k : Nat) : Nat := (s.cc.get (r + BitVec.ofNat 6 k)).toNat
    let f (k lo n : Nat) : Nat := w k / 2 ^ lo % 2 ^ n
    let rows := f 1 32 32
    let cols := f 1 0 32
    let rstr := f 2 21 21
    let shbase := f 2 0 21
    let kind := f 3 16 3
    let efmt := f 3 0 5
    let bytes := (cols * laneWidth efmt + 7) / 8
    let top := nodeSize (s.die pd).g2
    let reserved := f 0 21 23 ≠ 0 ∨ 2 ^ 42 ≤ w 2 ∨ 2 ^ 32 ≤ w 3 ∨ f 3 23 1 ≠ 0 ∨ f 3 19 1 ≠ 0 ∨ f 3 13 3 ≠ 0 ∨ f 3 5 3 ≠ 0 ∨
      2 ^ 16 ≤ w 5 ∨ f 5 2 6 ≠ 0 ∨ w 6 ≠ 0 ∨ w 7 ≠ 0
    let field := rows = 0 ∨ cols = 0 ∨ 11 < efmt ∨ shbase % 64 ≠ 0 ∨ rstr < bytes ∨ rstr % (max (laneWidth efmt / 8) 1) ≠ 0 ∨
      top < f 0 0 21 + (rows - 1) * rstr + bytes
    let other := (kind ≠ 0 ∧ kind ≠ 1 ∧ kind ≠ 5 ∧ f 3 24 8 ≠ 0) ∨ (kind ≠ 6 ∧ (w 4 ≠ 0 ∨ f 5 8 8 ≠ 0)) ∨
      (kind ≠ 7 ∧ f 5 1 1 ≠ 0)
    let limit := ((kind = 2 ∨ kind = 4) ∧ 4096 < cols) ∨ (kind = 3 ∧ 4096 < rows) ∨
      (kind = 7 ∧ cols % (if f 5 1 1 = 1 then 64 else 32) ≠ 0)
    let bad := derivFieldsBad top (s.cc.getN r 8)
    let mn := (s.die pd).act.mnCfg ring (6 * (node / 2) + 1 + 4 * (node % 2))
    let free := s.deriv pd ring node (f 3 20 3) = none ∧ (s.derivsOf pd ring node).length < 8
    let is := Claims.Status (.ddecl d r g) s d
    ((reserved ∨ field ∨ other ∨ limit) → bad = true) ∧ (bad = true → is 2) ∧ (bad = false → pathOf (s.cc.get r) ≠ 1 → is 3) ∧
    (bad = false → pathOf (s.cc.get r) = 1 → mn.ncfg.toNat % 4 = 0 → is 4) ∧
    (bad = false → pathOf (s.cc.get r) = 1 → mn.ncfg.toNat % 4 ≠ 0 → ¬free → is 5) ∧
    (bad = false → pathOf (s.cc.get r) = 1 → mn.ncfg.toNat % 4 ≠ 0 → free →
      (s.shadowBad pd ring node (s.cc.getN r 8) = true → is 6) ∧
      ((shbase ≤ f 0 0 21 ∧ f 0 0 21 < shbase + (newDerived (s.cc.getN r 8) true).shSize ∨
        top < shbase + (newDerived (s.cc.getN r 8) true).shSize) → is 6) ∧
      (s.shadowBad pd ring node (s.cc.getN r 8) = false → (s.die pd).g2 = true → kind = 7 → is 7))

/-- DDECL on a node of the launch in this package checks in the order of its status codes; then it waits for the core's own
stores to the node, reserves the index while the build runs, and ends with status 1 when the build is done (R150, R273).
DDROP gives 3 for a wrong address, 5 for an undeclared index or one of 8 to 15 (the latter DEDUCED, log 23); it waits for a build or
another core's drop of the region (log 22); with no update pending it frees the region and fills exactly its shadow storage with
zeros, else it fixes what the region shows, as the free prefix of the pending stores that it drops from the list (log 23), waits until
each pending update is complete, and frees it then (R151, R274). DWAIT raises ACCESS off the NODE path, waits for the core's own
stores to the node, and then every region of the node reflects every store that had arrived before its request, and no derived read
taken early remains (R161, R279); a G2 region of exact latency takes no store of after the request into that wait (R139). -/
def Sys2Proof.Claims.DerivedRegionCompletions : Prop :=
  ∀ (s : State) (d r : BitVec 6) (g : BitVec 4) (pd ring node : Nat), s.cc.guard g = true →
    s.nodeOf (s.cc.get r) = some (some (pd, ring, node)) →
    let a := s.cc.get r
    let w := s.cc.getN r 8
    let x := newDerived w true
    let bad := derivFieldsBad (nodeSize (s.die pd).g2) w
    (s.cc.wait = .none → bad = true → Claims.Status (.ddecl d r g) s d 2) ∧
    (s.cc.wait = .none → bad = false → pathOf a ≠ 1 → Claims.Status (.ddecl d r g) s d 3) ∧
    (s.cc.wait = .none → bad = false → pathOf a = 1 →
      let st := s.declStatus pd ring node w
      (st ≠ 1 → Claims.Status (.ddecl d r g) s d st) ∧
      (st = 1 → s.storing s.cdie pd ring node = true → exec (.ddecl d r g) s = .next s) ∧
      (st = 1 → s.storing s.cdie pd ring node = false → ∃ t, exec (.ddecl d r g) s = .next t ∧ SameOutsideDies s t ∧
        t.cc = { s.cc with wait := .ddecl } ∧ t.deriv pd ring node x.dix = some x ∧
        ∀ e, e ≠ s.cdie → e ≠ pd → t.die e = s.die e)) ∧
    (∀ y, s.cc.wait = .ddecl → s.deriv pd ring node x.dix = some y →
      (y.building = true → exec (.ddecl d r g) s = .next s) ∧
      (y.building = false → ∃ t, exec (.ddecl d r g) s = .next t ∧ Claims.DieReturns s t d 1 ∧ t.cc.wait = .none)) ∧
    (let dix := a.toNat / 2 ^ 40 % 16
     ((pathOf a ≠ 4 ∨ a.toNat % 2 ^ 40 ≠ 0) → Claims.Status (.ddrop d r g) s d 3) ∧
     (pathOf a = 4 → a.toNat % 2 ^ 40 = 0 →
       let g2 := (s.die pd).g2
       (s.cc.wait ≠ .ddrop → (8 ≤ dix ∨ s.deriv pd ring node dix = none) → Claims.Status (.ddrop d r g) s d 5) ∧
       (s.cc.wait = .ddrop → (∀ y, dix < 8 → s.deriv pd ring node dix = some y → y.dropAt = none) →
         ∃ t, exec (.ddrop d r g) s = .next t ∧ Claims.DieReturns s t d 1 ∧ t.cc.wait = .none) ∧
       (∀ y, dix < 8 → s.deriv pd ring node dix = some y →
         let dropped := ∃ t, exec (.ddrop d r g) s = .next t ∧ Claims.GoesOn s t ∧ t.cc.get d = 1 ∧ t.cc.wait = .none ∧
           SameRegsBut s.cc t.cc d ∧ t.deriv pd ring node dix = none ∧
           let key := sramKey pd ring node y.shBase
           SameBytesOutside s t key y.shSize ∧ ∀ k, k < y.shSize → t.byte (key + k) = 0
         (s.cc.wait ≠ .ddrop → (y.building = true ∨ y.dropAt ≠ none) → exec (.ddrop d r g) s = .next s) ∧
         (s.cc.wait ≠ .ddrop → y.building = false → y.dropAt = none →
           (y.quiet g2 s.cycle = true → dropped) ∧
           (y.quiet g2 s.cycle = false → ∃ t n e, exec (.ddrop d r g) s = .next t ∧ SameBytes s t ∧
             t.cc = { s.cc with wait := .ddrop } ∧ s.cycle ≤ e ∧
             (∀ u, u ∈ (y.settle g2 s.cycle).undo → u.arrived + y.latency g2 ≤ e) ∧
             t.deriv pd ring node dix = some { y with undo := (y.settle g2 s.cycle).undo.drop n, dropAt := some e })) ∧
         (∀ e, s.cc.wait = .ddrop → y.dropAt = some e →
           (s.cycle < e → exec (.ddrop d r g) s = .next s) ∧ (e ≤ s.cycle → dropped))))) ∧
    ((pathOf a ≠ 1 → ∃ t, exec (.dwait r g) s = .next t ∧ Trapped s t 0x05 a s.cc.pc) ∧
     (pathOf a = 1 → s.storing s.cdie pd ring node = true → exec (.dwait r g) s = .next s) ∧
     (∀ since, pathOf a = 1 → s.storing s.cdie pd ring node = false →
       (s.cc.wait = .dwait since ∨ s.cc.wait = .none ∧ since = s.cycle) →
       (s.reflecting pd ring node since = true →
         ∃ t, exec (.dwait r g) s = .next t ∧ OnlyCore s t ∧ t.cc = { s.cc with wait := .dwait since }) ∧
       (s.reflecting pd ring node since = false → ∃ t, exec (.dwait r g) s = .next t ∧ SameOutsideDies s t ∧
         t.cc = { s.cc with pc := s.cc.pc + 4, wait := .none, early := s.cc.early.filter (fun e => e.path != 4) } ∧
         ∀ n, n < 8 → ∀ y, s.deriv pd ring node n = some y → ∃ z, t.deriv pd ring node n = some { y with undo := z } ∧
           (y.dropAt ≠ none → z = y.undo) ∧
           (y.dropAt = none → ∀ e, e ∈ ({ y with undo := z }.settle (s.die pd).g2 s.cycle).undo →
             s.cycle ≤ e.arrived ∨ y.exact (s.die pd).g2 = true ∧ since < e.arrived))))

/-- DDECL, DDROP and DWAIT on a node of the launch in this package (R147 to R151, R161, R273, R274, R279); what a node of another
package answers is free (log 13), and no clause is about one. -/
def Obligations.DerivedRegionResults : Prop := Claims.DerivedRegionCompletions ∧ Claims.DeclareRefusals

/-- RDIG gives 2 for a reserved bit, a format above 0x0B or a length that is no multiple of a floating-point element, 3 for a
wrong path (that this code covers RDIG's paths is DEDUCED, log 23) and for a NODE address of a die outside the launch, PRIV for a
STACK source in K mode (R98), ALIGN for a digest address that is no multiple of 32 (DEDUCED, log 23); else it reads the range in
address order, makes NaNs canonical, stores SHAKE256 of the bytes as one store and gives 1 (R150, R164, R339). -/
def Obligations.DigestResults : Prop :=
  ∀ (s : State) (d r x : BitVec 6) (g : BitVec 4), s.cc.guard g = true →
    let a := s.cc.get r
    let w := (s.cc.get (r + 1)).toNat
    let dest := s.cc.get x
    let len := w % 2 ^ 32
    let fmt := w / 2 ^ 32 % 32
    let size := if fmt = 0 then 4 else if fmt = 1 ∨ fmt = 2 then 2 else 1
    let bad := 2 ^ 37 ≤ w ∨ 11 < fmt ∨ len % (if fmt < 5 then size else 1) ≠ 0
    let path (p : Nat) : Prop := p = 0 ∨ p = 1 ∨ p = 9
    let out (b : Word) : Prop := pathOf b = 1 ∧ s.physDie (s.launchAt s.cdie) (b.toNat / 2 ^ 54 % 2 ^ 6) = none
    (bad → Claims.Status (.rdig d r x g) s d 2) ∧
    (¬bad → pathOf a = 6 → s.cc.smode = false → ∃ t, exec (.rdig d r x g) s = .next t ∧ Trapped s t 0x02 a s.cc.pc) ∧
    (¬bad → (pathOf a ≠ 6 ∨ s.cc.smode = true) → (¬(path (pathOf a) ∨ pathOf a = 6) ∨ ¬path (pathOf dest) ∨ out a ∨ out dest) →
      Claims.Status (.rdig d r x g) s d 3) ∧
    (¬bad → (path (pathOf a) ∨ pathOf a = 6 ∧ s.cc.smode = true) → path (pathOf dest) → ¬out a → ¬out dest →
      (dest.toNat % 32 ≠ 0 → ∃ t, exec (.rdig d r x g) s = .next t ∧ Trapped s t 0x03 dest s.cc.pc) ∧
      (∀ l u v, dest.toNat % 32 = 0 → s.loadRange s.cdie false true len a len = .ok (l, u) →
        u.storeBytes s.cdie dest (shake256 (canonBytes fmt l)) = .ok v →
        ∃ t, exec (.rdig d r x g) s = .next t ∧ Claims.GoesOn s t ∧ t.cc.get d = 1 ∧ SameRegsBut s.cc t.cc d ∧
          t.cc.stq = v.cc.stq ∧ ∀ k, t.byte k = v.byte k))

/-- The slot of a drawer on a stack. -/
def Sys2Proof.Claims.drawerAt (s : State) (st pch bank i : Nat) : Drawer := tget {} (s.stack st).drawers ((16 * pch + bank) * 4 + i)

/-- ROPEN in the order of its checks: a fault of the address, 2 for a flag bit above 0, 3 outside CCAP, 6 with the handle of
the row when the launch holds it, 4 when its grant on the stack is used up, 5 when the bank has no free drawer or one in the
row's subarray, else 1 with the handle of the lowest free slot, which then holds the row with the flag's KEEP (R189, R201,
R343). -/
def Sys2Proof.Claims.DrawerOpenResults : Prop :=
  ∀ (s : State) (d r x : BitVec 6) (g : BitVec 4), s.cc.guard g = true →
    let i := Instr.ropen d r x g
    let f := (s.cc.get x).toNat
    (∀ e, s.rowAddr (s.cc.get r) = .error e → ∃ t, exec i s = .next t ∧ Trapped s t e.code e.val s.cc.pc) ∧
    (∀ o, s.rowAddr (s.cc.get r) = .ok o → 2 ≤ f → Claims.Status i s d 2) ∧
    (s.rowAddr (s.cc.get r) = .ok none → f < 2 → Claims.Status i s d 3) ∧
    (∀ lin key l, s.rowAddr (s.cc.get r) = .ok (some (lin, key)) → f < 2 → s.launchOf s.cdie = some l →
      let st := lin / 2 ^ 36 % 8
      let pch := lin / 2 ^ 30 % 64
      let bank := lin / 2 ^ 10 % 16
      let row := lin / 2 ^ 14 % 2 ^ 16
      let slot := Claims.drawerAt s st pch bank
      let handle (n : Nat) : Nat := pch * 2 ^ 10 + bank * 2 ^ 6 + n * 2 ^ 4 + (slot n).gen.toNat
      let mine (n : Nat) : Prop := (slot n).row = some row ∧ (slot n).owner = l ∧ (slot n).resv = false
      let free (n : Nat) : Prop := (slot n).row = none ∧ (slot n).resv = false
      let clash := ∃ n q, n < 4 ∧ (slot n).row = some q ∧ q / 2 ^ 10 = row / 2 ^ 10
      let grant := (s.launch l).drw st
      (∀ n, n < 4 → mine n → (∀ m, m < n → ¬mine m) → Claims.Status i s d (6 + handle n * 2 ^ 16)) ∧
      ((∀ n, n < 4 → ¬mine n) →
        (grant ≤ s.drawersUsed l st → Claims.Status i s d 4) ∧
        (s.drawersUsed l st < grant → (clash ∨ ∀ n, n < 4 → ¬free n) → Claims.Status i s d 5) ∧
        (∀ n, s.drawersUsed l st < grant → ¬clash → n < 4 → free n → (∀ m, m < n → ¬free m) →
          ∃ t, exec i s = .next t ∧ Claims.Returns s t d (1 + handle n * 2 ^ 16) ∧ OnlyDie s t s.cdie ∧ t.mgmt = s.mgmt ∧
            Claims.drawerAt t st pch bank n =
              { gen := (slot n).gen, row := some row, owner := l, key := key, keep := (f % 2 == 1) } ∧
            (∀ k, k ≠ (16 * pch + bank) * 4 + n → tget {} (t.stack st).drawers k = tget {} (s.stack st).drawers k) ∧
            ∀ k, k ≠ st → t.stack k = s.stack k)))

/-- RCLOSE raises ACCESS off the LINE path or with a set bit of 56 or 39:10, LINE for a handle the launch does not hold; it
waits for the core's own stores and for cabinet commands on the drawer, then frees the slot, whose generation counts on, and touches nothing else
(R189, R338). -/
def Sys2Proof.Claims.DrawerCloseResults : Prop :=
  ∀ (s : State) (r : BitVec 6) (g : BitVec 4), s.cc.guard g = true →
    let i := Instr.rclose r g
    let a := s.cc.get r
    let bad := pathOf a ≠ 5 ∨ a.toNat / 2 ^ 56 % 2 ≠ 0 ∨ a.toNat / 2 ^ 10 % 2 ^ 30 ≠ 0
    let st := a.toNat / 2 ^ 57 % 8
    let h := a.toNat / 2 ^ 40 % 2 ^ 16
    let pch := h / 2 ^ 10
    let bank := h / 2 ^ 6 % 16
    let n := h / 2 ^ 4 % 4
    let x := Claims.drawerAt s st pch bank n
    (bad → ∃ t, exec i s = .next t ∧ Trapped s t 0x05 a s.cc.pc) ∧
    (¬bad → (s.launchOf s.cdie = none ∨ x.row = none ∨ x.gen.toNat ≠ h % 16 ∨ x.resv = true) →
      ∃ t, exec i s = .next t ∧ Trapped s t 0x0B a s.cc.pc) ∧
    (∀ l row, ¬bad → s.launchOf s.cdie = some l → x.row = some row → x.gen.toNat = h % 16 → x.resv = false →
      (x.owner ≠ l → ∃ t, exec i s = .next t ∧ Trapped s t 0x0B a s.cc.pc) ∧
      (x.owner = l →
        let lo := stackKey (linAt st pch bank row 0)
        let busy := s.storesTo s.cdie lo = true ∨ ∃ c, c ∈ (s.beng st 0 pch).q ∧ c.touches lo = true
        (busy → exec i s = .next s) ∧
        (¬busy → ∃ t, exec i s = .next t ∧ SameBytes s t ∧ t.mgmt = s.mgmt ∧ t.keys = s.keys ∧ t.launches = s.launches ∧
          OnlyDie s t s.cdie ∧ t.cc = { s.cc with pc := s.cc.pc + 4 } ∧
          Claims.drawerAt t st pch bank n = { gen := x.gen + 1 } ∧
          (∀ k, k ≠ (16 * pch + bank) * 4 + n → tget {} (t.stack st).drawers k = tget {} (s.stack st).drawers k) ∧
          ∀ k, k ≠ st → t.stack k = s.stack k)))

/-- What an address of ROPEN names (R188, R189, R192, R98): STACK in K mode is PRIV; a set bit of 59:40 is ACCESS; offset bit 39, by
which the upper half of a stack's offsets names its CCAP view, tells a row from none; a GEN page that does not translate is its trap, a
page without CCAP none; every other path none. -/
def Sys2Proof.Claims.RowAddresses : Prop :=
  ∀ (s : State) (a : Word),
    let n := a.toNat
    (pathOf a = 6 → s.cc.smode = false → s.rowAddr a = .error ⟨0x02, a⟩) ∧
    (pathOf a = 6 → s.cc.smode = true → n / 2 ^ 40 % 2 ^ 20 ≠ 0 → s.rowAddr a = .error ⟨0x05, a⟩) ∧
    (pathOf a = 6 → s.cc.smode = true → n / 2 ^ 40 % 2 ^ 20 = 0 →
      s.rowAddr a = .ok (if n / 2 ^ 39 % 2 = 1 then some (n % 2 ^ 39, 0) else none)) ∧
    (∀ e, pathOf a = 0 → s.genLoc s.cdie none a .ld s.cc.smode = .error e → s.rowAddr a = .error e) ∧
    (∀ loc p e l, pathOf a = 0 → s.genLoc s.cdie none a .ld s.cc.smode = .ok loc → s.genLoc s.cdie none a .ld false = .ok loc →
      loc.pte = some (p, e, l) → s.rowAddr a =
        .ok (if e.getLsbD 5 = true ∧ loc.tgt = 0 then some (loc.key - 2 ^ 60, e.toNat / 2 ^ 10 % 2 ^ 10) else none)) ∧
    (pathOf a ≠ 0 → pathOf a ≠ 6 → s.rowAddr a = .ok none)

/-- ROPEN and RCLOSE (R188 to R190, R192). -/
def Obligations.DrawerResults : Prop := Claims.DrawerOpenResults ∧ Claims.DrawerCloseResults ∧ Claims.RowAddresses

/-- What the checks of a base-die command's block lead to, from the state `u` in which the block has been read: a status, the
trap NBREJ or status 4 for a crossing, a stall while the queue holds 16 commands, else status 1 with the ticket of R194 and
the command last in its engine's queue. -/
def Sys2Proof.Claims.BaseIssue (i : Instr) (s u : State) (d : BitVec 6) (kind : Nat) (b : List Word) (trap : Bool) (r : Checked) : Prop :=
  match r with
  | .status n => ∃ t, exec i s = .next t ∧ Claims.Returns s t d n
  | .rej a =>
    (trap = false → ∃ t, exec i s = .next t ∧ Claims.Returns s t d 4) ∧
    (trap = true → ∃ t, exec i s = .next t ∧ SameBytes s t ∧ t.cc.smode = true ∧ t.cc.trappc = s.cc.pc ∧ t.cc.trapval = a ∧
      t.cc.trapc.toNat % 2 ^ 8 = 0x0C ∧ t.cc.a = s.cc.a)
  | .ok os =>
    let lin := ((os.map (·.lin)).head?).getD 0
    let st := lin / 2 ^ 36 % 8
    let pch := if kind = 0 then lin / 2 ^ 30 % 64 else 0
    let e := u.beng st kind pch
    let k := (e.count + 1) % 2 ^ 21
    let n := if kind = 0 then (blkWord b 3).toNat % 2 ^ 32 else (blkWord b 0).toNat / 2 ^ 8 % 2 ^ 32
    (16 ≤ e.q.length → exec i s = .next u) ∧
    (e.q.length < 16 → n ≠ 0 → ∃ t c, exec i s = .next t ∧
      Claims.Returns s t d (1 + (st * 2 ^ 29 + pch * 2 ^ 23 + kind * 2 ^ 21 + k) * 2 ^ 32) ∧
      (t.beng st kind pch).q = e.q ++ [c] ∧ c.blk = b ∧ c.kind = kind ∧ c.die = s.cdie ∧ c.count = k ∧ c.pos = 0 ∧
      c.ops = opsOf kind b os ∧ (t.beng st kind pch).hist.head? = some (k, 0, 0, 0) ∧
      (t.stack st).drawers = (u.stack st).drawers ∧ ∀ j, j ≠ st → t.stack j = u.stack j) ∧
    (e.q.length < 16 → n = 0 → (∀ c, c ∈ e.q → c.die ≠ s.cdie) →
      (kind = 0 ∨ kind = 1 ∧ blkWord b 4 = 0 ∨ kind = 2 ∧ blkWord b 8 = 0) → ∃ t, exec i s = .next t ∧
      Claims.Returns s t d (1 + (st * 2 ^ 29 + pch * 2 ^ 23 + kind * 2 ^ 21 + k) * 2 ^ 32) ∧
      (t.beng st kind pch).q = e.q ∧ (t.beng st kind pch).hist.head? = some (k, 1, 0, 0))

/-- Which blocks are refused, as R194, R196, R197, R198, R202, R225, R321, R322 and R325 say: 0x02 for a reserved field or code, a misaligned
address, a destination that overlaps a source's addresses other than exactly, sources or a flag that overlap; never accepted with an
operand off the GEN path (and LINE, for NBOP), or a range that runs past its region; 0x04 with the first address beyond. -/
def Sys2Proof.Claims.BlockRefusals : Prop :=
  ∀ (s : State) (d : Nat) (b : List Word),
    let w (k : Nat) : Nat := (blkWord b k).toNat
    let f (k lo n : Nat) : Nat := w k / 2 ^ lo % 2 ^ n
    let refused (r : Checked) : Prop := (∃ n, r = .status n ∧ (n = 2 ∨ n = 3)) ∨ ∃ a, r = .rej a
    let overlap (x n y m : Nat) : Prop := 0 < n ∧ 0 < m ∧ x < y + m ∧ y < x + n
    (let opc := f 3 34 3
     let n := f 3 0 32
     let es := if f 3 32 2 = 0 then 4 else 2
     let ed := if opc = 4 then 6 - es else es
     let two := opc < 3
     let r := s.nbCheck d b
     ((2 ^ 38 ≤ w 3 ∨ 5 ≤ opc ∨ 2 ≤ f 3 32 2 ∨ (opc = 3 ∧ 2 ^ 32 ≤ w 2) ∨ (opc = 4 ∧ w 2 ≠ 0) ∨ w 0 % ed ≠ 0 ∨ w 1 % es ≠ 0 ∨
       (two ∧ w 2 % es ≠ 0)) → r = .status 2) ∧
     ((overlap (w 0) (n * ed) (w 1) (n * es) ∧ ¬(w 0 = w 1 ∧ ed = es) ∨
       two ∧ overlap (w 0) (n * ed) (w 2) (n * es) ∧ w 0 ≠ w 2) → r = .status 2) ∧
     ((∃ k, k < (if two then 3 else 2) ∧ w k / 2 ^ 60 ≠ 0 ∧ w k / 2 ^ 60 ≠ 5) → ∃ m, r = .status m ∧ (m = 2 ∨ m = 3)) ∧
     (∀ o, s.opndAt d true (blkWord b 1) .ld = some o → o.stop < o.lin + n * es → refused r)) ∧
    (let n := f 0 8 32
     let e := if f 0 4 2 = 0 then 4 else 2
     let r := s.rdCheck d b
     let src (j : Nat) : Nat := (w 2 + j * w 3) % 2 ^ 64
     let srcs := f 0 0 4 + 1
     ((2 ^ 40 ≤ w 0 ∨ f 0 6 1 ≠ 0 ∨ f 0 4 2 = 3 ∨ f 0 0 4 = 0 ∨ w 6 ≠ 0 ∨ w 7 ≠ 0 ∨ w 1 % e ≠ 0 ∨ (∃ j, j < srcs ∧ src j % e ≠ 0) ∨
       (w 4 ≠ 0 ∧ (w 4 % 8 ≠ 0 ∨ 2 ≤ w 4 / 2 ^ 60))) → r = .status 2) ∧
     ((∃ i j, i < j ∧ j < srcs ∧ overlap (src i) (n * e) (src j) (n * e)) → r = .status 2) ∧
     ((∃ j, j < srcs ∧ overlap (w 1) (n * e) (src j) (n * e) ∧ w 1 ≠ src j) → r = .status 2) ∧
     ((w 1 / 2 ^ 60 ≠ 0 ∨ ∃ j, j < srcs ∧ src j / 2 ^ 60 ≠ 0) → ∃ m, r = .status m ∧ (m = 2 ∨ m = 3))) ∧
    (let kind := f 0 0 2
     let size (p : Nat) : Nat := if f 7 (4 * p) 4 = 0 then 4 else 2
     let r := s.opCheck d b
     ((2 ^ 40 ≤ w 0 ∨ f 0 3 5 ≠ 0 ∨ 2 ≤ kind ∨ 2 ^ 60 ≤ w 6 ∨ 2 ^ 20 ≤ w 7 ∨ 2 ^ 32 ≤ w 13 ∨ w 14 ≠ 0 ∨ w 15 ≠ 0 ∨
       2 < f 7 0 4 ∨ 2 < f 7 4 4 ∨ (f 7 8 4 ≠ 0 ∧ f 7 8 4 ≠ 2) ∨ (f 7 12 4 ≠ 0 ∧ f 7 12 4 ≠ 2) ∨ f 7 16 4 ≠ 0 ∨
       (kind = 0 ∧ w 4 ≠ 0) ∨ (∃ p, p < 3 ∧ (f 6 (12 * p) 12 < size p ∨ w (1 + p) % size p ≠ 0)) ∨
       (w 8 ≠ 0 ∧ (w 8 % 8 ≠ 0 ∨ 2 ≤ w 8 / 2 ^ 60))) → r = .status 2) ∧
     ((∃ p, p < 3 ∧ w (1 + p) / 2 ^ 60 ≠ 0) → ∃ m, r = .status m ∧ (m = 2 ∨ m = 3)))

/-- NBOP with its quad block, NBRED and OPTM with a block of 64 and 128 bytes on the GEN or NODE path: accepted, refused,
rejected or stalled as `BaseIssue` says; NBSTAT gives the state of a ticket among an engine's last 64 commands, 3 for any
other (R194, R320, R323). -/
def Sys2Proof.Claims.BaseDieCommandCompletions : Prop :=
  ∀ (s : State) (d r : BitVec 6) (g : BitVec 4), s.cc.guard g = true →
    let a := s.cc.get r
    (let b := s.cc.getN r 4
     Claims.BaseIssue (.nbop d r g) s s d 0 b ((blkWord b 3).getLsbD 37) (s.nbCheck s.cdie b)) ∧
    (pathOf a ≠ 0 → pathOf a ≠ 1 → (∃ t, exec (.nbred d r g) s = .next t ∧ Trapped s t 0x05 a s.cc.pc) ∧
      ∃ t, exec (.optm d r g) s = .next t ∧ Trapped s t 0x05 a s.cc.pc) ∧
    ((pathOf a = 0 ∨ pathOf a = 1) →
      (a.toNat % 64 ≠ 0 → Claims.Status (.nbred d r g) s d 2) ∧
      (a.toNat % 128 ≠ 0 → Claims.Status (.optm d r g) s d 2) ∧
      (∀ e, s.locate s.cdie none a .ld s.cc.smode = .error e →
        (a.toNat % 64 = 0 → ∃ t, exec (.nbred d r g) s = .next t ∧ Trapped s t e.code e.val s.cc.pc) ∧
        (a.toNat % 128 = 0 → ∃ t, exec (.optm d r g) s = .next t ∧ Trapped s t e.code e.val s.cc.pc)) ∧
      (∀ loc, s.locate s.cdie none a .ld s.cc.smode = .ok loc →
        let u := s.noteXlate s.cdie none loc
        (∀ l, a.toNat % 64 = 0 → s.readLoc loc a 64 = .ok l →
          let b := bytesWords 8 l
          Claims.BaseIssue (.nbred d r g) s u d 1 b ((blkWord b 0).getLsbD 7) (u.rdCheck s.cdie b)) ∧
        (∀ l, a.toNat % 128 = 0 → s.readLoc loc a 128 = .ok l →
          let b := bytesWords 16 l
          Claims.BaseIssue (.optm d r g) s u d 2 b ((blkWord b 0).getLsbD 2) (u.opCheck s.cdie b)))) ∧
    (let t := a.toNat
     let eng := t / 2 ^ 21 % 4
     let h := (s.beng (t / 2 ^ 29 % 8) eng (t / 2 ^ 23 % 64)).hist.find? (fun h => h.1 == t % 2 ^ 21)
     ((eng = 3 ∨ h = none) → Claims.Status (.nbstat d r g) s d 3) ∧
     (∀ k st trap f, eng ≠ 3 → h = some (k, st, trap, f) → Claims.Status (.nbstat d r g) s d
       (st.toNat + (if st = 2 then trap.toNat * 2 ^ 8 else 0) + (if st = 1 then f.toNat * 2 ^ 16 else 0))))

/-- NBOP, NBRED, OPTM and NBSTAT (R194 to R198, R202, R320 to R323, R325). -/
def Obligations.BaseDieCommandResults : Prop := Claims.BaseDieCommandCompletions ∧ Claims.BlockRefusals


/-! ### Element rows -/

/-- What a live row of a CE does in its cycle: one effect enters its region's pipe, sticky flags of the CE are set, and
nothing else changes: no byte, no lane, no rotating file, no other unit, region or die. -/
def Sys2Proof.Claims.RowIssues (s t : State) (c : RowCtx) (lat : Nat) (fl : Flags) (e : Eff) : Prop :=
  SameOutsideDies s t ∧ OnlyDie s t c.d ∧
  t.die c.d = { s.die c.d with ces := (t.die c.d).ces, regs := (t.die c.d).regs } ∧
  t.region c.d c.reg = { s.region c.d c.reg with
    pipe := (s.region c.d c.reg).pipe ++ [⟨lat, c.r, c.sl, c.mc, c.stage, e⟩] } ∧
  (∀ n, n ≠ c.reg → t.region c.d n = s.region c.d n) ∧
  t.ce c.d c.r c.sl = { s.ce c.d c.r c.sl with flags := (s.ce c.d c.r c.sl).flags ||| fl } ∧
  ∀ k, k ≠ 48 * c.r + c.sl → tget {} (t.die c.d).ces k = tget {} (s.die c.d).ces k

/-- Element `j` is written under PG (R57). -/
def Sys2Proof.Claims.rowGuard (pg : BitVec 2) (w : Nat) (p : BitVec 64) (j : Nat) : Bool :=
  if pg = 0 then true else p.getLsbD (if w = 4 then j / 2 else j) == (pg == 1)

/-- The row writes lanes: element `j` of width `w` is `val j` modulo 2^w where PG lets it through, the flags set are those of
the written elements, and those that TE enables trap with the result (R55, R57, R66). -/
def Sys2Proof.Claims.LaneRow (i : Instr) (s : State) (c : RowCtx) (lat w : Nat) (pg : BitVec 2) (d : BitVec 4) (val : Nat → Nat)
    (flags : Nat → Flags) : Prop :=
  ∃ t v mask fl, exec i s = .next t ∧
    Claims.RowIssues s t c lat fl (.result v mask d.toNat (fl &&& BitVec.ofNat 6 ((s.fcfg c).toNat / 2 ^ 20))) ∧
    (∀ j, j < 512 / w → lane w v j = val j % 2 ^ w ∧
      lane w mask j = if Claims.rowGuard pg w (s.ceP c) j then 2 ^ w - 1 else 0) ∧
    ∀ b, b < 6 → (fl.getLsbD b = true ↔
      ∃ j, j < 512 / w ∧ Claims.rowGuard pg w (s.ceP c) j = true ∧ (flags j).getLsbD b = true)

/-- The row writes all 512 bits whatever P holds. -/
def Sys2Proof.Claims.WholeRow (i : Instr) (s : State) (c : RowCtx) (lat : Nat) (d : BitVec 4) (v : Vec) (fl : Flags) : Prop :=
  ∃ t, exec i s = .next t ∧
    Claims.RowIssues s t c lat fl (.result v (BitVec.allOnes 512) d.toNat (fl &&& BitVec.ofNat 6 ((s.fcfg c).toNat / 2 ^ 20)))

/-- The row of the current unit is live: its instance is admitted, its FA is not reserved, its DIR names no port that the
CE lacks. -/
def Sys2Proof.Claims.Live (s : State) (c : RowCtx) (d : BitVec 4) : Prop :=
  s.curRow = some c ∧ (s.fcfg c).toNat % 32 ≤ 20 ∧ ¬(d = 14 ∧ c.sl % 6 = 0)

/-- The same of a row that R281 and R297 do not let ignore FD: its FD is not reserved (R60). -/
def Sys2Proof.Claims.LiveFd (s : State) (c : RowCtx) (d : BitVec 4) : Prop := Claims.Live s c d ∧ (s.fcfg c).toNat / 2 ^ 8 % 32 ≤ 20

/-- COPY, SEL, BCST, SHUF, ZIP, UNZ, PGET and ITER issue the lanes that their rules give, XPT writes a rotating-file entry
under its rotated name, NOP does nothing (R56, R260, R270, R305, R324, R331, R347, R351, R362, R376). -/
def Sys2Proof.Claims.MoveRowResults : Prop :=
  ∀ (s : State) (c : RowCtx) (a b x : BitVec 5) (d : BitVec 4) (p m : BitVec 2) (v h : BitVec 1), Claims.LiveFd s c d →
    let w := s.faW c
    let n := 512 / w
    let A := lane w (s.operand c a)
    let B := lane w (s.operand c b)
    let P (j : Nat) : Bool := (s.ceP c).getLsbD (if w = 4 then j / 2 else j)
    let no (_ : Nat) : Flags := 0
    Claims.LaneRow (.copy a d p) s c 1 w p d A no ∧
    Claims.LaneRow (.sel a b d v) s c 1 w 0 d (fun j => if P j != (v == 1) then A j else B j) no ∧
    (m.toNat * 32 + x.toNat < n →
      Claims.LaneRow (.bcst a x d p m) s c 1 w p d (fun _ => A (m.toNat * 32 + x.toNat)) no) ∧
    (w ≠ 4 → Claims.LaneRow (.shuf a b d p) s c 2 w p d (fun j => if 2 ^ (w - 1) ≤ B j then 0 else A (B j % n)) no) ∧
    (w ≠ 4 → Claims.LaneRow (.zip a b d p h) s c 2 w p d
      (fun j => (if j % 2 = 0 then A else B) (h.toNat * (n / 2) + j / 2)) no) ∧
    (w ≠ 4 → Claims.LaneRow (.unz a b d p h) s c 2 w p d
      (fun j => if j < n / 2 then A (2 * j + h.toNat) else B (2 * (j - n / 2) + h.toNat)) no) ∧
    Claims.LaneRow (.pget d p) s c 1 w p d (fun j => if P j then 2 ^ w - 1 else 0) no ∧
    Claims.LaneRow (.iter d p m) s c (if (s.die c.d).g2 then 2 else 1) w p d
      (fun j => if m = 0 then c.inst else if m = 1 then j else c.inst * n + j) no ∧
    (∃ t mask, exec (.xpt a x d p) s = .next t ∧
      Claims.RowIssues s t c 1 0 (.rot ((x.toNat + 8 - c.w % 8) % 8) (s.operand c a) mask d.toNat) ∧
      ∀ j, j < n → lane w mask j = if Claims.rowGuard p w (s.ceP c) j then 2 ^ w - 1 else 0) ∧
    exec .nop s = .next s

/-- DONE issues L and, in the last instance of its tile task, sends the region's done token to the cell above it (R27,
R276). PMOV, PAND, POR and PXOR write P one cycle later from bit 0 of each guarding element; the bits that guard none are
kept but for PMOV and PAND, which clear them (R57, R329, R333). -/
def Sys2Proof.Claims.DoneAndPredicateRowResults : Prop :=
  ∀ (s : State) (c : RowCtx) (a : BitVec 5) (v : BitVec 1), Claims.LiveFd s c 0 →
    let w := s.faW c
    let n := if w = 4 then 64 else 512 / w
    let bit (j : Nat) : Bool := decide (lane w (s.operand c a) (if w = 4 then 2 * j else j) % 2 = 1)
    let P := s.ceP c
    let writes (i : Instr) (f : Nat → Bool) : Prop := ∃ t q, exec i s = .next t ∧ Claims.RowIssues s t c 1 0 (.pred q) ∧
      ∀ j, j < 64 → q.getLsbD j = f j
    writes (.pmov a) (fun j => decide (j < n) && bit j) ∧
    writes (.pand a v) (fun j => P.getLsbD j && (decide (j < n) && (bit j != (v == 1)))) ∧
    writes (.por a v) (fun j => P.getLsbD j || (decide (j < n) && (bit j != (v == 1)))) ∧
    writes (.pxor a v) (fun j => P.getLsbD j != (decide (j < n) && (bit j != (v == 1)))) ∧
    (c.inst + 1 ≠ c.trip → Claims.LaneRow .done s c 1 w 0 0 (lane w (s.ce c.d c.r c.sl).l) (fun _ => 0)) ∧
    (c.inst + 1 = c.trip → ∃ t, exec .done s = .next t ∧ SameOutsideDies s t ∧ OnlyDie s t c.d ∧
      (t.region c.d c.reg).done = true ∧ (t.region c.d c.reg).tasks = (s.region c.d c.reg).tasks ∧
      (t.die c.d).cellRuns = ((s.die c.d).regionDone c.reg).cellRuns ∧
      t.die c.d = { s.die c.d with ces := (t.die c.d).ces, regs := (t.die c.d).regs, cellRuns := (t.die c.d).cellRuns })

/-- Move, predicate and DONE rows (R27, R57, R276). -/
def Obligations.MoveAndPredicateRowResults : Prop := Claims.MoveRowResults ∧ Claims.DoneAndPredicateRowResults

/-- The pattern of width `w` of an integer. -/
def Sys2Proof.Claims.wrap (w : Nat) (k : Int) : Nat := (k % 2 ^ w).toNat

/-- A clamp of `k` to [lo, hi] as a pattern, and SAT when the clamp changes it. -/
def Sys2Proof.Claims.clamped (w : Nat) (k lo hi : Int) : Nat := Claims.wrap w (max lo (min hi k))
def Sys2Proof.Claims.satFlag (k lo hi : Int) : Flags := if k < lo ∨ hi < k then 0x20 else 0

/-- IADD, ISUB, IMUL, IMAD, IMIN, IMAX, IABS, ISAT, ICMP, POPC, CLZ and the shifts lane by lane, VAND, VOR, VXOR and VANDN bit by
bit, ISUM over all lanes, each with its latency, its clamp and its SAT flag (R266, R297 to R304, R334, R363, R364). The rows of
R297 complete whatever FD holds; the bitwise rows, the shifts, POPC and CLZ where FD is not reserved (R60). -/
def Obligations.IntegerRowResults : Prop :=
  ∀ (s : State) (c : RowCtx) (a b e : BitVec 5) (d m : BitVec 4) (p : BitVec 2) (u : BitVec 1), Claims.Live s c d →
    let w := s.faW c
    let A := lane w (s.operand c a)
    let B := lane w (s.operand c b)
    let E := lane w (s.operand c e)
    let sg (x : Nat) : Int := if x < 2 ^ (w - 1) then x else (x : Int) - 2 ^ w
    let lo : Int := -2 ^ (w - 1)
    let hi : Int := 2 ^ (w - 1) - 1
    let top : Int := 2 ^ w - 1
    let row (i : Instr) (l3 l2 : Nat) (val : Nat → Nat) (f : Nat → Flags) : Prop :=
      Claims.LaneRow i s c (if (s.die c.d).g2 then l2 else l3) w p d val f
    let no (_ : Nat) : Flags := 0
    let lt (x y : Nat) : Bool := if u = 1 then decide (x < y) else decide (sg x < sg y)
    let k := e.toNat
    row (.iadd a b d p 0) 1 2 (fun j => A j + B j) no ∧
    row (.iadd a b d p 1) 1 2 (fun j => Claims.clamped w (sg (A j) + sg (B j)) lo hi)
      (fun j => Claims.satFlag (sg (A j) + sg (B j)) lo hi) ∧
    row (.iadd a b d p 2) 1 2 (fun j => Claims.clamped w (A j + B j) 0 top) (fun j => Claims.satFlag (A j + B j) 0 top) ∧
    row (.isub a b d p 0) 1 2 (fun j => Claims.wrap w ((A j : Int) - B j)) no ∧
    row (.isub a b d p 1) 1 2 (fun j => Claims.clamped w (sg (A j) - sg (B j)) lo hi)
      (fun j => Claims.satFlag (sg (A j) - sg (B j)) lo hi) ∧
    row (.isub a b d p 2) 1 2 (fun j => Claims.clamped w ((A j : Int) - B j) 0 top)
      (fun j => Claims.satFlag ((A j : Int) - B j) 0 top) ∧
    row (.imul a b d p 0) 3 4 (fun j => A j * B j) no ∧
    row (.imul a b d p 1) 3 4 (fun j => Claims.wrap w (sg (A j) * sg (B j) / 2 ^ w)) no ∧
    row (.imul a b d p 2) 3 4 (fun j => A j * B j / 2 ^ w) no ∧
    row (.imad a b e d p 0) 3 4 (fun j => Claims.wrap w (sg (A j) * sg (B j) + sg (E j))) no ∧
    (m ≠ 0 → row (.imad a b e d p m) 3 4 (fun j => Claims.clamped w (sg (A j) * sg (B j) + sg (E j)) lo hi)
      (fun j => Claims.satFlag (sg (A j) * sg (B j) + sg (E j)) lo hi)) ∧
    row (.imin a b d p u) 1 2 (fun j => if lt (B j) (A j) then B j else A j) no ∧
    row (.imax a b d p u) 1 2 (fun j => if lt (A j) (B j) then B j else A j) no ∧
    row (.iabs a d p 0) 1 2 (fun j => (sg (A j)).natAbs) no ∧
    row (.iabs a d p 1) 1 2 (fun j => Claims.clamped w (sg (A j)).natAbs lo hi) (fun j => Claims.satFlag (sg (A j)).natAbs lo hi) ∧
    (k < w → row (.isat a e d p 0) 1 2 (fun j => Claims.clamped w (sg (A j)) (-2 ^ k) (2 ^ k - 1))
        (fun j => Claims.satFlag (sg (A j)) (-2 ^ k) (2 ^ k - 1)) ∧
      row (.isat a e d p 1) 1 2 (fun j => Claims.clamped w (sg (A j)) 0 (2 ^ (k + 1) - 1))
        (fun j => Claims.satFlag (sg (A j)) 0 (2 ^ (k + 1) - 1))) ∧
    row (.icmp a b d p m) 1 2 (fun j => if (match m.toNat with
        | 0 => A j = B j
        | 1 => A j ≠ B j
        | 2 => sg (A j) < sg (B j)
        | 3 => sg (B j) ≤ sg (A j)
        | 4 => A j < B j
        | 5 => B j ≤ A j
        | 6 => sg (A j) ≤ sg (B j)
        | _ => sg (B j) < sg (A j) : Bool) then 2 ^ w - 1 else 0) no ∧
    (let fd := (s.fcfg c).toNat / 2 ^ 8 % 32
     fd ≤ 20 → row (.popc a d p) 1 2 (fun j => ((List.range w).filter (fun i => A j / 2 ^ i % 2 = 1)).length) no ∧
     row (.clz a d p) 1 2 (fun j => ((List.range w).filter (fun i => A j < 2 ^ i)).length) no ∧
     ((u = 0 ∨ k < w) →
      let by_ (j : Nat) : Nat := if u = 1 then k else B j
      row (.vshl a b e d p u) 1 2 (fun j => A j * 2 ^ by_ j) no ∧
      row (.vshr a b e d p u) 1 2 (fun j => A j / 2 ^ by_ j) no ∧
      row (.vsar a b e d p u) 1 2 (fun j => Claims.wrap w (sg (A j) / 2 ^ by_ j)) no) ∧
     Claims.LaneRow (.vand a b d p) s c 1 w p d (lane w (s.operand c a &&& s.operand c b)) no ∧
    Claims.LaneRow (.vor a b d p) s c 1 w p d (lane w (s.operand c a ||| s.operand c b)) no ∧
    Claims.LaneRow (.vxor a b d p) s c 1 w p d (lane w (s.operand c a ^^^ s.operand c b)) no ∧
    Claims.LaneRow (.vandn a b d p) s c 1 w p d (lane w (s.operand c a &&& ~~~ s.operand c b)) no) ∧
    (let sum := ((List.range (512 / w)).map A).sum
     let ssum := ((List.range (512 / w)).map (fun j => sg (A j))).sum
     ∃ t v mask, exec (.isum a d m) s = .next t ∧
       Claims.RowIssues s t c (if (s.die c.d).g2 then 7 else 6) 0 (.result v mask d.toNat 0) ∧
       (∀ j, j < 512 / w → lane w mask j = 2 ^ w - 1) ∧
       v.toNat = if m = 0 then sum % 2 ^ w else if m = 1 then Claims.wrap 32 ssum else sum % 2 ^ 32)


/-- A magnitude that `m` mantissa bits give at an exponent from `low` upward; `even` asks for an even last bit (R67). -/
def Sys2Proof.Claims.FloatGrid (m : Nat) (low : Option Int) (even : Bool) (g : Rat) : Prop :=
  ∃ (k : Nat) (e : Int), (∀ b, low = some b → b ≤ e) ∧ k < 2 ^ (m + 1) ∧ g = k * pow2 (e - m) ∧
    (even = true → k % 2 = 0 ∧ (2 ^ m ≤ k ∨ low = some e))

/-- The integers as magnitudes. -/
def Sys2Proof.Claims.IntegerGrid (even : Bool) (g : Rat) : Prop := ∃ k : Nat, g = k ∧ (even = true → k % 2 = 0)

/-- `r` is the magnitude of `q` rounded onto a grid: under RNE the nearest member, of two nearest the even one; under RTZ the
largest that is not beyond; under RDN and RUP the one beside `q` on the side of the mode (R50, R70). -/
def Sys2Proof.Claims.Rounds (grid : Bool → Rat → Prop) (rm : Nat) (q r : Rat) : Prop :=
  grid false r ∧ ∀ g, grid false g →
    (rm = 0 → rabs (r - rabs q) ≤ rabs (g - rabs q) ∧ (rabs (r - rabs q) = rabs (g - rabs q) → g ≠ r → grid true r)) ∧
    (rm = 1 ∨ (rm = 2 ∧ 0 < q) ∨ (rm = 3 ∧ q < 0) → r ≤ rabs q ∧ (g ≤ rabs q → g ≤ r)) ∧
    ((rm = 2 ∧ q < 0) ∨ (rm = 3 ∧ 0 < q) → rabs q ≤ r ∧ (rabs q ≤ g → r ≤ g))

/-- Every rounding into a scalar code, by nearness alone: a finite value becomes the neighbour of its mode, with INX when they
differ and UNF when, besides, the rounding with no least exponent lies below the smallest normal magnitude; beyond the largest
finite magnitude FP32, FP16 and BF16 overflow to Inf or to that magnitude by the mode, the other formats and the integers
saturate with SAT; an infinity stands, or saturates; NaN is canonical, or +0 or 0 with INV (R67, R68, R70 to R72). That UNF is
decided with an unbounded exponent is the model's reading (log 14). -/
def Obligations.RoundingResults : Prop :=
  ∀ (code rm : Nat), code ≤ 11 → rm ≤ 3 →
    let f := ffmt code
    let signed (neg : Bool) (r : Rat) : Rat := if neg then -r else r
    (code ≤ 7 →
      [0x7F7FFFFF, 0x7BFF, 0x7F7F, 0x7E, 0x7B, 0x1F, 0x1F, 0x7][code]? = some f.maxMag ∧
      [(0x7FC00000, 0), (0x7E00, 0), (0x7FC0, 0), (0x7F, 0), (0x7E, 0), (0, 1), (0, 1), (0, 1)][code]? = some (roundTo code rm .nan) ∧
      (∀ neg, let x := roundTo code rm (.inf neg)
        if f.inf then x.2 = 0 ∧ f.decode x.1 = .inf neg else
          x.2 = 0x20 ∧ f.decode x.1 = .fin (signed neg (f.mag f.maxMag))) ∧
      (∀ neg, (roundTo code rm (.zero neg)).2 = 0 ∧ f.decode (roundTo code rm (.zero neg)).1 = .zero neg) ∧
      ∀ q : Rat, q ≠ 0 → ∃ r t, Claims.Rounds (Claims.FloatGrid f.mbits (some (1 - f.bias))) rm q r ∧
        Claims.Rounds (Claims.FloatGrid f.mbits none) rm q t ∧
        let neg := decide (q < 0)
        let x := roundTo code rm (.fin q)
        x.1 < 2 ^ f.bits ∧
        (r ≤ f.mag f.maxMag → f.decode x.1 = (if r = 0 then .zero neg else .fin (signed neg r)) ∧
          x.2 = if r = rabs q then 0 else if t < pow2 (1 - f.bias) then 0x18 else 0x10) ∧
        (f.mag f.maxMag < r →
          (code ≤ 2 → x.2 = 0x14 ∧ f.decode x.1 = if rm = 0 ∨ (rm = 2 ∧ q < 0) ∨ (rm = 3 ∧ 0 < q) then .inf neg
            else .fin (signed neg (f.mag f.maxMag))) ∧
          (2 < code → x.2 = 0x20 ∧ f.decode x.1 = .fin (signed neg (f.mag f.maxMag))))) ∧
    (8 ≤ code →
      let w := laneWidth code
      let lo : Int := -2 ^ (w - 1)
      let hi : Int := 2 ^ (w - 1) - 1
      roundTo code rm .nan = (0, 1) ∧ (∀ neg, roundTo code rm (.zero neg) = (0, 0)) ∧
      roundTo code rm (.inf false) = (Claims.wrap w hi, 0x20) ∧ roundTo code rm (.inf true) = (Claims.wrap w lo, 0x20) ∧
      ∀ q : Rat, q ≠ 0 → ∃ k : Nat, Claims.Rounds Claims.IntegerGrid rm q k ∧
        let v : Int := if q < 0 then -k else k
        roundTo code rm (.fin q) = (Claims.clamped w v lo hi, if v < lo ∨ hi < v then 0x20 else if (v : Rat) = q then 0 else 0x10))

/-- A floating-point row: the exact value `y` of each element is rounded once into FA under `rm`; its flags are those of the
operation, of the rounding and of the operands' format errors (R281). -/
def Sys2Proof.Claims.FloatRow (i : Instr) (s : State) (c : RowCtx) (l3 l2 : Nat) (pg : BitVec 2) (d : BitVec 4) (rm : Nat)
    (y : Nat → FVal) (flags : Nat → Flags) : Prop :=
  let fa := (s.fcfg c).toNat % 32
  Claims.LaneRow i s c (if (s.die c.d).g2 then l2 else l3) (s.faW c) pg d (fun j => (roundTo fa rm (y j)).1)
    (fun j => flags j ||| (roundTo fa rm (y j)).2)

/-- The rounding mode of a row: the configured one, or the row's own (R53). -/
def Sys2Proof.Claims.rowMode (s : State) (c : RowCtx) (m : BitVec 4) : Nat :=
  if m = 0 then (s.fcfg c).toNat / 2 ^ 16 % 4 else m.toNat - 4

/-- FADD, FSUB, FMUL, FMA, FMAX, FMIN, FABS, FNEG, FCLIP, FCMP and FSCL in every floating-point format: one exact operation on
the decoded elements, one rounding, the flags of both and of format errors (R281 to R285, R291, R293). -/
def Obligations.FloatRowResults : Prop :=
  ∀ (s : State) (c : RowCtx) (a b e : BitVec 5) (d m : BitVec 4) (p : BitVec 2), Claims.Live s c d →
    let fa := (s.fcfg c).toNat % 32
    fa ≤ 7 →
    let w := s.faW c
    let dec (o : BitVec 5) (j : Nat) : FVal := (decodeScalar fa (lane w (s.operand c o) j)).1
    let err (o : BitVec 5) (j : Nat) : Flags := if (decodeScalar fa (lane w (s.operand c o) j)).2 then 1 else 0
    let A := dec a
    let B := dec b
    let E := dec e
    let rm := Claims.rowMode s c m
    let inv (x : Bool) : Flags := if x then 1 else 0
    let row (i : Instr) (l3 l2 rm : Nat) (y : Nat → FVal) (f : Nat → Flags) : Prop := Claims.FloatRow i s c l3 l2 p d rm y f
    let larger (x y : FVal) : FVal := if x.isNan ∨ y.isNan then .nan else if belowNum x y then y else x
    let smaller (x y : FVal) : FVal := if x.isNan ∨ y.isNan then .nan else if belowNum y x then y else x
    let clip (j : Nat) : FVal := smaller (larger (A j) (B j)) (E j)
    row (.fadd a b d p m) 4 5 rm (fun j => (addNum rm (A j) (B j)).1)
      (fun j => inv (addNum rm (A j) (B j)).2 ||| err a j ||| err b j) ∧
    row (.fsub a b d p m) 4 5 rm (fun j => (addNum rm (A j) (negNum (B j))).1)
      (fun j => inv (addNum rm (A j) (negNum (B j))).2 ||| err a j ||| err b j) ∧
    row (.fmul a b d p m) 4 5 rm (fun j => (mulNum (A j) (B j)).1)
      (fun j => inv (mulNum (A j) (B j)).2 ||| err a j ||| err b j) ∧
    row (.fma a b e d p m) 4 5 rm (fun j => (addNum rm (mulNum (A j) (B j)).1 (E j)).1)
      (fun j => inv ((mulNum (A j) (B j)).2 || (addNum rm (mulNum (A j) (B j)).1 (E j)).2) ||| err a j ||| err b j ||| err e j) ∧
    row (.fmax a b d p) 2 2 (Claims.rowMode s c 0) (fun j => larger (A j) (B j)) (fun j => err a j ||| err b j) ∧
    row (.fmin a b d p) 2 2 (Claims.rowMode s c 0) (fun j => smaller (A j) (B j)) (fun j => err a j ||| err b j) ∧
    row (.fabs a d p) 2 2 (Claims.rowMode s c 0) (fun j => absNum (A j)) (err a) ∧
    row (.fneg a d p) 2 2 (Claims.rowMode s c 0) (fun j => negNum (A j)) (err a) ∧
    row (.fclip a b e d p) 4 5 (Claims.rowMode s c 0) clip
      (fun j => (if (clip j).isNan = false ∧ eqNum (clip j) (A j) = false then 0x20 else 0) ||| err a j ||| err b j ||| err e j) ∧
    Claims.LaneRow (.fcmp a b d p m) s c 2 w p d (fun j => if fcond m.toNat (A j) (B j) then 2 ^ w - 1 else 0)
      (fun j => err a j ||| err b j) ∧
    row (.fscl a b d p m) 4 5 rm (fun j =>
        let k : Int := if lane w (s.operand c b) j < 2 ^ (w - 1) then lane w (s.operand c b) j
          else (lane w (s.operand c b) j : Int) - 2 ^ w
        match A j with
        | .fin q => .fin (q * pow2 (max (-1024) (min 1024 k)))
        | x => x) (err a)

/-- The built-in functions keep what R61 and R290 promise. FRCP and FRSQ of a finite value lie between the neighbours of a value
within 1 ulp of the exact one, INX is set unless they are exact, and a quotient beyond the largest FP32 value is itself
rounded; FEXP2 is exact at integers up to 1024, and beyond is what it is there; FLOG2 is exact at powers of two; FTANH is odd,
and FSIG of a positive value is 1 less FSIG of its negative, rounded to FP32 (log 11); both lie within the FP32 values of 2 ulp
about the model's evaluation of the function, at most 1 and 1/2, and do not step backward where that evaluation does not.
Special inputs give the table of R290. Which permitted value a result is, is the model's free choice (log 11). -/
def Sys2Proof.Claims.BuiltinBounds : Prop :=
  ∀ g2 : Bool,
    let f := ffmt 0
    let exact (op : Nat) (v r : FVal) (fl : Flags) : Prop := builtOf g2 op v = .exact r fl
    (∀ op, op ≤ 5 → exact op .nan .nan 0) ∧
    (∀ n, exact 0 (.inf n) (.zero n) 0 ∧ exact 0 (.zero n) (.inf n) 2 ∧ exact 1 (.zero n) (.inf n) 2 ∧ exact 2 (.zero n) (.fin 1) 0 ∧
      exact 3 (.zero n) (.inf true) 2 ∧ exact 4 (.zero n) (.zero n) 0 ∧ exact 5 (.zero n) (.fin (1 / 2)) 0) ∧
    exact 1 (.inf false) (.zero false) 0 ∧ exact 1 (.inf true) .nan 1 ∧
    exact 2 (.inf false) (.inf false) 0 ∧ exact 2 (.inf true) (.zero false) 0 ∧
    exact 3 (.inf false) (.inf false) 0 ∧ exact 3 (.inf true) .nan 1 ∧
    exact 4 (.inf false) (.fin 1) 0 ∧ exact 4 (.inf true) (.fin (-1)) 0 ∧
    exact 5 (.inf false) (.fin 1) 0 ∧ exact 5 (.inf true) (.zero false) 0 ∧
    (∀ q : Rat, q < 0 → exact 1 (.fin q) .nan 1 ∧ exact 3 (.fin q) .nan 1) ∧
    (∀ q : Rat, q ≠ 0 →
      (f.mag f.maxMag < 1 / rabs q → exact 0 (.fin q) (.fin (1 / q)) 0) ∧
      (1 / rabs q ≤ f.mag f.maxMag → ∃ y i, builtOf g2 0 (.fin q) = .approx (decide (q < 0)) y i ∧ y ≤ f.maxMag ∧
        (0 < y → f.mag (y - 1) * rabs q ≤ 1) ∧ (y < f.maxMag → 1 ≤ f.mag (y + 1) * rabs q) ∧ (i = false ↔ f.mag y * rabs q = 1))) ∧
    (∀ q : Rat, pow2 (-149) ≤ q → ∃ y i, builtOf g2 1 (.fin q) = .approx false y i ∧ y < f.maxMag ∧
      (0 < y → f.mag (y - 1) * f.mag (y - 1) * q ≤ 1) ∧ 1 ≤ f.mag (y + 1) * f.mag (y + 1) * q ∧
      (i = false ↔ f.mag y * f.mag y * q = 1)) ∧
    (∀ k : Int, k ≠ 0 → exact 2 (.fin k) (.fin (pow2 (max (-1024) (min 1024 k)))) 0) ∧
    (∀ k : Int, exact 3 (.fin (pow2 k)) (if k = 0 then .zero false else .fin k) 0) ∧
    (∀ q : Rat, 0 < q →
      (∃ y lo, builtOf g2 4 (.fin q) = .approx false y true ∧ builtOf g2 4 (.fin (-q)) = .approx true y true ∧
        f.mag lo ≤ tanhNear q ∧ tanhNear q < f.mag (lo + 1) ∧ lo ≤ y + 1 ∧ y ≤ lo + 2 ∧ y ≤ 0x3F800000) ∧
      ∃ y lo, builtOf g2 5 (.fin (-q)) = .approx false y true ∧
        builtOf g2 5 (.fin q) = .approx false (roundTo 0 0 (.fin (1 - f.mag y))).1 true ∧
        f.mag lo ≤ sigNear (-q) ∧ sigNear (-q) < f.mag (lo + 1) ∧ lo ≤ y + 1 ∧ y ≤ lo + 2 ∧ y ≤ 0x3F000000) ∧
    ∀ (x y a b : Nat), 0 < x → x ≤ y → y ≤ f.maxMag →
      (tanhNear (f.mag x) ≤ tanhNear (f.mag y) → builtOf g2 4 (.fin (f.mag x)) = .approx false a true →
        builtOf g2 4 (.fin (f.mag y)) = .approx false b true → a ≤ b) ∧
      (sigNear (-(f.mag y)) ≤ sigNear (-(f.mag x)) → builtOf g2 5 (.fin (-(f.mag y))) = .approx false a true →
        builtOf g2 5 (.fin (-(f.mag x))) = .approx false b true → a ≤ b)

/-- FRCP, FRSQ, FEXP2, FLOG2, FTANH and FSIG round into FA the exact value, or the FP32 value that the model takes from the
bounds of R61 by a free choice (log 11), with the flags of that rounding, INX where the value is not exact, and the flags that
R61 leaves open free; FTAB evaluates the function table that its slot holds, or its derivative, and raises TABLE with the slot
in TRAPVAL when the slot holds none (R61, R63, R233, R290, R294). -/
def Sys2Proof.Claims.BuiltinRows : Prop :=
  ∀ (s : State) (c : RowCtx) (a : BitVec 5) (d m : BitVec 4) (p sl : BitVec 2) (v : BitVec 1), Claims.Live s c d →
    let fa := (s.fcfg c).toNat % 32
    fa ≤ 7 →
    let w := s.faW c
    let A (j : Nat) : FVal := (decodeScalar fa (lane w (s.operand c a) j)).1
    let err (j : Nat) : Flags := if (decodeScalar fa (lane w (s.operand c a) j)).2 then 1 else 0
    let rm := Claims.rowMode s c m
    let g2 := (s.die c.d).g2
    let lat := if g2 then 8 else 6
    let row (op : Nat) (i : Instr) : Prop :=
      let key (j : Nat) : BitVec 32 := BitVec.ofNat 32 ((ffmt 0).round 0 (if op = 4 then absNum (A j) else A j)).1
      let r (j : Nat) : Nat × Flags :=
        builtRound fa rm (Config.builtinFlags g2 op (key j)) (builtOf g2 op (A j))
      Claims.LaneRow i s c lat w p d (fun j => (r j).1) (fun j => (r j).2 ||| err j)
    row 0 (.frcp a d p m) ∧ row 1 (.frsq a d p m) ∧ row 2 (.fexp2 a d p m) ∧ row 3 (.flog2 a d p m) ∧
    row 4 (.ftanh a d p m) ∧ row 5 (.fsig a d p m) ∧
    (∀ u x g, builtRound fa rm u (.exact x g) = ((roundTo fa rm x).1, g ||| (roundTo fa rm x).2)) ∧
    (∀ u n y i, let x := FVal.ofRat (if n then -(ffmt 0).mag y else (ffmt 0).mag y) n
      (builtRound fa rm u (.approx n y i)).1 = (roundTo fa rm x).1 ∧
      (i = true → (builtRound fa rm u (.approx n y i)).2.getLsbD 4 = true) ∧
      (i = false → (builtRound fa rm u (.approx n y i)).2 = (roundTo fa rm x).2)) ∧
    (match tget none (s.die c.d).act.ftabs (4 * (48 * c.r + c.sl) + sl.toNat) with
     | none => exec (.ftab a d p v sl) s = .next (s.ceFault c 0x0A (sl.setWidth 64) 0)
     | some t =>
       let mode := (s.fcfg c).toNat / 2 ^ 16 % 4
       let y (j : Nat) : FVal × Flags := tabEval t mode (v == 1) (A j)
       Claims.LaneRow (.ftab a d p v sl) s c lat w p d (fun j => (roundTo fa mode (y j).1).1)
         (fun j => (y j).2 ||| (roundTo fa mode (y j).1).2 ||| err j))

/-- The built-in rows and FTAB (R61, R63, R290, R294). -/
def Obligations.BuiltinRowResults : Prop := Claims.BuiltinRows ∧ Claims.BuiltinBounds

/-- FSUM.O, FSUM.U, FDOT.O, FDOT.U and FMAXR write one element from all, zeros elsewhere, whatever PG would be (R84, R248,
R286, R287, R292). Each addition is the exact sum, rounded once. The ordered sum of n elements adds them one by one from element
0 upward; the unordered one adds neighbours, then neighbours of the sums, until one is left, and in the G2 profile the ordered
sums of the elements 0, 4, 8, …, of 1, 5, 9, …, of 2, 6, … and of 3, 7, … in two pairs. -/
def Obligations.ReductionRowResults : Prop :=
  ∀ (s : State) (c : RowCtx) (a b : BitVec 5) (d m : BitVec 4), Claims.Live s c d →
    let fa := (s.fcfg c).toNat % 32
    fa ≤ 7 →
    let w := s.faW c
    let g2 := (s.die c.d).g2
    let dec (o : BitVec 5) (j : Nat) : FVal × Bool := decodeScalar fa (lane w (s.operand c o) j)
    let one (o : BitVec 5) (j : Nat) : Val := ((dec o j).1, if (dec o j).2 then 1 else 0)
    let prod (j : Nat) : Val :=
      let x := mulNum (dec a j).1 (dec b j).1
      (x.1, (one a j).2 ||| (one b j).2 ||| (if x.2 then 1 else 0))
    let all (f : Nat → Val) : List Val := (List.range (512 / w)).map f
    let row (i : Instr) (rm : Nat) (v : Val) : Prop :=
      Claims.LaneRow i s c (if g2 then 7 else 6) w 0 d (fun j => if j = 0 then (roundTo fa rm v.1).1 else 0)
        (fun j => if j = 0 then v.2 ||| (roundTo fa rm v.1).2 else 0)
    let rm := Claims.rowMode s c m
    let larger (x y : Val) : Val :=
      (if x.1.isNan ∨ y.1.isNan then .nan else if belowNum x.1 y.1 then y.1 else x.1, x.2 ||| y.2)
    row (.fsumO a d m) rm (sumOrdered fa rm (all (one a))) ∧
    row (.fsumU a d m) rm (sumUnordered g2 fa rm (all (one a))) ∧
    row (.fdotO a b d m) rm (sumOrdered fa rm (all prod)) ∧
    row (.fdotU a b d m) rm (sumUnordered g2 fa rm (all prod)) ∧
    (∀ x l, all (one a) = x :: l → row (.fmaxr a d) (Claims.rowMode s c 0) (l.foldl larger x)) ∧
    (∀ x y : Val, ∀ l, sumOrdered fa rm [x] = x ∧ sumOrdered fa rm (l ++ [x, y]) =
      addVal fa rm (sumOrdered fa rm (l ++ [x])) y) ∧
    (∀ x y : Val, (addVal fa rm x y).1 = (decodeScalar fa (roundTo fa rm (addNum rm x.1 y.1).1).1).1 ∧
      (addVal fa rm x y).2 = x.2 ||| y.2 ||| (roundTo fa rm (addNum rm x.1 y.1).1).2 |||
        (if (addNum rm x.1 y.1).2 then 1 else 0)) ∧
    (∀ x, sumUnordered false fa rm [x] = x) ∧
    (∀ (k : Nat) (l m : List Val), k < 7 → l.length = 2 * 2 ^ k → m.length = 2 ^ k →
      (∀ j x y, l[2 * j]? = some x → l[2 * j + 1]? = some y → m[j]? = some (addVal fa rm x y)) →
      sumUnordered false fa rm l = sumUnordered false fa rm m) ∧
    ∀ (n : Nat) (l : List Val) (ch : Nat → List Val), l.length = 4 * n →
      (∀ c, (ch c).length = n ∧ ∀ j, j < n → (ch c)[j]? = l[4 * j + c]?) →
      let t (c : Nat) : Val := sumOrdered fa rm (ch c)
      sumUnordered true fa rm l = addVal fa rm (addVal fa rm (t 0) (t 1)) (addVal fa rm (t 2) (t 3))

/-- CVT, QDEC, REQ, QENC, BSCL, PACK and UNPK: the elements of a format are read from the places of R327 and written there,
each rounded as its rule says (R81, R82, R262, R272, R328, R335, R336, R341, R361). -/
def Obligations.BlockRowResults : Prop :=
  ∀ (s : State) (c : RowCtx) (a b e : BitVec 5) (d m : BitVec 4) (p : BitVec 2), Claims.Live s c d →
    let fa := (s.fcfg c).toNat % 32
    let fd := (s.fcfg c).toNat / 2 ^ 8 % 32
    let w := laneWidth fa
    let wd := laneWidth fd
    let A := s.operand c a
    let B := s.operand c b
    let E := s.operand c e
    let rm := Claims.rowMode s c m
    let lat := if (s.die c.d).g2 then 4 else 3
    let len (k : Nat) : Nat := if k = 20 then 64 else 32
    let block (k : Nat) : Prop := 12 ≤ k ∧ k ≤ 20
    let sx (k : Nat) : Prop := k = 18 ∨ k = 19
    let scale (k x : Nat) : Nat := if k = 18 ∨ k = 19 then x else x % 256
    -- a block vector of code `k`: `len k` elements, a scale in bits 479:448, a super-scale in bits 511:480 for Q16
    let layout (k : Nat) (v : Vec) (el : Nat → Nat) (sc sup : Nat) : Prop :=
      (∀ j, j < len k → lane (laneWidth k) v j = el j % 2 ^ laneWidth k) ∧
      v.toNat / 2 ^ (len k * laneWidth k) % 2 ^ (448 - len k * laneWidth k) = 0 ∧
      lane 32 v 14 = scale k sc ∧ lane 32 v 15 = if k = 20 then sup else 0
    (fa ≤ 11 → fd ≤ 11 →
      let dec (j : Nat) : FVal × Bool := decodeScalar fa (lane w A j)
      let cv (j : Nat) : Nat := (roundTo fd rm (dec j).1).1
      let fl (j : Nat) : Flags := (roundTo fd rm (dec j).1).2 ||| (if (dec j).2 then 1 else 0)
      let k := e.toNat
      (wd ≤ w → k < w / wd → Claims.LaneRow (.cvt a e d p m) s c lat wd p d
        (fun j => if k * (512 / w) ≤ j ∧ j < (k + 1) * (512 / w) then cv (j - k * (512 / w)) else 0)
        (fun j => if k * (512 / w) ≤ j ∧ j < (k + 1) * (512 / w) then fl (j - k * (512 / w)) else 0)) ∧
      (w < wd → k < wd / w → Claims.LaneRow (.cvt a e d p m) s c lat wd p d
        (fun j => cv (k * (512 / wd) + j)) (fun j => fl (k * (512 / wd) + j)))) ∧
    (block fa → (if fa = 20 then fd = 1 else fd ≤ 2) → e.toNat < (len fa + 512 / wd - 1) / (512 / wd) →
      let r (j : Nat) : FVal × Bool :=
        decodeBlock fa (lane w A (e.toNat * (512 / wd) + j)) (scale fa (lane 32 A 14)) (lane 32 A 15)
      Claims.LaneRow (.qdec a e d p) s c lat wd p d (fun j => (roundTo fd 0 (r j).1).1)
        (fun j => (roundTo fd 0 (r j).1).2 ||| (if (r j).2 then 1 else 0))) ∧
    (block fa → fd ≤ 20 → ∃ v, Claims.WholeRow (.pack a b d) s c 1 d v 0 ∧ layout fa v (lane w A) (lane 32 B 0) (lane 32 B 1)) ∧
    (block fa → fd ≤ 20 → (∃ v, Claims.WholeRow (.unpk a d 0) s c 1 d v 0 ∧ v.toNat = A.toNat % 2 ^ (len fa * w)) ∧
      ∃ v, Claims.WholeRow (.unpk a d 1) s c 1 d v 0 ∧
        v.toNat = scale fa (lane 32 A 14) + (if fa = 20 then lane 32 A 15 * 2 ^ 32 else 0)) ∧
    (block fa → block fd → fa ≠ 20 → fd ≠ 20 → (sx fa ↔ sx fd) → ∃ v fl, Claims.WholeRow (.req a b d m) s c lat d v fl ∧
      let old := scaleWord fa (scale fa (lane 32 A 14))
      let new := scaleWord fd (lane 32 B 0)
      let r (j : Nat) : Nat × Flags := reqElem fd rm (blockElemValue fa (lane w A j)) old.1 new.1 (old.2 || new.2)
      layout fd v (fun j => (r j).1) (lane 32 B 0) 0 ∧
      ∀ i, i < 6 → (fl.getLsbD i = true ↔ ∃ j, j < 32 ∧ (r j).2.getLsbD i = true)) ∧
    (block fa → fd ≤ 20 → fa ≠ 20 → m.toNat ≤ 2 → ∃ v fl, Claims.WholeRow (.bscl a b d m) s c lat d v fl ∧
      let ws := laneWidth m.toNat
      let src (o : Vec) : List FVal := (List.range (512 / ws)).map (fun j => (decodeScalar m.toNat (lane ws o j)).1)
      let mx := absMax (if m = 0 then src A ++ src B else src A)
      v.toNat = (blockScale fa mx.1 mx.2).1 ∧ fl = (blockScale fa mx.1 mx.2).2) ∧
    (block fd → fd ≠ 20 → fa ≤ 2 → (fa = 0 ∨ b = 31) → ∃ v fl, Claims.WholeRow (.qenc a b e d m) s c lat d v fl ∧
      let x (j : Nat) : FVal := (decodeScalar fa (if j < 512 / w then lane w A j else lane w B (j - 512 / w))).1
      let r (j : Nat) : Nat × Flags := qencElem fd rm (x j) (scaleWord fd (lane 32 E 0)).1
      layout fd v (fun j => (r j).1) (lane 32 E 0) 0 ∧
      ∀ i, i < 6 → (fl.getLsbD i = true ↔ ∃ j, j < 32 ∧ (r j).2.getLsbD i = true)) ∧
    (fd = 20 → fa = 1 ∨ fa = 2 → ∃ v fl, Claims.WholeRow (.qenc a b e d m) s c lat d v fl ∧
      let x (j : Nat) : FVal := (decodeScalar fa (if j < 32 then lane w A j else lane w B (j - 32))).1
      let sup := (ffmt 0).decode (lane 32 E 1)
      let r (j : Nat) : Nat × Flags := if sup.isNan ∨ sup.isInf then (8, 1)
        else q16Elem (x j) (((lane 32 E 0 % 256 : Nat) : Rat) * sup.toRat)
      layout 20 v (fun j => (r j).1) (lane 32 E 0) (lane 32 E 1) ∧
      ∀ i, i < 6 → (fl.getLsbD i = true ↔ ∃ j, j < 64 ∧ (r j).2.getLsbD i = true))

/-- The DIR of a row that has one; 0 of the other rows. -/
def Sys2Proof.Claims.rowDir (i : Instr) : Option (BitVec 4) :=
  match i with
  | .nop => some 0
  | .copy _ d _ => some d
  | .xpt _ _ d _ => some d
  | .sel _ _ d _ => some d
  | .bcst _ _ d _ _ => some d
  | .shuf _ _ d _ => some d
  | .zip _ _ d _ _ => some d
  | .unz _ _ d _ _ => some d
  | .pmov _ => some 0
  | .pget d _ => some d
  | .fadd _ _ d _ _ => some d
  | .fma _ _ _ d _ _ => some d
  | .fcmp _ _ d _ _ => some d
  | .ftab _ d _ _ _ => some d
  | .fsumO _ d _ => some d
  | .iadd _ _ d _ _ => some d
  | .vshl _ _ _ d _ _ => some d
  | .icmp _ _ d _ _ => some d
  | .isum _ d _ => some d
  | .cvt _ _ d _ _ => some d
  | .pack _ _ d => some d
  | .qdec _ _ d _ => some d
  | .iter d _ _ => some d
  | .done => some 0
  | _ => none

/-- The rows of `rowDir` whose format code in FD must not be reserved: all but those that R281 and R297 let ignore it. -/
def Sys2Proof.Claims.readsFd (i : Instr) : Bool :=
  match i with
  | .nop => true
  | .copy _ _ _ => true
  | .xpt _ _ _ _ => true
  | .sel _ _ _ _ => true
  | .bcst _ _ _ _ _ => true
  | .shuf _ _ _ _ => true
  | .zip _ _ _ _ _ => true
  | .unz _ _ _ _ _ => true
  | .pmov _ => true
  | .pget _ _ => true
  | .vshl _ _ _ _ _ _ => true
  | .cvt _ _ _ _ _ => true
  | .pack _ _ _ => true
  | .qdec _ _ _ _ => true
  | .done => true
  | _ => false

/-- Rows of every group: a row whose instance is not admitted does nothing (R26); one whose DIR names the operand port of a
CE that has none, whose FA is reserved, or whose FD is reserved and not ignored, raises ILL: unless the region's fault stop
has begun, the stop begins in this cycle with the row's place, and its core takes the trap with source CE (R60, R229, R230).
That TRAPPC is the core's pc after a fault of the fabric is the model's choice (log 20). -/
def Obligations.RowNullificationAndFaults : Prop :=
  ∀ (s : State) (i : Instr) (d : BitVec 4), Claims.rowDir i = some d →
    (s.curRow = none → exec i s = .next s) ∧
    (∀ c, s.curRow = some c → (d = 14 ∧ c.sl % 6 = 0 ∨ 20 < (s.fcfg c).toNat % 32 ∨
        Claims.readsFd i = true ∧ 20 < (s.fcfg c).toNat / 2 ^ 8 % 32) → ∃ t, exec i s = .next t ∧
      SameBytes s t ∧ t.die c.d = { s.die c.d with core := (t.die c.d).core, regs := (t.die c.d).regs, token := (t.die c.d).token } ∧
      (∀ e, e ≠ c.d → t.die e = s.die e) ∧
      ((s.region c.d c.reg).fstop = none →
        (t.core c.d).trapc.toNat % 2 ^ 12 = 0x001 ∧ (t.core c.d).smode = true ∧
        (t.core c.d).trappc = (s.core c.d).pc ∧ (t.core c.d).pc = Config.firmwareVector ∧ (t.core c.d).a = (s.core c.d).a ∧
        (t.die c.d).token = none ∧
        ∃ f, (t.region c.d c.reg).fstop = some f ∧ f.wall = s.cycle ∧ f.f = (s.region c.d c.reg).rc % 2 ^ 32 ∧ f.src = 0 ∧
          f.code = 0x01 ∧ f.ring = c.r ∧ f.slot = c.sl ∧ f.row = c.mc ∧ f.stage = c.stage))


/-! ### Regions, memory nodes, matrix nodes -/

/-- A region that is frozen, halted or not started stands still; one that runs counts RC, except while it holds; a lane value
moves one slot, up on lanes 0 to 5 and down on lanes 6 to 11; a result whose last cycle ends enters L of its CE where its
mask is set, or P; a GO that is due starts the region at RC 0, and its nodes' earlier stores are visible from then on (R25, R37,
R54, R55, R58, R184, R309). That RC is counted without bound and read modulo 2^32 (log 24), and that GO empties the list of tile
tasks in progress (log 23), is the model's choice. -/
def Obligations.RegionCycleEnds : Prop :=
  (∀ (s : State) (d n : Nat) (w : Word), ((s.region d n).run = false ∨ (s.region d n).halted = true ∨
      (s.region d n).frz ≠ none) → s.tickRegion d n w = s) ∧
  (∀ (s : State) (d n : Nat) (w : Word), let x := s.region d n
    x.run = true → x.halted = false → x.frz = none → x.fstop = none →
    let first := w.toNat / 2 ^ 58
    let last := w.toNat / 2 ^ 52 % 64
    (x.pipe = [] → let t := s.tickRegion d n w
      t.region d n = { x with rc := if x.hold then x.rc else x.rc + 1 } ∧ SameOutsideDies s t ∧ OnlyDie s t d ∧
      (∀ r ln sl v, (s.die d).lanes = [(laneKey r ln sl, v)] → v ≠ 0 → first ≤ r → r ≤ last → ln < 12 → (s.die d).g2 = false →
        sl < 48 → ∀ q, t.laneVal d r ln q = if q = (if ln < 6 then (sl + 1) % 48 else (sl + 47) % 48) then v else
          (if q < 48 then 0 else t.laneVal d r ln q))) ∧
    (∀ p, x.pipe = [p] → first ≤ p.ring → p.ring ≤ last → let t := s.tickRegion d n w
      (1 < p.left → (t.region d n).pipe = [{ p with left := p.left - 1 }] ∧ (t.die d).ces = (s.die d).ces) ∧
      (p.left ≤ 1 → (t.region d n).pipe = [] ∧
        (∀ v mask dir, p.eff = .result v mask dir 0 → dir ≤ 12 →
          (t.ce d p.ring p.slot).k = (s.ce d p.ring p.slot).k ∧
          (∀ b, b < 512 → (t.ce d p.ring p.slot).l.getLsbD b =
            if mask.getLsbD b then v.getLsbD b else (s.ce d p.ring p.slot).l.getLsbD b) ∧
          (0 < dir → t.laneVal d p.ring (dir - 1) p.slot = (t.ce d p.ring p.slot).l)) ∧
        (∀ q, p.eff = .pred q → t.ce d p.ring p.slot = { s.ce d p.ring p.slot with p := q }) ∧
        (∀ m v mask, p.eff = .rot m v mask 0 → ∀ b, b < 512 → (tget 0 (t.ce d p.ring p.slot).k m).getLsbD b =
          if mask.getLsbD b then v.getLsbD b else (tget 0 (s.ce d p.ring p.slot).k m).getLsbD b)))) ∧
  (∀ (x : Region) (now g : Nat), x.goAt = some g → x.takeGo now =
    if g ≤ now then { x with run := true, hold := false, goAt := none, rc := 0, tasks := [] } else x) ∧
  (∀ (s : State) (d n : Nat) (w : Word), let t := s.takeGo d n w
    t.region d n = (s.region d n).takeGo s.cycle ∧ SameOutsideDies s t ∧ OnlyDie s t d ∧
    (∀ m, m ≠ n → t.region d m = s.region d m) ∧
    (∀ g r sl, (s.region d n).goAt = some g → g ≤ s.cycle → w.toNat / 2 ^ 58 ≤ r → r ≤ w.toNat / 2 ^ 52 % 64 → sl < 48 →
      t.mn d r sl = { s.mn d r sl with recent := [] }))

/-- The entry of the current node is live, legal and has no freeze cause. -/
def Sys2Proof.Claims.EntryLive (s : State) (c : RowCtx) (i : Instr) : Prop :=
  s.curRow = some c ∧ s.mnIllegal c i = false ∧ s.mnCause c i = false

/-- A read entry: the `n` bytes read enter the region's pipe for the read-data latch and its lane; no byte of memory
changes; of the node only `pos` of generator `ag` may move. -/
def Sys2Proof.Claims.NodeReads (i : Instr) (s : State) (c : RowCtx) (lane_ : BitVec 5) (pred : BitVec 2) (n : Nat) (read : Nat → Byte)
    (pos : Tab Nat) : Prop :=
  ∃ t v, exec i s = .next t ∧ SameBytes s t ∧ SameSystem s t ∧ OnlyDie s t c.d ∧
    t.die c.d = { s.die c.d with mns := (t.die c.d).mns, regs := (t.die c.d).regs, derivs := (t.die c.d).derivs } ∧
    t.region c.d c.reg = { s.region c.d c.reg with pipe := (s.region c.d c.reg).pipe ++
      [⟨if (s.die c.d).g2 then 6 else 4, c.r, c.sl, c.mc, c.stage, .latch v (s.predLatch c pred) lane_.toNat⟩] } ∧
    (t.mn c.d c.r c.sl).latch = (s.mn c.d c.r c.sl).latch ∧ (t.mn c.d c.r c.sl).recent = (s.mn c.d c.r c.sl).recent ∧
    (t.mn c.d c.r c.sl).agpos = pos ∧
    (∀ k, k ≠ 48 * c.r + c.sl → tget {} (t.die c.d).mns k = tget {} (s.die c.d).mns k) ∧
    ∀ j, j < 64 → lane 8 v j = if j < n then (read j).toNat else 0

/-- A store entry: exactly the bytes at node offsets `a + j` that `new` gives change, by one store of the node; no lane, no
CE, no core and no other die changes. -/
def Sys2Proof.Claims.NodeStores (s t : State) (c : RowCtx) (a n : Nat) (new : Nat → Option Byte) : Prop :=
  let key := sramKey c.d c.r (nodeOfSlot c.sl) a
  (∀ j, j < n → t.byte (key + j) = (new j).getD (s.byte (key + j))) ∧ SameBytesOutside s t key n ∧
  SameSystem s t ∧ OnlyDie s t c.d ∧ t.core c.d = s.core c.d ∧ (t.die c.d).ces = (s.die c.d).ces ∧
  (t.die c.d).lanes = (s.die c.d).lanes ∧ (t.die c.d).act = (s.die c.d).act ∧ (t.die c.d).xns = (s.die c.d).xns ∧
  (t.mn c.d c.r c.sl).latch = (s.mn c.d c.r c.sl).latch

/-- The next position of an address generator. -/
def Sys2Proof.Claims.advanced (s : State) (c : RowCtx) (ag : BitVec 2) : Tab Nat :=
  tset 0 (s.mn c.d c.r c.sl).agpos ag.toNat (agNext (s.agRec c ag) (s.agPos c ag))

/-- LDS, LDX and DRD read their bytes into the latch and the lane; STS, STX store the bytes PRED lets through at the computed
offset and nowhere else; the generator of LDS and STS advances by one, that of the others stands (R91, R278, R309 to R311,
R356, R357). -/
def Obligations.NodeAccessResults : Prop :=
  ∀ (s : State) (c : RowCtx) (ln : BitVec 5) (pred ag : BitVec 2) (chk : BitVec 1) (sh : BitVec 8) (mode : BitVec 3)
    (imm : BitVec 32) (dix : BitVec 4),
    (let i := Instr.lds ln pred ag chk sh
     let lsz := agLsz (s.agRec c ag)
     ∀ a u, Claims.EntryLive s c i → lsz < 7 →
      s.entryAt c sh false (agOffset (s.agRec c ag) (s.agPos c ag)) (2 ^ lsz) = .ok a → s.tagCheck c chk sh = .ok u →
      s.nodePoison c a (2 ^ lsz) = false →
      Claims.NodeReads i s c ln pred (2 ^ lsz) (fun j => ((s.nodeRead c a (2 ^ lsz))[j]?).getD 0) (Claims.advanced s c ag)) ∧
    (let i := Instr.ldx ln pred mode ag chk sh imm
     ∀ a u, Claims.EntryLive s c i → mode.toNat < 7 → s.indexedAt c ag sh false imm (2 ^ mode.toNat) = .ok a →
      s.tagCheck c chk sh = .ok u → s.nodePoison c a (2 ^ mode.toNat) = false →
      Claims.NodeReads i s c ln pred (2 ^ mode.toNat) (fun j => ((s.nodeRead c a (2 ^ mode.toNat))[j]?).getD 0)
        (s.mn c.d c.r c.sl).agpos) ∧
    (let i := Instr.drd ln pred dix imm
     ∀ x, Claims.EntryLive s c i → s.deriv c.d c.r (nodeOfSlot c.sl) dix.toNat = some x → x.building = false →
      imm.toNat < x.arrayLen → imm.toNat % 64 = 0 → s.shadowPoison c.d c.r (nodeOfSlot c.sl) imm.toNat 64 x = false →
      Claims.NodeReads i s c ln pred 64
        (fun j => (((s.derivRead c.d c.r (nodeOfSlot c.sl) dix.toNat imm.toNat 64 x).1)[j]?).getD 0) (s.mn c.d c.r c.sl).agpos) ∧
    (let i := Instr.sts ln pred ag sh
     let lsz := agLsz (s.agRec c ag)
     ∀ a, Claims.EntryLive s c i → lsz < 7 →
      s.entryAt c sh true (agOffset (s.agRec c ag) (s.agPos c ag)) (2 ^ lsz) = .ok a → ∃ t, exec i s = .next t ∧
      Claims.NodeStores s t c a (2 ^ lsz) (fun j => if s.predByte c pred j then
        some ((s.nodeSource c ln).extractLsb' (8 * j) 8) else none) ∧
      (t.mn c.d c.r c.sl).agpos = Claims.advanced s c ag ∧ (t.die c.d).regs = (s.die c.d).regs) ∧
    (let i := Instr.stx ln pred mode ag sh imm
     ∀ a, Claims.EntryLive s c i → s.indexedAt c ag sh true imm (2 ^ mode.toNat) = .ok a → ∃ t, exec i s = .next t ∧
      Claims.NodeStores s t c a (2 ^ mode.toNat) (fun j => if s.predByte c pred j then
        some ((s.nodeSource c ln).extractLsb' (8 * j) 8) else none) ∧
      (t.mn c.d c.r c.sl).agpos = (s.mn c.d c.r c.sl).agpos ∧ (t.die c.d).regs = (s.die c.d).regs)

/-- AMO.O and AMO.U read the old value, combine the lanes that PRED lets through with it and store the result at the computed
offset alone; the old value enters the pipe for its lane and the latch, with LANE 13 to 15 for the latch alone; with no lane
let through nothing happens. MNOP and MFENCE do
nothing. SHPUB and SHREL enter the pipe with the tag counted from the shelf's TAG; SHREL of an empty buffer raises SCHED, an
invalid shelf ACCESS. An illegal entry raises ILL, one with a cause freezes its region (R37, R90, R94, R213, R256, R257, R315,
R350). -/
def Obligations.NodeAtomicAndShelfResults : Prop :=
  ∀ (s : State) (c : RowCtx) (ln : BitVec 5) (pred ag : BitVec 2) (sh : BitVec 8) (mode : BitVec 3)
    (imm : BitVec 32) (dix : BitVec 4),
    (∀ ordered, let i := if ordered then Instr.amoO ln pred mode ag sh imm else Instr.amoU ln pred mode ag sh imm
     let w := if mode = 1 ∨ mode = 6 then 64 else 32
     let on := (List.range (512 / w)).filter (s.predBit c pred w)
     ∀ a, Claims.EntryLive s c i → s.indexedAt c ag sh true imm (w / 8) = .ok a → s.nodePoison c a (w / 8) = false →
      (on = [] → exec i s = .next s) ∧
      (on ≠ [] → ∃ t v mask, exec i s = .next t ∧
        let x := amoApply (s.die c.d).g2 ordered mode (leNat (s.nodeRead c a (w / 8))) (on.map (lane w (s.nodeSource c ln)))
        Claims.NodeStores s t c a (w / 8) (fun j => some (BitVec.ofNat 8 (x / 2 ^ (8 * j)))) ∧
        t.region c.d c.reg = { s.region c.d c.reg with pipe := (s.region c.d c.reg).pipe ++
          [⟨if (s.die c.d).g2 then 8 else 6, c.r, c.sl, c.mc, c.stage, .latch v mask (if ln.toNat ≤ 12 then ln.toNat else 0)⟩] } ∧
        ∀ j, j < 512 / w → lane w v j = leNat (s.nodeRead c a (w / 8)) ∧
          lane w mask j = if s.predBit c pred w j then 2 ^ w - 1 else 0)) ∧
    (Claims.EntryLive s c .mnop → exec .mnop s = .next s) ∧
    (Claims.EntryLive s c (.mfence dix imm) → exec (.mfence dix imm) s = .next s) ∧
    (let w := s.shelf c.d c.r c.sl sh.toNat
     let b := s.buf c.d c.r c.sl sh.toNat
     let pipes (i : Instr) (e : Eff) : Prop := ∃ t, exec i s = .next t ∧ SameOutsideDies s t ∧ OnlyDie s t c.d ∧
       t.die c.d = { s.die c.d with regs := (t.die c.d).regs } ∧ t.region c.d c.reg = { s.region c.d c.reg with
         pipe := (s.region c.d c.reg).pipe ++ [⟨1, c.r, c.sl, c.mc, c.stage, e⟩] }
     (Claims.EntryLive s c (.shpub sh) →
       (w.getLsbD 42 = true → pipes (.shpub sh) (.pub sh.toNat (BitVec.ofNat 16 ((w.toNat / 2 ^ 48 + b.pc) % 65535)))) ∧
       (w.getLsbD 42 = false → exec (.shpub sh) s = .next (s.mnFault c ⟨0x05, 0, 0, 0⟩))) ∧
     (Claims.EntryLive s c (.shrel sh) →
       (w.getLsbD 42 = true → b.full.getLsbD (b.cc % (w.toNat / 2 ^ 45 % 8 + 1)) = true → pipes (.shrel sh) (.rel sh.toNat)) ∧
       (w.getLsbD 42 = true → b.full.getLsbD (b.cc % (w.toNat / 2 ^ 45 % 8 + 1)) = false →
         exec (.shrel sh) s = .next (s.mnFault c ⟨0x07, 0, 0, 0⟩)) ∧
       (w.getLsbD 42 = false → exec (.shrel sh) s = .next (s.mnFault c ⟨0x05, 0, 0, 0⟩)))) ∧
    (∀ i, (i = .lds ln pred ag 0 sh ∨ i = .sts ln pred ag sh ∨ i = .ldx ln pred mode ag 0 sh imm ∨
        i = .stx ln pred mode ag sh imm ∨ i = .amoO ln pred mode ag sh imm ∨ i = .shpub sh) → s.curRow = some c →
      (s.mnIllegal c i = true → exec i s = .next (s.mnFault c ⟨0x01, s.mnEntry c, 0, 0⟩)) ∧
      (s.mnIllegal c i = false → s.mnCause c i = true → ∃ t, exec i s = .next t ∧ SameOutsideDies s t ∧ OnlyDie s t c.d ∧
        t.die c.d = { s.die c.d with regs := (t.die c.d).regs } ∧ ((s.region c.d c.reg).frz = none →
          t.region c.d c.reg = { s.region c.d c.reg with frz := some ⟨s.cycle, none, c.r, c.sl, false⟩ })))

/-- The accumulator whose version an entry checks (R174); in the G2 profile the dendritic opcodes are reserved (R120). -/
def Sys2Proof.Claims.versioned (g2 : Bool) (i : Instr) : Option Nat :=
  match i with
  | .xmm a _ _ _ _ _ => some a.toNat
  | .xclr a _ _ => some a.toNat
  | .xwb a _ _ _ _ _ _ _ _ => some a.toNat
  | .xsta a _ _ _ _ => some a.toNat
  | .xlda a _ _ _ _ => some a.toNat
  | .xdnd _ _ _ _ _ _ _ => if g2 then none else some 0
  | .xdfin _ _ _ _ _ _ => if g2 then none else some 0
  | .xdbx _ _ _ _ _ _ _ => if g2 then none else some 0
  | .xdbw _ _ _ _ _ _ _ => if g2 then none else some 0
  | _ => none

/-- The entries that fire. -/
def Sys2Proof.Claims.fires (i : Instr) : Bool := (Claims.versioned false i).isSome || (match i with
  | .xtrq _ _ => true
  | _ => false)

/-- Cycles from firing to completion of the entries whose count depends on no map (R169, R173). -/
def Sys2Proof.Claims.cycles (s : State) (c : RowCtx) (i : Instr) : Option Nat :=
  let step := stepCycles (s.die c.d).g2 (s.xfa c.d c.r c.sl) (s.xfd c.d c.r c.sl)
  match i with
  | .xmm _ _ _ _ k _ => some (k.toNat * step)
  | .xdnd _ _ _ k _ _ _ => some (k.toNat * step)
  | .xclr _ _ _ => some 2
  | .xwb _ _ _ _ k _ _ _ _ => some (8 + 2 * laneWidth k.toNat)
  | .xtrq _ _ => some 24
  | .xsta _ _ _ _ _ => some 64
  | .xlda _ _ _ _ _ => some 325
  | .xdfin _ _ _ _ lb tap => some (if tap = 1 then 48 + 2 * branches lb * planeCols lb else 48)
  | _ => none

/-- An XN entry of an admitted instance whose version is due, with its buffers and units free and no fault, fires: the
operation enters the XN's flight with its cycle count, EV moves on by VS(a), and nothing else of the state changes. A
passed version raises VERSION, a cause freezes the region, a fault raises its code; a nullified entry only completes its
version (R170, R173, R174, R181, R367). XNOP does nothing (R315). The entry is the one whose word stands in the slot. -/
def Obligations.MatrixEntryResults : Prop :=
  ∀ (s : State) (c : RowCtx) (i : Instr), exec .xnop s = .next s ∧ (Claims.fires i = true →
    let x := s.xn c.d c.r c.sl
    let cfg := (s.die c.d).act.xnCfg c.r c.sl
    let word := tget 0 cfg.rows c.idx
    let ev := tget 0 x.ev c.idx
    let late := ∃ a, Claims.versioned (s.die c.d).g2 i = some a ∧ 128 ≤ (ev - x.ver a).toNat
    let moved := match Claims.versioned (s.die c.d).g2 i with
      | some a => tset 0 x.ev c.idx (ev + BitVec.ofNat 8 (versionedCount (s.die c.d).g2 cfg a))
      | none => x.ev
    decodeXn word = .ok i →
    (s.xnSlot = some (c, true) → ¬late → s.xnCause c word = false → s.xnFaultOf c.d c.r c.sl i word = none →
      ∃ t f, exec i s = .next t ∧ SameOutsideDies s t ∧ OnlyDie s t c.d ∧
        t.die c.d = { s.die c.d with xns := (t.die c.d).xns } ∧
        (∀ k, k ≠ 48 * c.r + c.sl → tget {} (t.die c.d).xns k = tget {} (s.die c.d).xns k) ∧
        t.xn c.d c.r c.sl = { x with flight := x.flight ++ [f], ev := moved, gc := (t.xn c.d c.r c.sl).gc } ∧
        f.entry = word ∧ f.slotj = c.idx ∧ f.expect = ev ∧ f.cmd = none ∧ f.applied = false ∧
        ∀ n, Claims.cycles s c i = some n → f.left = n) ∧
    (s.xnSlot = some (c, true) → late → ∃ v, exec i s = .next (s.xnRaise c ⟨0x08, v, 0, v⟩) ∧
      ∀ a, Claims.versioned (s.die c.d).g2 i = some a → v.toNat = (x.ver a).toNat + ev.toNat * 2 ^ 8) ∧
    (s.xnSlot = some (c, true) → ¬late → s.xnCause c word = true → exec i s = .next (s.freeze c.d c.reg c.r c.sl false)) ∧
    (∀ e, s.xnSlot = some (c, true) → ¬late → s.xnCause c word = false → s.xnFaultOf c.d c.r c.sl i word = some e →
      exec i s = .next (s.xnRaise c e)) ∧
    (∀ a, Claims.versioned (s.die c.d).g2 i = some a → s.xnSlot = some (c, true) → 1 ≤ (ev - x.ver a).toNat → (ev - x.ver a).toNat ≤ 127 →
      s.xnCause c word = true) ∧
    (s.xnSlot = some (c, false) → ∃ t, exec i s = .next t ∧ SameOutsideDies s t ∧ OnlyDie s t c.d ∧
      (t.xn c.d c.r c.sl).flight = x.flight ∧ (t.xn c.d c.r c.sl).acc = x.acc ∧ (t.xn c.d c.r c.sl).ev = moved ∧
      ∀ a, Claims.versioned (s.die c.d).g2 i = some a → x.nulls = [] → x.ver a = ev → (t.xn c.d c.r c.sl).ver a = ev + 1))

/-- Adding one exact value to a cell at an anchor: NaN stays NaN, infinities combine, a finite value is rounded to the nearest
multiple of 2^anchor, ties to even, and added modulo 2^128 (R77). -/
def Sys2Proof.Claims.AddedOne (anch : Int) (v : FVal) (c e : Cell) : Prop :=
  match v with
  | .nan => e = { c with st := 3 }
  | .inf s => let n : BitVec 2 := if s then 2 else 1
    e = { c with st := if c.st = 0 ∨ c.st = n then n else 3 }
  | v => ∃ k : Nat, Claims.Rounds Claims.IntegerGrid 0 (v.toRat / pow2 anch) k ∧
    e = { c with x := c.x + BitVec.ofInt 128 (if v.toRat < 0 then -k else k) }

/-- Adding several, one after another. -/
def Sys2Proof.Claims.Added (anch : Int) : List FVal → Cell → Cell → Prop
  | [], c, e => e = c
  | v :: l, c, e => ∃ m, Claims.AddedOne anch v c m ∧ Claims.Added anch l m e

/-- A cell takes the exact products of pairs of operands each alone, or with Q16 operands their exact sum times the
super-scale `sup` of the segment (R77, R79). -/
def Sys2Proof.Claims.Accumulated (fd : Nat) (anch : Int) (sup : FVal) (l : List (FVal × FVal)) (c e : Cell) : Prop :=
  let ps := l.map (fun p => (mulNum p.1 p.2).1)
  if fd = 20 then Claims.AddedOne anch (mulNum (ps.foldl (fun t p => (addNum 0 t p).1) (.zero false)) sup).1 c e
  else Claims.Added anch ps c e

/-- XMM adds to each cell of its accumulator the products of its K steps, XDND to each cell of the plane of a branch that its
granules name the products whose granule names it, XDBX and XDBW to each cell of accumulator 0 the products of the gradient
plane of its granule's branch; no other cell changes, no byte either (R77, R79, R171, R177, R179, R370, R372, R374). XDFIN
puts into accumulator 0 the sums over the branches of the curve at the plane's cell, rounded to FP32, times its gain, rounded,
and clears the columns beyond; the other accumulators keep their planes (R178, R371). -/
def Sys2Proof.Claims.MatrixSums : Prop :=
  ∀ (s t : State) (d r sl k : Nat) (f : XFlight) (ver ash bsh kst anch : Byte) (acc lb : BitVec 2) (map : BitVec 3) (tap : BitVec 1),
    let x := s.xn d r sl
    let y := t.xn d r sl
    x.flight[k]? = some f → f.applied = false → f.left = 0 → exec (.xnCompletion d r sl k) s = .next t →
    let fa := s.xfa d r sl
    let fd := s.xfd d r sl
    let A (base rows i j : Nat) : FVal := (planeElem f.dataA base fa rows i j).1
    let B (base rows i j : Nat) : FVal := (planeElem f.dataB base fd rows i j).1
    let pa := planeStride fa 32
    let pb := planeStride fd 32
    let super (base rows n : Nat) : FVal := (planeSuper f.dataB base rows n).1
    let nb := planeCols lb
    let br := branches lb
    let place (b n : Nat) : Nat × Nat := if lb = 2 then (b / 2, 16 * (b % 2) + n) else if lb = 3 then (b / 4, 8 * (b % 4) + n) else (b, n)
    let same (a p q : Nat) : Prop := y.cell a p q = x.cell a p q
    (xnInstr f.entry = some (.xmm acc ver ash bsh kst anch) → SameBytes s t ∧ ∀ a m n, a < 4 → m < 32 → n < 32 →
      (a ≠ acc.toNat → same a m n) ∧ (a = acc.toNat → Claims.Accumulated fd anch.toInt (super 0 32 n)
        ((List.range kst.toNat).flatMap (fun st => (List.range 64).map (fun e => (A (st * pa) 32 m e, B (st * pb) 32 n e))))
        (x.cell a m n) (y.cell a m n))) ∧
    ∀ tb, tget none (s.die d).act.maps (8 * (48 * r + sl) + map.toNat) = some tb →
      let branch (g : Nat) : Nat := tb.toNat / 2 ^ (128 + 4 * g) % 16
      (xnInstr f.entry = some (.xdnd ver ash bsh kst anch map lb) → SameBytes s t ∧
        (∀ a p q, a < 4 → p < 32 → q < 32 → (∀ b n, b < br → n < nb → (∃ i, i < 8 * kst.toNat ∧ branch (f.gc + i) = b) →
          place b n ≠ (a, q)) → same a p q) ∧
        ∀ b m n, b < br → m < 32 → n < nb → (∃ i, i < 8 * kst.toNat ∧ branch (f.gc + i) = b) →
          let st := planeStride fd nb
          Claims.Accumulated fd anch.toInt (super 0 nb n)
            ((List.range kst.toNat).flatMap (fun i => ((List.range 64).filter (fun e => branch (f.gc + 8 * i + e / 8) = b)).map
              (fun e => (A (i * pa) 32 m e, B (i * st) nb n e))))
            (x.cell (place b n).1 m (place b n).2) (y.cell (place b n).1 m (place b n).2)) ∧
      (xnInstr f.entry = some (.xdbx ver ash bsh kst anch map lb) → SameBytes s t ∧
        (∀ a p q, a < 4 → a ≠ 0 → p < 32 → q < 32 → same a p q) ∧
        ∀ m q, m < 32 → q < 32 → Claims.Accumulated fd anch.toInt (super 0 32 q)
          ((List.range kst.toNat).flatMap (fun i => (List.range 64).map (fun n =>
            (A ((i * br + branch (f.gc + q / 8)) * pa) 32 m n, B (i * pb) 32 q n)))) (x.cell 0 m q) (y.cell 0 m q)) ∧
      (xnInstr f.entry = some (.xdbw ver ash bsh kst anch map lb) → SameBytes s t ∧
        (∀ a p q, a < 4 → a ≠ 0 → p < 32 → q < 32 → same a p q) ∧
        ∀ p n, p < 32 → n < 32 → let b := branch (f.gc + p / 8)
          Claims.Accumulated fd anch.toInt (super (b * pb) 32 n)
            ((List.range kst.toNat).flatMap (fun i => (List.range 64).map (fun m =>
              (A (i * pa) 32 p m, B ((i * br + b) * pb) 32 n m)))) (x.cell 0 p n) (y.cell 0 p n)) ∧
      (xnInstr f.entry = some (.xdfin ver ash anch map lb tap) → SameBytes s t ∧ y.anchor 0 = anch ∧
        (∀ a p q, a < 4 → a ≠ 0 → p < 32 → q < 32 → same a p q) ∧
        (∀ p q, p < 32 → nb ≤ q → q < 32 → y.cell 0 p q = {}) ∧
        ∀ m n, m < 32 → n < nb → Claims.Added anch.toInt ((List.range br).map (fun b =>
          let curve := (tget none (s.die d).act.curves (16 * (48 * r + sl) + tb.toNat / 2 ^ (4 * b) % 16)).getD 0
          let e := x.cell (place b n).1 m (place b n).2
          let v : FVal := if e.st = 3 then .nan else if e.st = 1 then .inf false else if e.st = 2 then .inf true
            else if e.x = 0 then .zero false else .fin (e.x.toInt * pow2 (x.anchor (place b n).1).toInt)
          let at_ := if e.st = 0 ∧ x.ovfBit (place b n).1 = true then (if e.x.toInt < 0 then 0xFF7FFFFF else 0x7F7FFFFF)
            else (roundTo 0 0 v).1
          let g := (tabEval curve 0 false ((ffmt 0).decode at_)).1
          (ffmt 0).decode (roundTo 0 0 (mulNum g ((ffmt 0).decode (curve.toNat / 2 ^ 64 % 2 ^ 32))).1).1)) {} (y.cell 0 m n))

/-- What XWB writes for a cell (R80): a scale that is a format error gives NaN; an overflowed finite cell gives a bound or the
extreme of the destination by its sign; any other is scaled and clipped exactly and rounded once by RM. -/
def Sys2Proof.Claims.WrittenBack (x : Xn) (rm acc m n dst : Nat) (scale : Option (Option FVal)) (clip : Option (FVal × FVal)) : Nat :=
  let c := x.cell acc m n
  let neg := decide (c.x.toInt < 0)
  let v : FVal := if c.st = 3 then .nan else if c.st = 1 then .inf false else if c.st = 2 then .inf true
    else if c.x = 0 then .zero false else .fin (c.x.toInt * pow2 (x.anchor acc).toInt)
  let scaled : FVal := match scale with
    | some (some q) => (mulNum v q).1
    | _ => v
  let clipped : FVal := match clip with
    | some (lo, hi) => if scaled.isNan then scaled else if belowNum scaled lo then lo else if belowNum hi scaled then hi else scaled
    | none => scaled
  if scale = some none then (roundTo dst 0 .nan).1
  else if c.st = 0 ∧ x.ovfBit acc = true then match clip with
    | some (lo, hi) => (roundTo dst 0 (if neg then lo else hi)).1
    | none => if isInteger dst then Claims.wrap (laneWidth dst) (if neg then -2 ^ (laneWidth dst - 1) else 2 ^ (laneWidth dst - 1) - 1)
      else (ffmt dst).maxMag + if neg then 2 ^ ((ffmt dst).bits - 1) else 0
  else (roundTo dst rm clipped).1

/-- What the operations of the output unit write: XWB the 32 × 32 results of R80 in the destination format; XDFIN with TAP the
derivatives of its curves times their gains, in FP32 (R178); XTRQ the transposed tile with new scales, each element rounded
once (R83, R377); XSTA the image that it holds. They are formed in the cycle of the first beat; each beat of 64 B goes to its
place in the producer buffer, and no other byte changes (R173). None changes an accumulator; XWB and XTRQ leave their last beat
in the result latch (R52, R379), of which the spec gives XTRQ's low half alone. -/
def Sys2Proof.Claims.MatrixWrites : Prop :=
  ∀ (s : State) (d r sl : Nat) (f : XFlight) (ver ash bsh kst anch : Byte) (acc lb : BitVec 2) (map : BitVec 3)
    (sfmt clip scale dside : BitVec 1),
    let x := s.xn d r sl
    let out := s.xnForm d r sl f
    let piece (o n : Nat) : Nat := leNat ((out.drop o).take n)
    let word (j : Nat) : Nat := ((f.par[j]?).getD 0).toNat
    let fp (w : Nat) : FVal := (ffmt 0).decode w
    let same (t : State) : Prop := (t.xn d r sl).acc = x.acc ∧ (t.xn d r sl).anch = x.anch ∧ (t.xn d r sl).ovf = x.ovf ∧ SameBytes s t
    (xnInstr f.entry = some (.xwb acc ver ash bsh kst sfmt clip scale dside) → kst.toNat ≤ 11 →
      let w := laneWidth kst.toNat
      let sc : Option (Option FVal) := if scale = 0 then none else if sfmt = 1 then some ((sb20 (word 0)).map FVal.ofRat)
        else some (if (fp (word 0)).isNan ∨ (fp (word 0)).isInf then none else some (fp (word 0)))
      out.length = 128 * w ∧
      (∀ m n, m < 32 → n < 32 → leNat out / 2 ^ (w * (32 * m + n)) % 2 ^ w =
        Claims.WrittenBack x (s.xrm d r sl) acc.toNat m n kst.toNat sc (if clip = 1 then some (fp (word 1), fp (word 2)) else none)) ∧
      ∀ k t, x.flight[k]? = some f → f.applied = false → f.left = 0 → exec (.xnCompletion d r sl k) s = .next t →
        same t ∧ (t.xn d r sl).latch.toNat = leNat (out.drop (out.length - 64))) ∧
    (∀ tb, tget none (s.die d).act.maps (8 * (48 * r + sl) + map.toNat) = some tb →
      xnInstr f.entry = some (.xdfin ver ash anch map lb 1) →
      let nb := planeCols lb
      out.length = 128 * branches lb * nb ∧ ∀ b m n, b < branches lb → m < 32 → n < nb →
        let curve := (tget none (s.die d).act.curves (16 * (48 * r + sl) + tb.toNat / 2 ^ (4 * b) % 16)).getD 0
        let p : Nat × Nat := if lb = 2 then (b / 2, 16 * (b % 2) + n) else if lb = 3 then (b / 4, 8 * (b % 4) + n) else (b, n)
        let at_ := Claims.WrittenBack x 0 p.1 m p.2 0 none none
        piece (4 * ((32 * b + m) * nb + n)) 4 = (roundTo 0 0 (mulNum (tabEval curve 0 true (fp at_)).1
          (fp (curve.toNat / 2 ^ 64 % 2 ^ 32))).1).1) ∧
    (xnInstr f.entry = some (.xtrq ash bsh) → f.dataA.length = 1056 → (s.xfa d r sl = 12 ∨ s.xfa d r sl = 13) →
      let fa := s.xfa d r sl
      let old (i j : Nat) : FVal := (decodeBlock fa (leNat ((f.dataA.drop (32 * i + j)).take 1)) (leNat ((f.dataA.drop (1024 + i)).take 1)) 0).1
      let top (i : Nat) := absMax ((List.range 32).map (fun j => old j i))
      out.length = 1056 ∧ (∀ i, i < 32 → piece (1024 + i) 1 = (blockScale fa (top i).1 (top i).2).1) ∧
      (∀ i j, i < 32 → j < 32 → let e := piece (1024 + i) 1
        piece (32 * i + j) 1 = if e = 255 then (roundTo (fa - 9) 0 .nan).1
          else (roundTo (fa - 9) 0 (mulNum (old j i) (.fin (pow2 (127 - (e : Int))))).1).1) ∧
      ∀ k t, x.flight[k]? = some f → f.applied = false → f.left = 0 → exec (.xnCompletion d r sl k) s = .next t →
        same t ∧ (t.xn d r sl).latch.toNat % 2 ^ 256 = leNat (out.drop 1024)) ∧
    (xnInstr f.entry = some (.xsta acc ver ash bsh dside) → out = f.out) ∧
    (∀ p, x.flight = [f] → f.writePort = some p → s.derivsOf d r (nodeOfSlot (mnOfXn sl p.east)) = [] →
      let t := s.xnCycle d r sl true false
      let gone := f.total - f.busy
      let bytes := if gone = p.first then out else f.out
      let o := 64 * (gone - p.first)
      let key := sramKey d r (nodeOfSlot (mnOfXn sl p.east)) (f.baseD + o)
      o + 64 ≤ bytes.length → p.first ≤ gone ∧ gone ≤ p.last ∧
        (∀ i, i < 64 → some (t.byte (key + i)) = bytes[o + i]?) ∧ SameBytesOutside s t key 64 ∧ (t.xn d r sl).acc = x.acc) ∧
    (x.flight = [f] → f.writePort = none → SameBytes s (s.xnCycle d r sl true false))

/-- XN_COMPLETION of an operation whose cycles are over: its effect, its accumulator's version and, for a command with SETEN,
its slot; XCLR clears one accumulator and no other; from XSTA's completion on the operation holds the image of its accumulator,
and XLDA takes from an image the cells, the anchor and the overflow bit that it was made of (R173 to R175, R368, R373).
XN_COMMAND_START moves the head command into flight when its slots are set, its version due and its buffers ready; a passed
version raises VERSION and discards it (R175, R367). -/
def Sys2Proof.Claims.MatrixCompletions : Prop :=
  (∀ (s : State) (d r sl k : Nat) (f : XFlight) (i : Instr),
    let x := s.xn d r sl
    x.flight[k]? = some f → xnInstr f.entry = some i → f.applied = false → f.left = 0 →
    teOf ((s.die d).act.xnCfg r sl).fcfg = 0 →
    ∃ t, exec (.xnCompletion d r sl k) s = .next t ∧ SameSystem s t ∧ OnlyDie s t d ∧
      (t.core d).a = (s.core d).a ∧ (t.core d).pc = (s.core d).pc ∧ (t.die d).ces = (s.die d).ces ∧
      (f.busy = 0 → (∀ a v e g m, i ≠ .xsta a v e g m) → (t.xn d r sl).flight = x.flight.eraseIdx k) ∧
      (∀ a, Claims.versioned (s.die d).g2 i = some a → x.nulls = [] → (t.xn d r sl).ver a = f.expect + 1) ∧
      (f.cmd = none → (t.core d).slots = (s.core d).slots) ∧
      (∀ w, f.cmd = some w → w.getLsbD 25 = true → (t.core d).slots.getLsbD (w.toNat / 2 ^ 22 % 8) = true) ∧
      (∀ acc ver anch, i = .xclr acc ver anch → SameBytes s t ∧ (t.xn d r sl).anchor acc.toNat = anch ∧
        (t.xn d r sl).ovfBit acc.toNat = false ∧
        (t.xn d r sl).flags = x.flags ∧ (∀ m n, m < 32 → n < 32 → (t.xn d r sl).cell acc.toNat m n = {}) ∧
        (t.xn d r sl).acc = x.acc.filter (fun e => e.1 / 1024 != acc.toNat)) ∧
      (∀ acc ver ash bsh m, i = .xsta acc ver ash bsh m → (t.xn d r sl).acc = x.acc ∧ SameBytes s t ∧
        (f.busy ≠ 0 → ∃ h, (t.xn d r sl).flight[k]? = some h ∧ h = { f with out := x.image acc.toNat, applied := true })) ∧
      (∀ acc ver ash bsh m (y : Xn) b, i = .xlda acc ver ash bsh m → b < 4 →
        (if m = 1 then f.dataB else f.dataA) = y.image b → SameBytes s t ∧
        (t.xn d r sl).anchor acc.toNat = y.anchor b ∧ (t.xn d r sl).ovfBit acc.toNat = y.ovfBit b ∧
        ∀ p q, p < 32 → q < 32 → (t.xn d r sl).cell acc.toNat p q = y.cell b p q)) ∧
  (∀ (s : State) (d r sl n : Nat) (desc dsc word : Word) (i : Instr),
    (s.die d).act.regionAt r = some (n, desc) →
    (s.xnHead d r sl = none → exec (.xnCommandStart d r sl) s = .next s) ∧
    (let u := s.setXn d r sl { s.xn d r sl with cmds := (s.xn d r sl).cmds.tail }
     (s.xnHead d r sl = some (dsc, word, i, false) → (s.headBlocked d r sl = true ∨ s.headFrozen d n r sl = true) →
       exec (.xnCommandStart d r sl) s = .next s) ∧
     (s.xnHead d r sl = some (dsc, word, i, true) → ∃ v, exec (.xnCommandStart d r sl) s =
       .next (u.raiseFault d n r sl 2 0x08 0 0 v 0 v)) ∧
     (s.xnHead d r sl = some (dsc, word, i, false) → s.headBlocked d r sl = false → s.headFrozen d n r sl = false →
      u.xnFaultOf d r sl i word = none →
      ∃ t f, exec (.xnCommandStart d r sl) s = .next t ∧ SameOutsideDies s t ∧ OnlyDie s t d ∧
        (t.xn d r sl).cmds = (s.xn d r sl).cmds.tail ∧ (t.xn d r sl).flight = (s.xn d r sl).flight ++ [f] ∧
        f.entry = word ∧ f.cmd = some dsc ∧ f.expect.toNat = word.toNat / 2 ^ 48 % 2 ^ 8 ∧ f.left = (u.xnNeeds d r sl i).left)))

/-- XN operations complete, with their sums and what they write; commands start (R77 to R80, R83, R173 to R175, R177 to R179). -/
def Obligations.MatrixCompletionResults : Prop := Claims.MatrixCompletions ∧ Claims.MatrixSums ∧ Claims.MatrixWrites

/-! ### Device steps: the management processor, the stacks, the host -/

/-- Only the management processor changes. -/
def Sys2Proof.Claims.OnlyMgmt (s t : State) : Prop := t = { s with mgmt := t.mgmt }

/-- Only stack `k` changes. -/
def Sys2Proof.Claims.OnlyStack (s t : State) (k : Nat) : Prop :=
  t = { s with stackTab := t.stackTab } ∧ ∀ j, j ≠ k → t.stack j = s.stack j

/-- Firmware's writes of ALARMP (never lowered), ALARMS (a one clears), AGE_LIMIT (used from the next pass on) and HTAB
(bits 47:9); throttling by power and heat; a corrected error is counted, an uncorrected one poisons its granule; a link
that loses lock goes down to retrain, and faults the launch that uses it with LINK; it comes up again when no admitted
launch holds a circuit on it (R19, R21, R22, R235, R244, R246, R340). A granule that a base-die engine has left for later is read
before it is poisoned (R195). Which die a mesh link belongs to is the model's numbering (log 13), and that TRAPPC is the core's pc
after LINK the model's choice (log 20). -/
def Obligations.FirmwareAndLinkEvents : Prop :=
  ∀ (s : State) (v : Word) (d k n : Nat) (b : Bool),
    (∃ t, exec (.alarmpWrite v) s = .next t ∧ t = { s with mgmt := { s.mgmt with alarmLevel := t.mgmt.alarmLevel } } ∧
      t.mgmt.alarmLevel.toNat = max s.mgmt.alarmLevel.toNat (v.toNat % 4)) ∧
    (∃ t, exec (.alarmsClear v) s = .next t ∧ t = { s with mgmt := { s.mgmt with alarms := t.mgmt.alarms } } ∧
      ∀ i, i < 7 → t.mgmt.alarms.getLsbD i = (s.mgmt.alarms.getLsbD i && !v.getLsbD i)) ∧
    (∃ t, exec (.ageLimitWrite v) s = .next t ∧ t = { s with mgmt := { s.mgmt with ageLimit := t.mgmt.ageLimit } } ∧
      t.mgmt.ageLimit.toNat = v.toNat % 2 ^ 32) ∧
    (∃ t, exec (.htabWrite d v) s = .next t ∧ SameOutsideDies s t ∧ OnlyDie s t d ∧
      t.die d = { s.die d with core := { s.core d with htab := (t.core d).htab } } ∧
      (t.core d).htab.toNat = v.toNat / 2 ^ 9 % 2 ^ 39 * 2 ^ 9) ∧
    exec (.powerThrottle b) s = .next { s with mgmt := { s.mgmt with thrPower := b } } ∧
    exec (.thermalThrottle b) s = .next { s with mgmt := { s.mgmt with thrHot := b } } ∧
    (spaceOf k ≤ 2 → exec (.eccError k true) s = .next { s with mgmt := { s.mgmt with corrected := s.mgmt.corrected + 1 } } ∧
      ∃ t, exec (.eccError k false) s = .next t ∧ tget false t.poison (if k < 2 ^ 60 then k / 8 * 8 else k / 64 * 64) = true ∧
        ((∀ e b, e ∈ s.stackTab → (b = e.2.red ∨ b = e.2.opt ∨ ∃ n, (n, b) ∈ e.2.cabs) → b.leftAt k = false) →
          t = { s with poison := t.poison } ∧ ∀ m, tget false t.poison m =
            if m = (if k < 2 ^ 60 then k / 8 * 8 else k / 64 * 64) then true else tget false s.poison m)) ∧
    (k < 16 → ∃ t, exec (.linkLoss k) s = .next t ∧
      t.mgmt = { s.mgmt with meshUp := t.mgmt.meshUp, meshRetrain := t.mgmt.meshRetrain } ∧
      (∀ i, i < 16 → t.mgmt.meshUp.getLsbD i = (s.mgmt.meshUp.getLsbD i && i != k) ∧
        t.mgmt.meshRetrain.getLsbD i = (s.mgmt.meshRetrain.getLsbD i || (i == k && s.mgmt.meshUp.getLsbD k))) ∧
      (s.linkUsers k = [] → Claims.OnlyMgmt s t) ∧
      (s.linkUsers k ≠ [] → SameBytes s t ∧ OnlyDie s t (linkDie k) ∧ (t.core (linkDie k)).trapc.toNat % 2 ^ 12 = 0x60D ∧
        (t.core (linkDie k)).trapval.toNat = k ∧ (t.core (linkDie k)).smode = true ∧
        (t.core (linkDie k)).trappc = (s.core (linkDie k)).pc ∧ (t.core (linkDie k)).a = (s.core (linkDie k)).a ∧
        ∀ l, s.launchOf (linkDie k) = some l → (s.launch l).phase ≠ .ended → (s.launch l).faults = [] →
          (t.launch l).faults.map (·.code) = [0x0D])) ∧
    (16 ≤ k → exec (.linkLoss k) s = .next s) ∧
    (k < 16 → s.mgmt.meshRetrain.getLsbD k = true → s.linkUsers k = [] → ∃ t, exec (.linkRetrain k n) s = .next t ∧
      t = { s with mgmt := { s.mgmt with
        meshUp := t.mgmt.meshUp, meshRetrain := t.mgmt.meshRetrain, meshDelay := t.mgmt.meshDelay } } ∧
      (∀ i, i < 16 → t.mgmt.meshUp.getLsbD i = (s.mgmt.meshUp.getLsbD i || i == k) ∧
        t.mgmt.meshRetrain.getLsbD i = (s.mgmt.meshRetrain.getLsbD i && i != k)) ∧
      ∀ i, tget 0 t.mgmt.meshDelay i = if i = k then n else tget 0 s.mgmt.meshDelay i) ∧
    ((16 ≤ k ∨ s.mgmt.meshRetrain.getLsbD k = false ∨ s.linkUsers k ≠ []) → exec (.linkRetrain k n) s = .next s)

/-- A refresh of a bank leaves its drawers with the same handles; 8 µs without a heartbeat make the sequencer take over, whether or not
one comes after them, which evicts every drawer and is counted; heartbeats for 8 µs give refresh back (R191, R193). A remote read
returns the bytes under the key slot of the entry that matches, none with an uncorrectable error among them, a denial is counted, and
the 64th of a window raises alarm source 4 (R199, R244, R246). -/
def Obligations.RefreshAndRemoteEvents : Prop :=
  ∀ (s : State) (st pch bank pkg off n idx : Nat) (w0 w1 : Word),
    let x := s.stack st
    let drawer (y : Stack) (k : Nat) : Drawer := tget {} y.drawers k
    let due := x.takenOver = false ∧ (x.lapsed.isSome = true ∨ x.lastBeat + 10000 ≤ s.cycle)
    (∃ t, exec (.perBankRefresh st pch bank) s = .next t ∧ Claims.OnlyStack s t st ∧
      t.stack st = { x with drawers := (t.stack st).drawers } ∧ ∀ k, drawer (t.stack st) k = drawer x k) ∧
    (∃ t, exec (.refreshHeartbeat st) s = .next t ∧ Claims.OnlyStack s t st ∧
      t.stack st = { x with lastBeat := s.cycle, lapsed := (t.stack st).lapsed, resumed := (t.stack st).resumed } ∧
      ((t.stack st).lapsed.isSome = true ↔ due) ∧
      (x.takenOver = false → ¬due → (t.stack st).resumed = none) ∧
      (x.takenOver = true ∨ due → (x.lastBeat + 10000 ≤ s.cycle ∨ x.resumed = none) → (t.stack st).resumed = some s.cycle) ∧
      (x.takenOver = true ∨ due → s.cycle < x.lastBeat + 10000 → x.resumed ≠ none → (t.stack st).resumed = x.resumed)) ∧
    (due → ∃ t, exec (.refreshTakeover st) s = .next t ∧ Claims.OnlyStack s t st ∧
      t.stack st = { x with
        drawers := (t.stack st).drawers, takenOver := true, takeovers := x.takeovers + 1, lapsed := none,
        resumed := (t.stack st).resumed } ∧ (x.lastBeat + 10000 ≤ s.cycle → (t.stack st).resumed = none) ∧
        (s.cycle < x.lastBeat + 10000 → (t.stack st).resumed = x.resumed) ∧
      ∀ k, drawer (t.stack st) k = if (drawer x k).row.isSome = true ∧ (drawer x k).resv = false
        then { drawer x k with evicted := true } else drawer x k) ∧
    (¬due → exec (.refreshTakeover st) s = .next s) ∧
    (∀ r, x.takenOver = true → x.resumed = some r → r + 10000 ≤ s.cycle → s.cycle < x.lastBeat + 10000 →
      exec (.refreshHandback st) s = .next (s.setStack st { x with takenOver := false, resumed := none })) ∧
    ((x.takenOver = false ∨ x.resumed = none ∨ x.lastBeat + 10000 ≤ s.cycle) → exec (.refreshHandback st) s = .next s) ∧
    (let key := stackKey (linOf (st % 8 * 2 ^ 36 + off % 2 ^ 36))
     (∀ k, x.actMatch pkg off = some k → (s.poisoned key n = true → exec (.remoteReadRequest st pkg off n) s =
         .next { s.reopenRow key with hostData := [] }) ∧
       (s.poisoned key n = false → s.stale = [] → exec (.remoteReadRequest st pkg off n) s = .next { s.reopenRow key with
         hostData := s.plainBytes key (some k) n })) ∧
     ∀ k row, (s.stack (key / 2 ^ 36 % 8)).drawers = [(k, row)] → row.evicted = true → row.row = some (key / 2 ^ 14 % 2 ^ 16) →
       k / 4 = 16 * (key / 2 ^ 30 % 64) + key / 2 ^ 10 % 16 →
       tget {} ((s.reopenRow key).stack (key / 2 ^ 36 % 8)).drawers k = { row with evicted := false }) ∧
    (x.actMatch pkg off = none → x.denials + 1 ≠ 64 → exec (.remoteReadRequest st pkg off n) s =
      .next (({ s with hostData := [] } : State).setStack st { x with denials := x.denials + 1 })) ∧
    (x.actMatch pkg off = none → x.denials + 1 = 64 → ∃ t, exec (.remoteReadRequest st pkg off n) s = .next t ∧
      t.hostData = [] ∧ t.mgmt.alarms.getLsbD 4 = true ∧ (t.core 0).trapc.toNat % 2 ^ 8 = 0x10) ∧
    (x.act = [(idx, w0, w1)] → (∀ k, x.actMatch pkg off = some k ↔ (w0.getLsbD 63 = true ∧ w0.getLsbD 62 = true ∧
      w0.toNat / 2 ^ 44 % 2 ^ 8 = pkg ∧ w0.toNat % 2 ^ 21 ≤ off / 2 ^ 15 ∧ off / 2 ^ 15 ≤ w1.toNat % 2 ^ 21 ∧
      k = w0.toNat / 2 ^ 52 % 2 ^ 10))) ∧
    exec (.actWindowExpiry st) s = .next (s.setStack st { x with denials := 0 }) ∧
    (idx < 256 → ∃ t, exec (.actWrite st idx w0 w1) s = .next t ∧ Claims.OnlyStack s t st ∧
      t.stack st = { x with act := (t.stack st).act } ∧ (∀ k, k ≠ idx → tget (0, 0) (t.stack st).act k = tget (0, 0) x.act k) ∧
      ∀ i, i < 64 →
        (tget (0, 0) (t.stack st).act idx).1.getLsbD i = (w0.getLsbD i && (decide (i ≤ 20) || decide (44 ≤ i))) ∧
        (tget (0, 0) (t.stack st).act idx).2.getLsbD i = (w1.getLsbD i && decide (i ≤ 20))) ∧
    (256 ≤ idx → exec (.actWrite st idx w0 w1) s = .next s)

/-- One step of a base-die engine: nothing without a command; a command that has written its last granule and has no flag
ends with state 1 and its flags; a step that consumes an uncorrectable error ends it with state 2 and ECC; a granule of
one element, when it is not left for a later step (no order is promised, R225; which one is left is free, log 23), holds
the bytes of that element's result, rounded once, and no byte of another granule changes (R195 to R198, R226, R246); no store is
then seen by some parties alone (log 5). -/
def Obligations.BaseDieStepResults : Prop :=
  ∀ (s : State) (st pch : Nat) (c : BCmd) (rest : List BCmd) (i : Nat),
    let step (eng : Nat) : Instr :=
      if eng = 0 then .cabinetOperation st pch else if eng = 1 then .reductionOperation st else .optimiserUpdate st
    let q (eng : Nat) : List BCmd := (s.beng st eng (if eng = 0 then pch else 0)).q
    let ends (u : State) (eng : Nat) (state trap : Byte) (f : BitVec 6) : Prop :=
      let p := if eng = 0 then pch else 0
      let e := s.beng st eng p
      exec (step eng) s = .next (u.setBeng st eng p { e with
        q := rest, hist := e.hist.map (fun h => if h.1 = c.count then (c.count, state, trap, f) else h) })
    let elem (o off code : Nat) : FVal :=
      (ffmt code).decode (leNat (s.plainBytes ((c.op o).1 + off) (some (c.op o).2) ((ffmt code).bits / 8)))
    (∀ eng, eng < 3 → (q eng = [] → exec (step eng) s = .next s) ∧ (q eng = c :: rest →
      (c.granules ≤ c.pos → c.skipped = [] → c.flag = none → ends s eng 1 0 c.flags) ∧
      (s.stale = [] → c.pos < c.granules → c.skipped = [] → c.carry = [] → c.span c.pos = [i] →
        let p := if eng = 0 then pch else 0
        let later : State := { s with freeCtr := s.freeCtr + 3 }
        (s.opPoison c i = true → ends later eng 2 0x0E 0) ∧
        (s.opPoison c i = false → c.pos + 1 < c.granules →
          exec (step eng) s = .next (later.setBeng st eng p { s.beng st eng p with
            q := { c with pos := c.pos + 1, skipped := [c.pos] } :: rest }) ∨
          ∃ t, exec (step eng) s = .next t ∧ ∀ (off : Nat) (bs : List Byte), (s.opResult c i).1 = [(0, off, bs)] →
            (∀ j, j < bs.length → (c.first + off + j) / 64 = c.first / 64 + c.pos →
              t.plainByte (c.first + off + j) (some (c.op 0).2) = (bs[j]?).getD 0) ∧
            (∀ k, k / 64 ≠ c.first / 64 + c.pos → t.byte k = s.byte k) ∧
            ((∀ j, j < bs.length → (c.first + off + j) / 64 = c.first / 64 + c.pos) → (t.beng st eng p).q =
              { c with pos := c.pos + 1, flags := c.flags ||| (s.opResult c i).2 } :: rest))))) ∧
    (c.kind = 0 →
      let code := if (blkWord c.blk 3).toNat / 2 ^ 32 % 4 = 0 then 0 else 2
      let b := (ffmt code).bits / 8
      let a1 := elem 1 (i * b) code
      let a2 := elem 2 (i * b) code
      let one (b : Nat) (r : Nat × Flags) : Prop := s.opResult c i = ([(0, i * b, leBytes b r.1)], r.2)
      let opc := (blkWord c.blk 3).toNat / 2 ^ 34 % 8
      (opc = 0 → one b (addRound code 0 a1 a2)) ∧ (opc = 1 → one b (mulRound code a1 a2)) ∧
      (opc = 2 → one b (fmaRound code a1 a2 (elem 0 (i * b) code))) ∧
      (opc = 3 → one b (mulRound code a1 ((ffmt 0).decode ((blkWord c.blk 2).toNat % 2 ^ 32)))) ∧
      (opc = 4 → let fto := if code = 0 then 2 else 0; one ((ffmt fto).bits / 8) (roundTo fto 0 a1))) ∧
    (c.kind = 1 → (blkWord c.blk 0).toNat % 16 = 1 →
      let f := (blkWord c.blk 0).toNat / 16 % 4
      let code := if f = 0 then 0 else if f = 1 then 2 else 1
      let b := (ffmt code).bits / 8
      let r := addRound code 0 (elem 1 (i * b) code) (elem 2 (i * b) code)
      s.opResult c i = ([(0, i * b, leBytes b r.1)], r.2)) ∧
    (c.kind = 2 → (blkWord c.blk 0).toNat % 4 = 0 → blkWord c.blk 5 = 0 →
      let fmt (p : Nat) : Nat := (blkWord c.blk 7).toNat / 2 ^ (4 * p) % 16
      let at_ (p : Nat) : Nat := i * ((blkWord c.blk 6).toNat / 2 ^ (12 * p) % 2 ^ 12)
      let par (w lo : Nat) : Val := ((ffmt 0).decode ((blkWord c.blk w).toNat / 2 ^ lo % 2 ^ 32), 0)
      let p : Val := (elem 0 (at_ 0) (fmt 0), 0)
      let g : Val := (elem 1 (at_ 1) (fmt 1), 0)
      let m : Val := (elem 2 (at_ 2) (fmt 2), 0)
      let m1 := vRound (fmt 2) (vAdd (vMul (par 10 32) m) g)
      let new := vRound 0 (vAdd p (vNeg (vMul (par 10 0) (vAdd m1.2 (vMul (par 12 0) p)))))
      let w := vRound (fmt 0) new.2
      s.opResult c i = ([(2, at_ 2, leBytes ((ffmt (fmt 2)).bits / 8) m1.1), (0, at_ 0, leBytes ((ffmt (fmt 0)).bits / 8) w.1)],
        w.2.2 ||| m1.2.2))

/-- Start-up loads key slot 0 and opens the sixteen queues together; when a step fails, every QSTATE is 2 and BOOTERR holds the code
of R20: that of the failing step also where the link, which is still tried after a failure of steps 1 to 3, does not come up. BOOTERR is
0 where the link alone fails, for which R20 has no code, also beside a failure of slot 0, which would come after it (log 25), and for
a failure of step 6, which has code 7 as an input (log 23): the model's choices. That the package's place in the mesh, the mesh's extents and the enrolled key hashes come with start-up is
the model's choice (log 25). The host reads and writes the stacks and the capacity tier under key slot 0, the record slots
of the apertures, and zeros above them; its access opens an evicted drawer again; before start-up it reaches nothing
(R12, R191). Its reads are stated where no store is still to be performed for it (R207, log 5). -/
def Obligations.StartUpAndHostAccess : Prop :=
  ∀ (s : State) (fail px py mw mh off n : Nat) (noLink : Bool) (hashes : List (BitVec 256)) (data : List Byte),
    let start := Instr.startUp ⟨fail, noLink, px, py, mw, mh, hashes⟩
    (s.starting = true → s.mgmt.powered = true → ∃ t, exec start s = .next t ∧ SameBytes s t ∧ t.dies = s.dies ∧
      t.launches = s.launches ∧ t.mgmt.linkUp = (!noLink && decide (fail < 7)) ∧ (∀ j, j ≠ 0 → t.keySlot j = s.keySlot j) ∧
      (fail = 0 → noLink = false → (∃ k, t.keySlot 0 = some ⟨0, k⟩) ∧ (∀ q, q < 16 → t.queue q = { s.queue q with
          qstate := 1, booterr := 0 }) ∧ t.mgmt.pkgX = px ∧ t.mgmt.pkgY = py ∧ px < t.mgmt.meshW ∧ mw ≤ t.mgmt.meshW ∧
        py < t.mgmt.meshH ∧ mh ≤ t.mgmt.meshH ∧ t.mgmt.enrolled.length ≤ 16 ∧ ∀ h, h ∈ t.mgmt.enrolled → h ∈ hashes) ∧
      ((fail ≠ 0 ∨ noLink = true) → t.keys = s.keys ∧ t.mgmt = { s.mgmt with linkUp := t.mgmt.linkUp, queues := t.mgmt.queues } ∧
        ∀ q, q < 16 → t.queue q = { s.queue q with qstate := 2, booterr :=
          if fail < 6 ∨ (fail = 6 ∧ noLink = false) then BitVec.ofNat 8 fail else 0 })) ∧
    ((s.starting = false ∨ s.mgmt.powered = false) → exec start s = .next s) ∧
    (∀ w, s.mgmt.linkUp = false → exec (.hostAccess w off n data) s = .next s) ∧
    (s.mgmt.linkUp = true → s.stale = [] → ∃ t, exec (.hostAccess false off n data) s = .next t ∧
      t = { s.hostReopen off n with hostData := t.hostData, freeCtr := s.freeCtr + 1 } ∧ t.hostData.length = n ∧
      ∀ i, i < n → ∃ v, t.hostData[i]? = some v ∧
        (off + i < 2 ^ 39 → s.poisoned (stackKey (linOf (off + i))) 1 = false →
          v = s.plainByte (stackKey (linOf (off + i))) (some 0)) ∧
        (2 ^ 39 ≤ off + i → off + i < 2 ^ 39 + 2 ^ 40 → s.poisoned (capKey (off + i - 2 ^ 39)) 1 = false →
          v = s.plainByte (capKey (off + i - 2 ^ 39)) (some 0)) ∧
        (2 ^ 39 + 2 ^ 40 ≤ off + i → off + i < 2 ^ 39 + 2 ^ 40 + 2 ^ 18 → v = s.mmioByte (off + i - 2 ^ 39 - 2 ^ 40)) ∧
        (2 ^ 39 + 2 ^ 40 + 2 ^ 18 ≤ off + i → v = 0)) ∧
    (s.mgmt.linkUp = true → data.length = n → 0 < n → off % 64 + n ≤ 64 →
      (off < 2 ^ 39 → exec (.hostAccess true off n data) s =
        .next ((s.reopenRow (stackKey (linOf off))).store (stackKey (linOf off)) (some 0) data)) ∧
      (2 ^ 39 ≤ off → off < 2 ^ 39 + 2 ^ 40 →
        exec (.hostAccess true off n data) s = .next (s.store (capKey (off - 2 ^ 39)) (some 0) data)) ∧
      (2 ^ 39 + 2 ^ 40 ≤ off → off < 2 ^ 39 + 2 ^ 40 + 2 ^ 18 →
        let o := off - 2 ^ 39 - 2 ^ 40
        ∃ t, exec (.hostAccess true off n data) s = .next t ∧ SameSystem s t ∧ t.dies = s.dies ∧ SameBytesOutside s t (mmioKey o) n ∧
          ∀ i, i < n → t.byte (mmioKey (o + i)) =
            if (o + i) % 0x4000 < 0x2000 then (data[i]?).getD 0 else s.byte (mmioKey (o + i))) ∧
      (2 ^ 39 + 2 ^ 40 + 2 ^ 18 ≤ off → exec (.hostAccess true off n data) s = .next s))

/-! ### Device steps: the launch scheduler -/

/-- A record whose word 15 is NEXTSEQ, not 0, is copied, NEXTSEQ and CONSUMED count, and a pass is due (R14); a record with a
failing check ends with the first one's STATUS and never enters the scheduler (R16). A launch that has waited AGE_LIMIT
rises one level, once (R43). A pass admits a head whose rectangle is free (R42, R44). Dies asked for by another package
are granted when free and reserved while victims hold them; a launch that asks runs when every package has granted (R47). That an
empty rectangle gives dies back (log 13), and that a refused gang goes back to its queue with no pass due (log 23), is the model's
choice. -/
def Obligations.QueueAndSchedulerEvents : Prop :=
  ∀ (s : State) (q l pkg prio px py wd ht : Nat) (ok : Bool),
    let x := s.launch l
    let w := s.recordAt q ((s.queue q).nextseq.toNat % 64)
    (∀ k n, n < 16 → (s.recordAt q k)[n]? = some (leWord (s.bytes (mmioKey (q * 0x4000 + k * 0x80 + 8 * n)) 8))) ∧
    (let may := q < 16 ∧ (s.queue q).qstate = 1 ∧ (s.queue q).nextseq ≠ 0 ∧ w[15]? = some (s.queue q).nextseq
     (may → ∃ t, exec (.launchRecordAcceptance q) s = .next t ∧ SameBytes s t ∧ t.dies = s.dies ∧ t.nLaunch = s.nLaunch + 1 ∧
       t.mgmt.passDue = true ∧ t.queue q = { s.queue q with
         nextseq := (s.queue q).nextseq + 1, consumed := (s.queue q).consumed + 1, items := (s.queue q).items ++ [s.nLaunch] } ∧
       (∀ p, p ≠ q → t.queue p = s.queue p) ∧ (∀ m, m ≠ s.nLaunch → t.launch m = s.launch m) ∧
       (t.launch s.nLaunch).words = w ∧ (t.launch s.nLaunch).queue = q ∧ (t.launch s.nLaunch).phase = .accepted ∧
       (t.launch s.nLaunch).since = s.cycle ∧ (t.launch s.nLaunch).prio = ((w[0]?).getD 0).toNat / 2 ^ 8 % 4) ∧
     (¬may → exec (.launchRecordAcceptance q) s = .next s)) ∧
    (x.phase = .accepted → l < s.nLaunch →
      (s.recordStatus l = none → exec (.launchRecordCheck l) s =
        .next { s.setLaunch l { x with phase := .queued } with mgmt := { s.mgmt with passDue := true } }) ∧
      (∀ n, s.recordStatus l = some n → 2 ≤ n ∧ n ≤ 5 ∧ ∃ t, exec (.launchRecordCheck l) s = .next t ∧ t.dies = s.dies ∧
        (t.launch l).phase = .ended ∧ (t.launch l).status = n ∧ t.mgmt.passDue = true ∧ l ∉ (t.queue x.queue).items ∧
        SameBytesOutside s t (crecKey (x.word 5)) 64 ∧ t.bytes (crecKey (x.word 5)) 8 = leBytes 8 (2 ^ 63 + n) ∧
        t.bytes (crecKey (x.word 5) + 8) 8 = leBytes 8 (x.word 15).toNat) ∧
      (x.formBad = true → s.recordStatus l = some 2) ∧
      (x.formBad = false → s.origins x = [] → s.recordStatus l = some 3) ∧
      (x.formBad = false → s.origins x ≠ [] → 2097152 < (x.word 4).toNat % 2 ^ 24 → s.recordStatus l = some 4) ∧
      (x.formBad = false → s.origins x ≠ [] → (x.word 4).toNat % 2 ^ 24 ≤ 2097152 →
        s.recordStatus l = if s.imageOk x then none else some 5)) ∧
    ((x.phase ≠ .accepted ∨ s.nLaunch ≤ l) → exec (.launchRecordCheck l) s = .next s) ∧
    (let waits := l < s.nLaunch ∧ (x.phase = .queued ∨ x.phase = .saved ∨ x.phase = .asking ∨ x.phase = .accepted) ∧
       x.aged = false ∧ x.since + s.mgmt.ageInUse.toNat ≤ s.cycle
     (waits → exec (.priorityAging l) s = .next { s.setLaunch l { x with aged := true, prio := min 3 (x.prio + 1) } with
       mgmt := { s.mgmt with passDue := true } }) ∧
     (¬waits → exec (.priorityAging l) s = .next s)) ∧
    ((s.mgmt.passDue = false ∨ s.mgmt.powered = false) → exec .schedulerPass s = .next s) ∧
    (s.mgmt.passDue = true → s.mgmt.powered = true → ∃ t, exec .schedulerPass s = .next t ∧ SameBytes s t ∧ t.dies = s.dies ∧
      t.mgmt.passDue = false ∧ t.mgmt.ageInUse = s.mgmt.ageLimit ∧
      (∀ o, q < 16 → x.queue = q → (s.queue q).items = [l] → (∀ p, p ≠ q → (s.queue p).items = []) →
        (∀ e, e ∈ s.launches → (s.launch e.1).resv = false) → x.phase = .queued → x.resv = false → x.prio ≤ 3 →
        s.firstFit l = some o → s.isLocal { x with gx := o.1, gy := o.2 } = true →
        t.launch l = { x with phase := .admitted, gx := o.1, gy := o.2, grants := [] } ∧ (t.queue q).items = [] ∧
        t.mgmt.rr = (q + 1) % 16 ∧ ∀ m, m ≠ l → t.launch m = s.launch m)) ∧
    (let dies := (List.range ht).flatMap (fun j => (List.range wd).map (fun i => 2 * (py + j) + px + i))
     let req := Instr.gangDieRequest pkg prio px py wd ht
     ((wd = 0 ∨ ht = 0) → exec req s = .next { s with mgmt := { s.mgmt with
       granted := s.mgmt.granted.filter (fun e => e.1 != pkg), pending := s.mgmt.pending.filter (fun e => e.1 != pkg),
       passDue := true } }) ∧
     (wd ≠ 0 → ht ≠ 0 → (2 < px + wd ∨ 4 < py + ht) → exec req s = .next s) ∧
     (wd ≠ 0 → ht ≠ 0 → px + wd ≤ 2 → py + ht ≤ 4 →
       (s.fits s.nLaunch dies (fun _ => 0) [] = true → exec req s = .next { s with mgmt := { s.mgmt with
         granted := s.mgmt.granted ++ dies.map (fun d => (pkg, d)) } }) ∧
       (s.fits s.nLaunch dies (fun _ => 0) [] = false → s.removals s.nLaunch prio dies (fun _ => 0) = [] → exec req s = .next s) ∧
       (s.fits s.nLaunch dies (fun _ => 0) [] = false → s.removals s.nLaunch prio dies (fun _ => 0) ≠ [] → ∃ t r,
         exec req s = .next t ∧ r ∈ s.removals s.nLaunch prio dies (fun _ => 0) ∧ SameBytes s t ∧ t.dies = s.dies ∧
         t.mgmt = { s.mgmt with pending := s.mgmt.pending ++ [(pkg, dies)] } ∧ ∀ m, t.launch m =
           if m ∈ r then { s.launch m with phase := .stopping, preemptor := none } else s.launch m))) ∧
    (let asked := x.phase = .asking ∧ pkg ∈ s.otherPackages x
     (¬asked → exec (.gangGrant l pkg ok) s = .next s) ∧
     (asked → exec (.gangGrant l pkg false) s = .next (s.setLaunch l { x with
       phase := if x.saved.isSome then .saved else .queued, grants := [] })) ∧
     (asked → ∃ t, exec (.gangGrant l pkg true) s = .next t ∧ SameBytes s t ∧ t.dies = s.dies ∧
       (∀ m, m ≠ l → t.launch m = s.launch m) ∧ (pkg, true) ∈ (t.launch l).grants ∧
       ((∀ p, p ∈ s.otherPackages x → p = pkg ∨ ∃ b, (p, b) ∈ x.grants) →
         (t.launch l).phase = .admitted ∧ l ∉ (t.queue x.queue).items) ∧
       ((∃ p, p ∈ s.otherPackages x ∧ p ≠ pkg ∧ ∀ b, (p, b) ∉ x.grants) → (t.launch l).phase = .asking)))

/-- An admitted launch starts its cores at the entry with its arguments, or ends with a fault; a saved one resumes with the
dies of its save (R31, R183, R240). A victim whose dies may be saved leaves its dies and waits at the head of its queue
(R45). A launch whose cores have halted and whose work is done ends with STATUS 1 and its completion record (R17, R296);
one whose fault stops are complete with STATUS 6 (R230). Regions without a fault stop 70 cycles after the first fault, and tokens that
have not reached step 6 are abandoned (R41). An
alarm acts by LEVEL (R244). Overheating ends every launch with WDOG and closes the queues (R22). -/
def Obligations.LaunchLifeEvents : Prop :=
  ∀ (s : State) (l n : Nat),
    let x := s.launch l
    let dies := s.localDies x
    let ended (t : State) (status trap : Nat) : Prop :=
      (t.launch l).phase = .ended ∧ (t.launch l).status = status ∧ (t.launch l).trap = trap
    let free (t : State) : Prop := ∀ e, e ∈ dies → (t.die e.2).launch = none ∧ (t.core e.2).running = false
    (x.phase ≠ .admitted → exec (.launchStart l) s = .next s) ∧
    (x.phase = .admitted → x.saved = none → ∃ t, exec (.launchStart l) s = .next t ∧
      ((t.launch l).phase = .running ∨ ended t 6 0x07 ∨ ended t 6 0x04 ∨ ended t 6 0x05 ∨ ended t 6 0x0E) ∧
      ((t.launch l).phase = .running → ∀ e, e ∈ dies → (t.die e.2).launch = some l ∧
        (t.core e.2).pc = (t.launch l).textva + (t.launch l).entry ∧ (t.core e.2).smode = false ∧
        (t.core e.2).running = true ∧ (t.core e.2).halted = false ∧ (t.core e.2).dien = BitVec.ofNat 64 e.1 ∧
        (t.core e.2).ptbase.toNat = (x.word 2).toNat / 2 ^ 12 % 2 ^ 40 * 2 ^ 12 ∧
        ∀ k, k < 8 → (t.core e.2).get (BitVec.ofNat 6 (k + 1)) = x.word (7 + k))) ∧
    (∀ v, x.phase = .admitted → x.saved = some v → x.circuits = [] → ∃ t, exec (.launchStart l) s = .next t ∧
      (t.launch l).phase = .running ∧ (t.launch l).saved = none ∧
      ∀ e y, e ∈ dies → v.dies.find? (fun f => f.1 == e.1) = some (e.1, y) →
        (t.die e.2).launch = some l ∧ (t.die e.2).act = y.act ∧ (t.die e.2).regs = y.regs ∧
        t.core e.2 = { y.core with htab := (t.core e.2).htab }) ∧
    (s.savable l = false → exec (.launchSave l) s = .next s) ∧
    (s.savable l = true → x.resv = false → ∃ t, exec (.launchSave l) s = .next t ∧ (t.launch l).phase = .saved ∧
      (t.launch l).precnt = x.precnt + 1 ∧ (t.launch l).since = s.cycle ∧ (t.launch l).prio = x.prio ∧
      (t.launch l).saved = some (s.savedOf l) ∧ (t.queue x.queue).items.head? = some l ∧ t.mgmt.passDue = true ∧ free t) ∧
    (let isOver := (x.phase = .running ∨ x.phase = .stopping) ∧ x.faults = [] ∧ s.allHalted l = true ∧ x.transit = [] ∧
       ∀ e, e ∈ dies → s.dieEnded e.2 = true
     (isOver → ∃ t, exec (.launchEnd l) s = .next t ∧ ended t 1 0 ∧ free t ∧ t.mgmt.passDue = true ∧
       l ∉ (t.queue x.queue).items ∧
       t.bytes (crecKey (x.word 5)) 8 = leBytes 8 (2 ^ 63 + x.cls % 4 * 2 ^ 8 + 1) ∧
       t.bytes (crecKey (x.word 5) + 8) 8 = leBytes 8 (x.word 15).toNat) ∧
     (¬isOver → exec (.launchEnd l) s = .next s)) ∧
    (let done := ∃ f, (x.faults.map (·.wall)).min? = some f ∧ f + 70 ≤ s.cycle ∧ x.phase.holds = true ∧ s.allStopped l = true
     (done → ∃ t f, exec (.faultRecordWrite l) s = .next t ∧ x.faults.head? = some f ∧ ended t 6 f.code ∧ free t ∧
       t.mgmt.passDue = true) ∧
     (¬done → exec (.faultRecordWrite l) s = .next s)) ∧
    ((∀ f, (x.faults.map (·.wall)).min? = some f → s.cycle < f + 70) → exec (.regionFaultFreeze l) s = .next s) ∧
    (∀ f, (x.faults.map (·.wall)).min? = some f → f + 70 ≤ s.cycle → ∃ t, exec (.regionFaultFreeze l) s = .next t ∧
      SameOutsideDies s t ∧ (∀ e r, e ∈ dies → r ∈ (s.die e.2).regions → t.region e.2 r.1 = { s.region e.2 r.1 with
        halted := (s.region e.2 r.1).halted || (s.region e.2 r.1).fstop.isNone }) ∧
      ∀ e k, e ∈ dies → (t.die e.2).token = some k → (s.die e.2).token = some k ∧ 6 ≤ k.step) ∧
    (7 ≤ n → exec (.securityAlarm n) s = .next s) ∧
    (n < 7 → ∃ t, exec (.securityAlarm n) s = .next t ∧ t.mgmt.alarmLevel = s.mgmt.alarmLevel ∧
      (∀ i, i < 7 → t.mgmt.alarms.getLsbD i = (s.mgmt.alarms.getLsbD i || i == n)) ∧
      (t.core 0).trapc.toNat % 2 ^ 12 = 0x710 ∧ (t.core 0).smode = true ∧
      (s.mgmt.alarmLevel = 0 → t.launches = s.launches ∧ t.keys = s.keys ∧ SameBytes s t) ∧
      (1 ≤ s.mgmt.alarmLevel.toNat → x.phase.holds = true → ended t 7 0) ∧
      (s.mgmt.alarmLevel.toNat < 2 → t.keys = s.keys) ∧
      (2 ≤ s.mgmt.alarmLevel.toNat → (∀ k, k ≠ 0 → t.keySlot k = none) ∧ (∃ k, t.keySlot 0 = some ⟨0, k⟩) ∧
        ∀ k, k < 2 ^ 60 → t.byte k = 0) ∧
      (s.mgmt.alarmLevel = 3 → ∀ q, q < 16 → (t.queue q).qstate = 3) ∧
      (s.mgmt.alarmLevel ≠ 3 → ∀ q, (t.queue q).qstate = (s.queue q).qstate)) ∧
    (∃ t, exec .thermalShutdown s = .next t ∧ t.mgmt.powered = false ∧ (∀ q, q < 16 → (t.queue q).qstate = 0) ∧
      (l ∈ s.launches.map (·.1) → x.phase ≠ .ended → ended t 6 0x0F))

/-! ### Device steps: the fabric and the engines of a die -/

/-- Of one die, only region `n` changes. -/
def Sys2Proof.Claims.OnlyRegion (s t : State) (d n : Nat) : Prop :=
  SameOutsideDies s t ∧ OnlyDie s t d ∧ t.die d = { s.die d with regs := (t.die d).regs } ∧ ∀ m, m ≠ n → t.region d m = s.region d m

/-- A tile task begins at a wrap boundary when it is enabled; with T = 0 it only sends its done token (R27). A controller cell
starts a child that R34 lets it start. A freeze ends two cycles after its cause cleared, and faults with WDOG after 2^26
cycles; that it no longer ends after that is the model's choice (log 23), as is that TRAPPC is then the core's pc (log 20) (R38,
R39). A faulting region's ring r stops in wall cycle F + 3 + |r − rf| with its RC as STOP (R229). -/
def Obligations.RegionAndControllerEvents : Prop :=
  ∀ (s : State) (d n k : Nat),
    let x := s.region d n
    (s.desc d n = none → exec (.tileTaskBegin d n) s = .next s) ∧
    (∀ w, s.desc d n = some w →
      ((s.admits d = false ∨ x.mayBegin w = false) → exec (.tileTaskBegin d n) s = .next s) ∧
      (s.admits d = true → x.mayBegin w = true → ∃ t, exec (.tileTaskBegin d n) s = .next t ∧ SameOutsideDies s t ∧
        OnlyDie s t d ∧ t.die d = { s.die d with regs := (t.die d).regs, cellRuns := (t.die d).cellRuns } ∧
        (∀ m, m ≠ n → t.region d m = s.region d m) ∧ (t.region d n).enables = x.enables - 1 ∧
        (t.region d n).rc = x.rc ∧ (t.region d n).done = decide (x.trip = 0) ∧
        (∀ e, e ∈ (t.region d n).tasks ↔ (e ∈ x.tasks ∧ x.wrap w < e.1 + e.2 + rNS w + 80) ∨
          (x.trip ≠ 0 ∧ e = (x.wrap w, x.trip))) ∧
        (x.trip ≠ 0 → (t.die d).cellRuns = (s.die d).cellRuns)) ∧
      (x.mayBegin w = true ↔ x.run = true ∧ x.hold = false ∧ x.halted = false ∧ x.frz = none ∧ 0 < x.enables ∧
        x.mc w = 0 ∧ ∀ e, e ∈ x.tasks → e.1 + e.2 ≤ x.wrap w)) ∧
    (let c := n
     let r := (s.die d).cellRun c
     let i := childIdx ((s.die d).cell c).2 k
     let starts := (∀ l, s.launchOf d = some l → s.allHalted l = false) ∧ (s.die d).childReady c k = true
     (¬starts → exec (.controllerChildStart d c k) s = .next s) ∧
     (starts → childIsRegion ((s.die d).cell c).2 k = true → ∃ t, exec (.controllerChildStart d c k) s = .next t ∧
       SameOutsideDies s t ∧ OnlyDie s t d ∧ t.region d i = { s.region d i with enables := (s.region d i).enables + 1 } ∧
       (∀ m, m ≠ i → t.region d m = s.region d m) ∧ (∀ m, m ≠ c → (t.die d).cellRun m = (s.die d).cellRun m) ∧
       (t.die d).cellRun c = { r with started := ((t.die d).cellRun c).started } ∧
       ∀ j, tget 0 ((t.die d).cellRun c).started j = tget 0 r.started j + if j = k then 1 else 0) ∧
     (starts → childIsRegion ((s.die d).cell c).2 k = false → i ≠ c → ((s.die d).cellRun i).n ≠ 0 →
       ∃ t, exec (.controllerChildStart d c k) s = .next t ∧ SameOutsideDies s t ∧ OnlyDie s t d ∧
         (t.die d).regs = (s.die d).regs ∧ (t.die d).cellRun i = { active := true, n := ((s.die d).cellRun i).n } ∧
         (t.die d).cellRun c = { r with started := ((t.die d).cellRun c).started } ∧
         ∀ j, tget 0 ((t.die d).cellRun c).started j = tget 0 r.started j + if j = k then 1 else 0)) ∧
    (((∀ f c, x.frz = some f → f.clear = some c → s.cycle < c + 2) ∨ (∃ g, x.fstop = some g ∧ g.code = 0x0F)) →
      exec (.regionUnfreeze d n) s = .next s) ∧
    (∀ f c, x.frz = some f → f.clear = some c → c + 2 ≤ s.cycle → (∀ g, x.fstop = some g → g.code ≠ 0x0F) → ∃ t, exec (.regionUnfreeze d n) s = .next t ∧
      Claims.OnlyRegion s t d n ∧ t.region d n = { x with frz := none }) ∧
    (∀ w f, s.desc d n = some w → x.frz = some f →
      ((s.cycle < f.since + 2 ^ 26 ∨ f.thr = true ∨ f.clear ≠ none ∨ x.fstop ≠ none) → exec (.regionWdog d n) s = .next s) ∧
      (f.since + 2 ^ 26 ≤ s.cycle → f.thr = false → f.clear = none → x.fstop = none →
        ∃ t g, exec (.regionWdog d n) s = .next t ∧ SameBytes s t ∧ OnlyDie s t d ∧ (t.region d n).fstop = some g ∧
          g.code = 0x0F ∧ g.src = 8 ∧ g.wall = s.cycle ∧ g.f = x.rc % 2 ^ 32 ∧
          (g.ring, g.slot) = (s.regionCause d n w).getD (f.ring, f.slot) ∧
          (∀ m, m ≠ n → t.region d m = s.region d m) ∧ (t.core d).trapc.toNat % 2 ^ 8 = 0x0F ∧ (t.core d).smode = true ∧
          (t.core d).trappc = (s.core d).pc ∧
          (∀ k, (t.die d).token = some k ↔ (s.die d).token = some k ∧ 6 ≤ k.step))) ∧
    (x.fstop = none → exec (.faultStop d n) s = .next s) ∧
    (∀ w f, s.desc d n = some w → x.fstop = some f → ∃ t g, exec (.faultStop d n) s = .next t ∧ SameOutsideDies s t ∧
      OnlyDie s t d ∧ t.die d = { s.die d with regs := (t.die d).regs, xns := (t.die d).xns } ∧
      (∀ m, m ≠ n → t.region d m = s.region d m) ∧ (t.region d n).fstop = some g ∧ g = { f with stops := g.stops } ∧
      t.region d n = { x with fstop := some g, halted := (t.region d n).halted } ∧
      ∀ r, r < 64 → tget 0 g.stops r =
        if rFirst w ≤ r ∧ r ≤ rLast w ∧ tget 0 f.stops r = 0 ∧ f.wall + 3 + ((r - f.ring) + (f.ring - r)) ≤ s.cycle
        then x.rc % 2 ^ 32 + 1 else tget 0 f.stops r)

/-- A token's step that has completed passes to the next; a step that has not keeps it; step 5 asks, like step 4, that no derived
region is built or has a store to reflect (R215); step 6 swaps the sets after 8 cycles: the shadow load becomes active, the active one
shadow, elements and regions start anew but for their DONE flags (R35), the token is gone, and a waiting DRAIN has the flag summary;
the next load's prefetch begins (R40, R41, R96, R183). A prefetch writes its load into the shadow set, or the launch faults with SCHED
where a derived region stands in the way of a STREAM node or of a shelf (R93, R162, R264). That this refusal comes at the prefetch or at
activation, and with which detail, and STEP 5 in the record of a failing CARRY, are the model's choices (log 23). -/
def Sys2Proof.Claims.ReconfigurationEvents : Prop :=
  ∀ (s : State) (d : Nat),
    let x := s.die d
    (x.token = none → exec (.reconfigStep d) s = .next s ∧ exec (.reconfigSwap d) s = .next s) ∧
    (∀ k, x.token = some k →
      let u := if k.step ≤ 2 then s.setDie d x.holdDone else s
      let bad := if k.step = 5 then x.shd.carryBad x.act else none
      (u.stepDone d k.step = false → exec (.reconfigStep d) s = .next u) ∧
      (u.stepDone d k.step = true → bad = none → exec (.reconfigStep d) s =
        .next (u.setDie d { u.die d with token := some ⟨k.step + 1, s.cycle⟩ })) ∧
      (∀ key sh, u.stepDone d k.step = true → bad = some (key, sh) → x.act.regionAt (key / 48) = none →
        ∃ t, exec (.reconfigStep d) s = .next t ∧ SameBytes s t ∧ OnlyDie s t d ∧ (t.die d).token = none ∧
          (t.die d).act = x.act ∧ (t.die d).shd = x.shd ∧ (t.core d).trapc.toNat % 2 ^ 12 = 0x107 ∧
          (t.core d).trapval = BitVec.ofNat 64 sh) ∧
      (∀ key sh n w, u.stepDone d k.step = true → bad = some (key, sh) → x.act.regionAt (key / 48) = some (n, w) →
        (s.region d n).fstop = none → ∃ t g, exec (.reconfigStep d) s = .next t ∧ SameBytes s t ∧ OnlyDie s t d ∧
          (t.die d).token = none ∧ (t.region d n).fstop = some g ∧ g.code = 0x07 ∧ g.ring = key / 48 ∧ g.slot = key % 48 ∧
          g.step = 5) ∧
      (∀ e, e ∈ x.regions → (u.region d e.1).rc = (s.region d e.1).rc) ∧
      (s.stepDone d 5 = true → ∀ e y, e ∈ x.derivs → e.2 = some y → y.building = false ∧ y.quiet x.g2 s.cycle = true) ∧
      ((k.step ≠ 6 ∨ s.cycle < k.since + 8) → exec (.reconfigSwap d) s = .next s) ∧
      (k.step = 6 → k.since + 8 ≤ s.cycle → ∃ t, exec (.reconfigSwap d) s = .next t ∧ SameSystem s t ∧ OnlyDie s t d ∧
        ((∀ l, s.launchOf d = some l → s.overDerived d ((s.launch l).loadItems x.shd.load) = none) → x.shd.derivs = [] →
          x.shd.binds = [] → t.launches = s.launches) ∧
        (∀ l p, s.launchOf d = some l → s.overDerived d ((s.launch l).loadItems x.shd.load) = some p →
          (s.launch l).phase ≠ .ended → (s.launch l).faults = [] → (t.launch l).faults.head?.map (·.code) = some 0x07) ∧
        (t.die d).token = none ∧ (t.die d).kth = x.kth + 1 ∧
        (t.die d).act.load = x.shd.load ∧ (t.die d).act.rdesc = x.shd.rdesc ∧ (t.die d).act.cells = x.shd.cells ∧
        (t.die d).act.luts = x.shd.luts ∧ (t.die d).act.ftabs = x.shd.ftabs ∧ (t.die d).act.curves = x.shd.curves ∧
        (t.die d).shd = { x.act with bufs := [], stale := true } ∧ (t.die d).ces = [] ∧ (t.die d).lanes = [] ∧
        (∀ m b, s.frozenAfterFault d = false → (∃ e, e ∈ x.regs ∧ e.1 = m) → (∀ e, e ∈ x.regs → e.1 = m → e.2.done = b) →
          t.region d m = { done := b }) ∧
        (s.frozenAfterFault d = true → ∀ e, e ∈ (t.die d).regions → (t.region d e.1).halted = true) ∧
        (∀ m b, (∃ e, e ∈ x.cellRuns ∧ e.1 = m) → (∀ e, e ∈ x.cellRuns → e.1 = m → e.2.done = b) →
          (t.die d).cellRun m = { done := b }) ∧ (t.core d).a = x.core.a ∧ (t.core d).pc = x.core.pc ∧
        (x.core.wait = .drain → (t.core d).wait = .drained x.flagSummary) ∧
        (let next := if x.core.cfgl then x.shd.load + 1 else x.kth + 2
         (t.die d).prefetch = if (s.launchAt d).hasLoad next then some next else x.prefetch))) ∧
    (x.prefetch = none → exec (.prefetchComplete d) s = .next s) ∧
    (∀ k l, x.prefetch = some k → s.launchOf d = some l →
      let items := (s.launch l).loadItems k
      (s.overDerived d items = none → exec (.prefetchComplete d) s =
        .next (s.setDie d { x with shd := items.foldl Bank.applyItem (x.shd.newLoad k), prefetch := none })) ∧
      (∀ p code, s.overDerived d items = some (p, code) → ∃ t, exec (.prefetchComplete d) s = .next t ∧ SameBytes s t ∧ OnlyDie s t d ∧
        t.die d = { x with prefetch := none, token := x.token.filter (fun k => decide (6 ≤ k.step)) } ∧
        ((s.launch l).phase ≠ .ended → (s.launch l).faults = [] → (t.launch l).faults.map (·.code) = [0x07] ∧
          (t.launch l).faults.map (·.detail.toNat) = [(if (s.launch l).hex then 3 else 2) * 2 ^ 60 + p % 2 ^ 32 * 2 ^ 16 + code])) ∧
      (∀ i, i ∈ items → (∃ r sl c e, i.item = .mn r sl c ∧ c.ncfg.toNat % 4 = 0 ∧ e ∈ s.derivsOf d r (nodeOfSlot sl)) →
        ∃ p, s.overDerived d items = some (p, 3)) ∧
      (∀ i, i ∈ items → (∀ j w, j ∈ items → j.item ≠ .derive w) → (∃ r sl c f e, i.item = .mn r sl c ∧ f ∈ c.shelf ∧
          f.2.getLsbD 42 = true ∧ e ∈ s.derivsOf d r (nodeOfSlot sl) ∧ shBase f.2 < e.2.shBase + e.2.shSize ∧
          e.2.shBase < shBase f.2 + shDepth f.2 * shBytes f.2) → (s.overDerived d items).isSome = true))

/-- A circuit claims a full source buffer and an empty destination buffer (R32); when it publishes, the destination holds the
source's bytes, with their uncorrectable errors (R246), and its tag, and the source is released. -/
def Sys2Proof.Claims.CircuitEvents : Prop :=
  ∀ (s : State) (l c : Nat) (r : CircuitRec), (s.launch l).circuits[c]? = some r →
    let x := s.launch l
    (∀ b, s.circuitBufs l r = some b → s.circuitOn l c r = true → tget none x.transit c = none →
      ∃ t, exec (.circuitTransferStart l c) s = .next t ∧ SameBytes s t ∧ t.dies = s.dies ∧ t.mgmt = s.mgmt ∧
        (∀ m, m ≠ l → t.launch m = s.launch m) ∧ t.launch l = { x with transit := (t.launch l).transit } ∧
        ∀ n, tget none (t.launch l).transit n = if n = c then some b else tget none x.transit n) ∧
    ((s.circuitBufs l r = none ∨ s.circuitOn l c r = false ∨ tget none x.transit c ≠ none) →
      exec (.circuitTransferStart l c) s = .next s) ∧
    (tget none x.transit c = none → exec (.circuitPublish l c) s = .next s) ∧
    (∀ i j ds rs ls dd rd ld, tget none x.transit c = some (i, j) → s.circuitEnd l r.sdie r.sring r.snode = some (ds, rs, ls) →
      s.circuitEnd l r.ddie r.dring r.dnode = some (dd, rd, ld) → ds ≠ dd →
      let ws := s.shelf ds rs ls r.ssh
      let wd := s.shelf dd rd ld r.dsh
      let from_ := s.buf ds rs ls r.ssh
      let toBuf := s.buf dd rd ld r.dsh
      ∃ t, exec (.circuitPublish l c) s = .next t ∧ t.mgmt = s.mgmt ∧ tget none (t.launch l).transit c = none ∧
        (∀ k, k < shBytes ws →
          t.byte (sramKey dd rd r.dnode (bufBase wd j + k)) = s.byte (sramKey ds rs r.snode (bufBase ws i + k))) ∧
        SameBytesOutside s t (sramKey dd rd r.dnode (bufBase wd j)) (shBytes ws) ∧
        (t.buf dd rd ld r.dsh).pc = toBuf.pc + 1 ∧ (t.buf dd rd ld r.dsh).cc = toBuf.cc ∧
        (toBuf.prod wd < 8 → (t.buf dd rd ld r.dsh).full.getLsbD (toBuf.prod wd) = true) ∧
        tget 0xFFFF (t.buf dd rd ld r.dsh).tags (toBuf.prod wd) = tget 0xFFFF from_.tags i ∧
        (t.buf ds rs ls r.ssh).cc = from_.cc + 1 ∧ (t.buf ds rs ls r.ssh).pc = from_.pc ∧
        (t.buf ds rs ls r.ssh).full.getLsbD (from_.cons ws) = false ∧
        ∀ k, k < shBytes ws → s.poisoned (sramKey ds rs r.snode (bufBase ws i + k)) 1 = true →
          t.poisoned (sramKey dd rd r.dnode (bufBase wd j + k)) 1 = true)

/-- Reconfiguration tokens, prefetches and circuits (R32, R40, R41, R183). -/
def Obligations.ReconfigurationAndCircuitEvents : Prop := Claims.ReconfigurationEvents ∧ Claims.CircuitEvents

/-- Where element (i0, i1, i2, i3) of a record lies: at the base plus the strides, on the dense side at the base plus its index
times its size (R106, R107). -/
def Sys2Proof.Claims.StreamAddresses : Prop :=
  ∀ (w : List Word) (i0 i1 i2 i3 : Nat),
    let word (k : Nat) : Nat := ((w[k]?).getD 0).toNat
    let n (k : Nat) : Nat := word 2 / 2 ^ (16 * k) % 2 ^ 16
    let stride (k : Nat) : Int := (BitVec.ofNat 32 (word (3 + k / 2) / 2 ^ (32 * (k % 2)))).toInt
    let at_ : Int := i0 * stride 0 + i1 * stride 1 + i2 * stride 2 + i3 * stride 3
    let l := i0 + n 0 * (i1 + n 1 * (i2 + n 2 * i3))
    let dense : Int := (l * 2 ^ (word 5 % 4) : Nat)
    i0 < n 0 → i1 < n 1 → i2 < n 2 → i3 < n 3 → l < scTotal w ∧ scTotal w = n 0 * n 1 * n 2 * n 3 ∧
      scSrc w l = BitVec.ofNat 64 (word 0) + BitVec.ofInt 64 (if word 6 / 8 % 2 = 1 then dense else at_) ∧
      scDst w l = BitVec.ofNat 64 (word 1) + BitVec.ofInt 64 (if word 6 / 8 % 2 = 1 then at_ else dense)

/-- Which record an engine rejects, with the FCODE and the FADDR of R110: 0 for a reserved
field; then ACCESS for a path of SRC, DST or CREC that R98 does not allow, PRIV for one of S mode alone; then 0 for SRC, DST or CREC off
its alignment, a SHELF without PUB, TAG 0xFFFF with PUB. FADDR names the first field at fault. -/
def Sys2Proof.Claims.StreamRejects : Prop :=
  ∀ (s : State) (d : Nat) (w : List Word) (sevc next sm : Bool),
    let r := s.streamReject d w sevc next sm
    let word (k : Nat) : Nat := ((w[k]?).getD 0).toNat
    let size := 2 ^ (word 5 % 4)
    let field (k lo : Nat) : Word := BitVec.ofNat 64 (k + 2 ^ 8 * lo)
    let set (k lo n : Nat) : Prop := word k / 2 ^ lo % 2 ^ n ≠ 0
    let zero := ¬set 5 2 6 ∧ ¬set 5 13 19 ∧ ¬set 5 48 16 ∧ ¬set 6 4 4 ∧ ¬set 6 16 48
    let path (k : Nat) : Nat := word k / 2 ^ 60
    let code (p : Nat) : Nat := if (p = 6 ∨ p = 7) ∧ sm = false then 0x02 else 0x05
    let srcBad := 9 < path 0 ∨ ((path 0 = 6 ∨ path 0 = 7) ∧ sm = false)
    let dstBad := path 1 = 2 ∨ path 1 = 3 ∨ path 1 = 4 ∨ 7 < path 1 ∧ path 1 ≠ 9 ∨ ((path 1 = 6 ∨ path 1 = 7) ∧ sm = false)
    let crecBad := path 7 ≠ 0 ∧ path 7 ≠ 1 ∧ path 7 ≠ 9
    let odd (k : Nat) : Prop := word k % size ≠ 0
    let stride (k : Nat) : Nat := word (3 + k / 2) / 2 ^ (32 * (k % 2)) % 2 ^ 32
    (set 5 2 6 → r = some (0, field 5 2)) ∧
    (¬set 5 2 6 → set 5 13 19 → r = some (0, field 5 13)) ∧
    (¬set 5 2 6 → ¬set 5 13 19 → set 5 48 16 → r = some (0, field 5 48)) ∧
    (¬set 5 2 6 → ¬set 5 13 19 → ¬set 5 48 16 → set 6 4 4 → r = some (0, field 6 4)) ∧
    (¬set 5 2 6 → ¬set 5 13 19 → ¬set 5 48 16 → ¬set 6 4 4 → set 6 16 48 → r = some (0, field 6 16)) ∧
    (zero → srcBad → r = some (code (path 0), field 0 0)) ∧
    (zero → ¬srcBad → dstBad → r = some (code (path 1), field 1 0)) ∧
    (zero → ¬srcBad → ¬dstBad → crecBad → r = some (code (path 7), field 7 0)) ∧
    (zero → s.scPathBad d w sevc sm = none →
      (odd 0 → r = some (0, field 0 0)) ∧ (¬odd 0 → odd 1 → r = some (0, field 1 0)) ∧
      (¬odd 0 → ¬odd 1 → ∀ k, k < 4 → stride k % size ≠ 0 → (∀ j, j < k → stride j % size = 0) →
        r = some (0, field (3 + k / 2) (32 * (k % 2)))) ∧
      (¬odd 0 → ¬odd 1 → (∀ k, k < 4 → stride k % size = 0) →
        (word 7 % 32 ≠ 0 → r = some (0, field 7 0)) ∧
        (word 7 % 32 = 0 → sevc = false → word 6 / 2 % 2 = 0 →
          (word 6 / 2 ^ 8 % 2 ^ 8 ≠ 0xFF → r = some (0, field 6 1)) ∧
          (word 6 / 2 ^ 8 % 2 ^ 8 = 0xFF → word 6 / 4 % 2 = 1 → r = some (0, field 6 2)) ∧
          (word 6 / 2 ^ 8 % 2 ^ 8 = 0xFF → word 6 / 4 % 2 = 0 →
            r = none ∨ r = some (0x07, field 1 0))) ∧
        (word 7 % 32 = 0 → sevc = false → word 6 / 2 % 2 = 1 → path 1 ≠ 1 → r = some (0, field 1 0)) ∧
        (∀ loc, word 7 % 32 = 0 → sevc = false → word 6 / 2 % 2 = 1 → s.nodeAddr d ((w[1]?).getD 0) = some loc →
          63 < word 6 / 2 ^ 8 % 2 ^ 8 → r = some (0, if word 5 / 2 ^ 32 % 2 ^ 16 = 0xFFFF then field 5 32 else field 6 1))))

/-- What an element of a command reads: by a path of memory the bytes of its place under its key, ECC where they are poisoned,
or the trap of the path and the page; by VIEW the view's elements in FP16, each rounded once; by DERIV the bytes of the derived array, or ACCESS without one; by REMOTE in this package the bytes under the table entry's key slot, or ACCESS without one (R97 to R99, R102, R107, R109, R160, R199, R246). -/
def Sys2Proof.Claims.StreamReads : Prop :=
  ∀ (s : State) (d n l : Nat) (c : SCmd), c.kind ≠ 2 → c.pins = [] → s.stale = [] →
    let a := scSrc c.words l
    let sz := scSize c.words
    let path := a.toNat / 2 ^ 60
    let reads (bs : List Byte) : Prop := ∃ u, s.streamRead d n c l = .ok (bs, u) ∧ SameBytes s u
    let fails (code : Nat) : Prop := s.streamRead d n c l = .error ⟨code, a⟩
    (path ≠ 3 → path ≠ 4 → path ≠ 8 →
      (∀ t, s.locate d (some n) a .ssrc c.smode = .error t → s.streamRead d n c l = .error t) ∧
      ∀ loc, s.locate d (some n) a .ssrc c.smode = .ok loc → loc.tgt ≠ 4 → loc.tgt ≠ 9 →
        (s.poisoned loc.key sz = true → fails 0x0E) ∧
        (s.poisoned loc.key sz = false → (loc.tgt = 2 → s.inShadow loc.die loc.ring loc.node loc.off sz = false) →
          reads (s.plainBytes loc.key loc.slot sz)) ∧
        (s.poisoned loc.key sz = false → loc.tgt = 2 → s.inShadow loc.die loc.ring loc.node loc.off sz = true → fails 0x05)) ∧
    (path = 3 →
      let v := tget [] (s.die d).act.views (a.toNat / 2 ^ 56 % 16)
      let word (k : Nat) : Nat := ((v[k]?).getD 0).toNat
      let cols := word 0 / 2 ^ 32
      let size := 2 * (word 1 % 2 ^ 32) * cols
      let off := a.toNat % 2 ^ 56
      ((word 0 / 2 ^ 8 % 2 = 0 ∨ size < off + sz) → fails 0x05) ∧
      (∀ bs u, word 0 / 2 ^ 8 % 2 = 1 → off + sz ≤ size → tget none (s.die d).vcache (a.toNat / 64) = none →
        State.viewElems d (some n) v cols (off / 64 * 32) (min 32 (size / 2 - off / 64 * 32)) s = .ok (bs, u) →
        ∃ u', s.streamRead d n c l = .ok ((bs.drop (off % 64)).take sz, u'))) ∧
    (∀ (eng : Option Nat) (v : List Word) (i j : Nat) (e sc : List Byte) (t u : State),
      let word (k : Nat) : Word := (v[k]?).getD 0
      let fmt := (word 0).toNat % 2 ^ 8
      12 ≤ fmt → fmt ≤ 19 →
      s.genBytes d eng (word 2 + BitVec.ofNat 64 ((word 3).toNat * i + j * laneWidth fmt / 8)) 1 = .ok (e, t) →
      t.genBytes d eng (word 4 + BitVec.ofNat 64 ((word 5).toNat * i + j / 32 * if 18 ≤ fmt then 4 else 1))
        (if 18 ≤ fmt then 4 else 1) = .ok (sc, u) →
      let x := if laneWidth fmt = 8 then leNat e else if j % 2 = 0 then leNat e % 16 else leNat e / 16
      s.viewElem d eng v i j = .ok ((roundTo 1 0 (decodeBlock fmt x (leNat sc) 0).1).1, u)) ∧
    (path = 4 → ∀ pd, s.physDie (s.launchAt d) (a.toNat / 2 ^ 54 % 2 ^ 6) = some (some pd) →
      let ring := a.toNat / 2 ^ 48 % 2 ^ 6
      let node := a.toNat / 2 ^ 44 % 16
      let dix := a.toNat / 2 ^ 40 % 16
      let off := a.toNat % 2 ^ 40
      (s.deriv pd ring node dix = none → fails 0x05) ∧
      (∀ x, dix < 8 → s.deriv pd ring node dix = some x → x.building = false → off < x.arrayLen →
        s.shadowPoison pd ring node off sz x = false → reads (s.derivRead pd ring node dix off sz x).1)) ∧
    (path = 8 → a.toNat / 2 ^ 36 % 2 ^ 13 = 0 → a.toNat / 2 ^ 56 % 16 = s.mgmt.pkgX → a.toNat / 2 ^ 52 % 16 = s.mgmt.pkgY →
      let st := a.toNat / 2 ^ 49 % 8
      let off := a.toNat % 2 ^ 36
      ((s.stack st).actMatch s.mgmt.pkgCode off = none → fails 0x05) ∧
      ∀ k, (s.stack st).actMatch s.mgmt.pkgCode off = some k →
        let key := stackKey (linOf (st * 2 ^ 36 + off))
        (s.poisoned key sz = true → fails 0x0E) ∧ (s.poisoned key sz = false → reads (s.plainBytes key (some k) sz)))

/-- A command leaves its engine with its state, and with its record at the place of its CREC in host memory. -/
def Sys2Proof.Claims.StreamEnded (s t : State) (d n k : Nat) (c : SCmd) (status fcode bytes : Nat) (faddr : Word) : Prop :=
  let e := s.engine d n
  (t.engine d n).cmds = e.cmds.eraseIdx k ∧ (t.engine d n).count = e.count ∧
  (c.kind ≠ 4 → e.hist.any (fun h => h.1 == c.ticket % 2 ^ 28) = true →
    (t.engine d n).state (c.ticket % 2 ^ 28) = status + 256 * (fcode % 256)) ∧
  t.bytes (hostKey (bitsOf (scWord c.words 7) 0 52)) 32 = crecBytes status fcode bytes faddr c.ticket

/-- A stream command that may start holds its claim, and not more: that all its data move with its completion is the model's choice
(log 18). One that was rejected ends with STATUS 3 and its FCODE. The elements of a record without PUB are copied from nodes to nodes
in the order of their index: all of them, with STATUS 1, or those below the first that meets an uncorrectable error or shadow storage,
with STATUS 2, its trap and its address (R107, R109, R110, R149, R214, R352). -/
def Sys2Proof.Claims.StreamCopies : Prop :=
  ∀ (s : State) (d n k : Nat),
    let e := s.engine d n
    (s.mayStart d n k = false → exec (.streamCommandStart d n k) s = .next s) ∧
    (∀ c b, s.mayStart d n k = true → e.cmds[k]? = some c → s.claimNow d c = some b →
      ∃ t, exec (.streamCommandStart d n k) s = .next t ∧ SameOutsideDies s t ∧ OnlyDie s t d ∧
        t.die d = { s.die d with engines := (t.die d).engines } ∧
        t.engine d n = { e with cmds := e.cmds.set k { c with started := true, claim := b } } ∧
        ∀ m, m ≠ n → t.engine d m = s.engine d m) ∧
    (s.mayFinish d n k = false → exec (.streamCompletion d n k) s = .next s) ∧
    (∀ c, e.cmds[k]? = some c → bitsOf (scWord c.words 7) 52 12 = 0x900 → bitsOf (scWord c.words 7) 0 5 = 0 →
      let rec_ := hostKey (bitsOf (scWord c.words 7) 0 52)
      let sz := scSize c.words
      (∀ code a, c.reject = some (code, a) → s.mayFinish d n k = true → ∃ t, exec (.streamCompletion d n k) s = .next t ∧
        Claims.StreamEnded s t d n k c 3 code 0 a ∧ SameBytesOutside s t rec_ 32 ∧ OnlyDie s t d ∧ t.mgmt = s.mgmt ∧
        ∀ m, m ≠ n → t.engine d m = s.engine d m) ∧
      (∀ (a b : Nat → Loc) (m : Nat), c.reject = none → s.mayFinish d n k = true → c.kind ≠ 2 → scPub c.words = false →
        m ≤ scTotal c.words → s.stale = [] →
        let ok (x : Loc) : Prop := s.inShadow x.die x.ring x.node x.off sz = false
        let bad (x : Loc) : Prop := s.poisoned x.key sz = true ∨ ¬ok x
        (∀ l, l ≤ m → l < scTotal c.words → s.nodeAddr d (scSrc c.words l) = some (a l) ∧ (a l).tgt = 2 ∧
          s.nodeAddr d (scDst c.words l) = some (b l) ∧ (b l).tgt = 2) →
        (∀ l, l < m → ¬bad (a l) ∧ ok (b l) ∧ (∀ i, i ≤ m → i < scTotal c.words →
          (b l).key + sz ≤ (a i).key ∨ (a i).key + sz ≤ (b l).key) ∧
          ∀ i, i < m → i ≠ l → (b l).key + sz ≤ (b i).key ∨ (b i).key + sz ≤ (b l).key) →
        (m < scTotal c.words → bad (a m)) →
        ∃ t, exec (.streamCompletion d n k) s = .next t ∧
          (if m = scTotal c.words then Claims.StreamEnded s t d n k c 1 0 (m * sz) 0
           else Claims.StreamEnded s t d n k c 2 (if s.poisoned (a m).key sz then 0x0E else 0x05) (m * sz) (scSrc c.words m)) ∧
          (∀ l i, l < m → i < sz → t.byte ((b l).key + i) = s.byte ((a l).key + i)) ∧
          ∀ j, (∀ l, l < m → ¬((b l).key ≤ j ∧ j < (b l).key + sz)) → ¬(rec_ ≤ j ∧ j < rec_ + 32) → t.byte j = s.byte j))

/-- The data of a command of one element: by whatever path it is read, it is performed at the place of its DST, or its destination's
trap ends the command with STATUS 2 and nothing moves; with PUB it goes to its offset in the claimed buffer, which is then full with
the record's TAG; an SEVC takes it from its offset in the claimed buffer, which is then released, and ends with SCHED where the
buffer has another tag (R94, R108 to R110, R349, R352). -/
def Sys2Proof.Claims.StreamElement : Prop :=
  ∀ (s : State) (d n k : Nat) (c : SCmd), (s.engine d n).cmds[k]? = some c → bitsOf (scWord c.words 7) 52 12 = 0x900 →
    bitsOf (scWord c.words 7) 0 5 = 0 → c.reject = none → s.mayFinish d n k = true → scTotal c.words = 1 → s.stale = [] →
    c.pins = [] →
    let rec_ := hostKey (bitsOf (scWord c.words 7) 0 52)
    let sz := scSize c.words
    let a := scSrc c.words 0
    let b := scDst c.words 0
    let ended (t : State) (status fcode bytes : Nat) (faddr : Word) : Prop :=
      exec (.streamCompletion d n k) s = .next t ∧ Claims.StreamEnded s t d n k c status fcode bytes faddr
    (∀ t, c.kind ≠ 2 → scPub c.words = false → a.toNat / 2 ^ 60 ≠ 8 → s.streamRead d n c 0 = .error t → ∃ u, ended u 2 t.code 0 a ∧
      SameBytesOutside s u rec_ 32) ∧
    (∀ l u, c.kind ≠ 2 → scPub c.words = false → s.streamRead d n c 0 = .ok (l, u) →
      (∀ t, u.locate d (some n) b .sdst c.smode = .error t → ∃ v, ended v 2 t.code 0 b ∧ SameBytesOutside u v rec_ 32) ∧
      (∀ loc, u.locate d (some n) b .sdst c.smode = .ok loc →
        (loc.tgt = 2 → u.inShadow loc.die loc.ring loc.node loc.off sz = true → ∃ v, ended v 2 0x05 0 b ∧
          SameBytesOutside u v rec_ 32) ∧
        ((loc.tgt = 2 → u.inShadow loc.die loc.ring loc.node loc.off sz = false) → ∃ v w, Claims.Performs u v loc l ∧
          ended w 1 0 sz 0 ∧ SameBytesOutside v w rec_ 32))) ∧
    (∀ (loc : Loc) (j : Nat) (l : List Byte) (u : State), c.kind ≠ 2 → scPub c.words = true → c.next = false →
      s.nodeAddr d (scWord c.words 1) = some loc → loc.tgt = 2 → c.claim = some j → s.claimLost d c = false →
      s.streamRead d n c 0 = .ok (l, u) →
      let sl := slotOfNode loc.node
      let w := s.shelf loc.die loc.ring sl (scShelf c.words)
      let at_ := bufBase w j + loc.off
      let key := sramKey loc.die loc.ring loc.node at_
      let old := s.buf loc.die loc.ring sl (scShelf c.words)
      loc.off + sz ≤ shBytes w → s.inShadow loc.die loc.ring loc.node at_ sz = false → (u.die loc.die).act = (s.die loc.die).act →
        (u.die loc.die).derivs = (s.die loc.die).derivs →
        ∃ t, ended t 1 0 sz 0 ∧ t.bytes key sz = l ∧
          (∀ m, ¬(key ≤ m ∧ m < key + sz) → ¬(rec_ ≤ m ∧ m < rec_ + 32) → t.byte m = u.byte m) ∧
          let new := t.buf loc.die loc.ring sl (scShelf c.words)
          new.pc = old.pc + 1 ∧ new.cc = old.cc ∧ (j < 8 → new.full.getLsbD j = true) ∧
          tget 0xFFFF new.tags j = BitVec.ofNat 16 (scTag c.words)) ∧
    (∀ (loc : Loc) (j : Nat), c.kind = 2 → s.nodeAddr d (scWord c.words 0) = some loc → loc.tgt = 2 → c.claim = some j →
      s.claimLost d c = false →
      let sl := slotOfNode loc.node
      let w := s.shelf loc.die loc.ring sl (scShelf c.words)
      let old := s.buf loc.die loc.ring sl (scShelf c.words)
      let at_ := bufBase w j + loc.off
      let key := sramKey loc.die loc.ring loc.node at_
      (tget 0xFFFF old.tags j ≠ BitVec.ofNat 16 (scTag c.words) → ∃ t, ended t 2 0x07 0 0 ∧ SameBytesOutside s t rec_ 32) ∧
      (∀ tl : Loc, tget 0xFFFF old.tags j = BitVec.ofNat 16 (scTag c.words) → scPub c.words = false →
        loc.off + sz ≤ shBytes w → s.poisoned key sz = false → s.inShadow loc.die loc.ring loc.node at_ sz = false →
        s.nodeAddr d b = some tl → tl.tgt = 2 → s.inShadow tl.die tl.ring tl.node tl.off sz = false →
        ∃ t, ended t 1 0 sz 0 ∧ (∀ i, i < sz → t.byte (sramKey tl.die tl.ring tl.node tl.off + i) = s.byte (key + i)) ∧
          let new := t.buf loc.die loc.ring sl (scShelf c.words)
          new.cc = old.cc + 1 ∧ new.pc = old.pc ∧ new.full.getLsbD j = false))

/-- A store in flight arrives whole, or raises ACCESS in shadow storage (R149, R152), TRAPPC then naming the first instruction that
has not issued (log 20). A derived build's end makes its result readable (R151). -/
def Sys2Proof.Claims.StoreAndBuildEvents : Prop :=
  ∀ (s : State) (d n k : Nat),
    (let q := (s.core d).stq
     (q[k]? = none → exec (.nodeStoreArrival d k) s = .next s) ∧
     ((s.core d).mayArrive k = false → exec (.nodeStoreArrival d k) s = .next s) ∧
     (∀ p, q[k]? = some p → p.loc.tgt ≠ 2 → exec (.nodeStoreArrival d k) s = .next s) ∧
     ∀ p, q[k]? = some p → p.loc.tgt = 2 → (s.core d).mayArrive k = true → ∃ t, exec (.nodeStoreArrival d k) s = .next t ∧
       (t.core d).stq = q.eraseIdx k ∧ (t.core d).a = (s.core d).a ∧
       let key := sramKey p.loc.die p.loc.ring p.loc.node p.loc.off
       (s.inShadow p.loc.die p.loc.ring p.loc.node p.loc.off p.bytes.length = false →
         (∀ i, i < p.bytes.length → some (t.byte (key + i)) = p.bytes[i]?) ∧ SameBytesOutside s t key p.bytes.length ∧
         (t.core d).pc = (s.core d).pc) ∧
       (s.inShadow p.loc.die p.loc.ring p.loc.node p.loc.off p.bytes.length = true → SameBytes s t ∧
         (t.core d).trapc.toNat % 2 ^ 12 = 0x305 ∧ (t.core d).trapval = p.addr ∧
         (t.core d).trappc = (if (s.core d).wait = .none ∧ (s.core d).stallAt ≠ some (s.core d).pc then (s.core d).pc else (s.core d).pc + 4))) ∧
    (let ring := n / 16
     let node := n % 16
     (s.deriv d ring node k = none → exec (.derivedBuildDone d n k) s = .next s) ∧
     ∀ y, s.deriv d ring node k = some y →
       (y.building = false → exec (.derivedBuildDone d n k) s = .next s) ∧
       (y.building = true → ∃ t z, exec (.derivedBuildDone d n k) s = .next t ∧ SameOutsideDies s t ∧ OnlyDie s t d ∧
         t.die d = { s.die d with derivs := (t.die d).derivs } ∧ t.deriv d ring node k = some z ∧ z.words = y.words ∧
         z.building = false ∧ z.undo = [] ∧ ∀ r m j, (r, m, j) ≠ (ring, node, k) → m < 16 → j < 8 → k < 8 →
           t.deriv d r m j = s.deriv d r m j))

/-- Stream commands, stores of a core into nodes, derived builds (R94, R107 to R110, R149, R151, R152, R160, R199, R214, R349). -/
def Obligations.StreamAndStoreEvents : Prop :=
  Claims.StreamAddresses ∧ Claims.StreamRejects ∧ Claims.StreamReads ∧ Claims.StreamCopies ∧ Claims.StreamElement ∧
  Claims.StoreAndBuildEvents

/-- A token whose handler entry is valid joins the event queue with its address; without one, as with HTAB 0, HANDLER is raised
with the token in TRAPVAL (R237, R238); that TRAPPC is then the core's pc is the model's choice (log 20). A collective completes when every core of the launch waits in it: a failing check leaves every buffer
as it is and gives its own status there and 4 elsewhere; an A128 sum over two dies stands in both buffers (R247). -/
def Obligations.TokenAndCollectiveEvents : Prop :=
  ∀ (s : State) (d l : Nat) (k : Tok) (rest : List Tok),
    let tok := k.word
    ((s.core d).tokIn = [] → exec (.tokenArrival d) s = .next s) ∧
    ((s.core d).tokIn = k :: rest →
      let u := s.setCore d { s.core d with tokIn := rest }
      let refused := ∃ t, exec (.tokenArrival d) s = .next t ∧ SameBytes s t ∧ (t.core d).tokIn = rest ∧
        (t.core d).evq = (s.core d).evq ∧ (t.core d).trapc.toNat % 2 ^ 12 = 0x309 ∧ (t.core d).trapval = tok ∧
        (t.core d).trappc = (s.core d).pc ∧ (t.core d).smode = true
      (u.handlerEntry d tok = none → refused) ∧
      ((s.core d).htab = 0 → refused) ∧
      (∀ e v, u.handlerEntry d tok = some (e, v) →
        let valid := e.getLsbD 63 = true ∧ e.toNat / 2 ^ 48 % 2 ^ 15 = 0 ∧ e.toNat % 4 = 0
        (¬valid → refused) ∧
        (valid → ∃ t, exec (.tokenArrival d) s = .next t ∧ SameBytes s t ∧ OnlyDie s t d ∧
          t.core d = { s.core d with
            tokIn := rest, evq := (s.core d).evq ++ [(tok, BitVec.ofNat 64 (e.toNat % 2 ^ 48))] }))) ∧
    (let x := s.launch l
     let dies := s.localDies x
     (dies = [] → exec (.collectiveCompletion l) s = .next s) ∧
     ((∃ e, e ∈ dies ∧ (s.core e.2).wait ≠ .coll) → exec (.collectiveCompletion l) s = .next s) ∧
     (∀ k, dies ≠ [] → s.isLocal x = true → (∀ e, e ∈ dies → (s.core e.2).wait = .coll ∧ (s.core e.2).colls = k) →
       ((∃ p, p ∈ s.parts l ∧ p.2.bad = true) → ∃ t, exec (.collectiveCompletion l) s = .next t ∧ SameBytes s t ∧
         ∀ p, p ∈ s.parts l → (t.core p.2.die).a = (s.core p.2.die).a ∧
           (t.core p.2.die).wait = .collDone (match p.2.loc with
             | .error n => BitVec.ofNat 8 n
             | .ok _ => 4)) ∧
       (∀ p q a b, s.parts l = [(0, p), (1, q)] → x.dieCount = 2 → p.loc = .ok a → q.loc = .ok b → a.tgt = 2 → b.tgt = 2 →
         a.key = sramKey a.die a.ring a.node a.off → b.key = sramKey b.die b.ring b.node b.off →
         p.dsc.toNat % 4 = 1 → q.dsc.toNat % 4 = 1 → p.dsc.toNat / 2 ^ 16 % 2 ^ 16 = 1 → q.dsc.toNat / 2 ^ 16 % 2 ^ 16 = 1 →
         (a.key + 16 ≤ b.key ∨ b.key + 16 ≤ a.key) → s.poisoned a.key 16 = false → s.poisoned b.key 16 = false →
         let v := leNat (s.plainBytes a.key a.slot 16)
         let w := leNat (s.plainBytes b.key b.slot 16)
         ∃ t, exec (.collectiveCompletion l) s = .next t ∧
           t.bytes a.key 16 = leBytes 16 ((v + w) % 2 ^ 128) ∧ t.bytes b.key 16 = leBytes 16 ((v + w) % 2 ^ 128) ∧
           (∀ m, ¬(a.key ≤ m ∧ m < a.key + 16) → ¬(b.key ≤ m ∧ m < b.key + 16) → t.byte m = s.byte m) ∧
           ∃ st, (t.core p.die).wait = .collDone st ∧ (t.core q.die).wait = .collDone st ∧ (st = 1 ∨ st = 5))))

/-! ### Reset, and what every step keeps -/

/-- Reset leaves each queue at NEXTSEQ 1, CONSUMED 0 and QSTATE 0, AGE_LIMIT at 2^24, ALARMP at LEVEL 2, ALARMS at 0, the ACT
entries and the trap registers at 0 and memory in its canonical form (R6, R13, R199, R235); that the other registers of a
core are 0, an unwritten byte reads 0 and no key slot is loaded is the model's choice (log 1, 2, 8). -/
def Obligations.ResetState : Prop :=
  Inv State.reset ∧ State.reset.mgmt.ageLimit.toNat = 2 ^ 24 ∧ State.reset.mgmt.alarmLevel = 2 ∧
  State.reset.mgmt.alarms = 0 ∧ State.reset.mgmt.linkUp = false ∧
  (∀ q, (State.reset.queue q).nextseq = 1 ∧ (State.reset.queue q).consumed = 0 ∧ (State.reset.queue q).qstate = 0) ∧
  (∀ st k, tget (0, 0) (State.reset.stack st).act k = (0, 0) ∧ (State.reset.stack st).denials = 0) ∧
  (∀ d, (State.reset.core d).trapc = 0 ∧ (State.reset.core d).trappc = 0 ∧ (State.reset.core d).trapval = 0 ∧
    (State.reset.core d).htab = 0 ∧ (State.reset.core d).smode = false ∧ (State.reset.core d).running = false ∧
    (State.reset.die d).launch = none ∧ ∀ r, (State.reset.core d).get r = 0) ∧
  (∀ k, State.reset.byte k = 0 ∧ State.reset.keySlot k = none)

/-- From every state whose memory is in canonical form, a step leads to a state whose memory is: addresses rise strictly and
no entry is what an unlisted address reads as. -/
def Obligations.StepKeepsMemoryForm : Prop := ∀ s t : State, Inv s → step s = .next t → Inv t

/-- No control-core instruction that K mode executes changes a privileged register, the key slots or the management
processor's registers: HTAB, PTBASE, AGE_LIMIT, ALARMP, ALARMS and FRZREC stand; TRAPC, TRAPPC, TRAPVAL and the mode change
by a trap alone, which records K and continues at the firmware vector (R234, R235, R242). -/
def Obligations.KModeKeepsPrivilegedState : Prop :=
  ∀ (s t : State) (i : Instr), coreWords i ≠ none → s.cc.smode = false → exec i s = .next t →
    t.mgmt = s.mgmt ∧ t.keys = s.keys ∧ t.nLaunch = s.nLaunch ∧
    let c := s.cc
    let e := t.core s.cdie
    e.htab = c.htab ∧ e.ptbase = c.ptbase ∧ e.diex = c.diex ∧ e.diey = c.diey ∧ e.dien = c.dien ∧ e.running = c.running ∧
    ((e.smode = false ∧ e.trapc = c.trapc ∧ e.trappc = c.trappc ∧ e.trapval = c.trapval) ∨
     (e.smode = true ∧ e.pc = Config.firmwareVector ∧ e.trapc.toNat / 2 ^ 8 = 3 ∧ e.wait = .none))
end

