-- ==== Sys2Proof/Laws/Tab.lean ====
section
/-! SUPPORT. Laws of the sparse tables: reading after writing, the canonical form, extensionality. -/

namespace Sys2Proof

theorem tget_nil {α : Type} (d : α) (n : Nat) : tget d [] n = d := rfl

/-- An entry below every key of the tail reads as the default. -/
theorem tget_dropWhile_le {α : Type} (d : α) (t : Tab α) (n m : Nat) (h : m ≤ n) :
    tget d (t.dropWhile (fun e => decide (e.1 ≤ n))) m = d := by
  induction t with
  | nil => rfl
  | cons e t ih =>
    obtain ⟨k, v⟩ := e
    simp only [List.dropWhile]
    by_cases hk : k ≤ n
    · simp only [hk, decide_true]; exact ih
    · simp only [hk, decide_false, tget]
      rw [if_neg (by omega), if_pos (by omega)]

theorem tget_dropWhile_gt {α : Type} (d : α) (t : Tab α) (n m : Nat) (h : n < m) :
    tget d (t.dropWhile (fun e => decide (e.1 ≤ n))) m = tget d t m := by
  induction t with
  | nil => rfl
  | cons e t ih =>
    obtain ⟨k, v⟩ := e
    simp only [List.dropWhile]
    by_cases hk : k ≤ n
    · simp only [hk, decide_true, ih, tget]
      rw [if_neg (by omega), if_neg (by omega)]
    · simp only [hk, decide_false]

/-- Reading an entry after a write, in every list. -/
theorem tget_tset {α : Type} [DecidableEq α] (d : α) (t : Tab α) (n m : Nat) (x : α) :
    tget d (tset d t n x) m = if m = n then x else tget d t m := by
  induction t with
  | nil =>
    simp only [tset]
    by_cases hx : x = d
    · simp [hx, tget]
    · simp only [hx, if_false, tget]
      split <;> simp_all
  | cons e t ih =>
    obtain ⟨k, v⟩ := e
    simp only [tset]
    by_cases h1 : k < n
    · rw [if_pos h1]
      simp only [tget, ih]
      by_cases hm : m = n
      · subst hm; rw [if_neg (by omega), if_neg (by omega), if_pos rfl, if_pos rfl]
      · simp only [if_neg hm]
    · rw [if_neg h1]
      have low : ∀ m, m < n → tget d ((k, v) :: t) m = d := fun m h => by
        simp only [tget]; rw [if_neg (by omega), if_pos (by omega)]
      by_cases hx : x = d
      · rw [if_pos hx]
        by_cases hm : m ≤ n
        · rw [tget_dropWhile_le d _ n m hm]
          by_cases he : m = n
          · rw [if_pos he, hx]
          · rw [if_neg he, low m (by omega)]
        · rw [if_neg (by omega), tget_dropWhile_gt d _ n m (by omega)]
      · rw [if_neg hx, tget]
        by_cases hm : m = n
        · rw [if_pos hm, if_pos hm]
        · rw [if_neg hm, if_neg hm]
          by_cases hl : m < n
          · rw [if_pos hl, low m hl]
          · rw [if_neg hl, tget_dropWhile_gt d _ n m (by omega)]

theorem dropWhile_idem {α : Type} (n : Nat) (t : Tab α) :
    (t.dropWhile (fun e => decide (e.1 ≤ n))).dropWhile (fun e => decide (e.1 ≤ n)) =
      t.dropWhile (fun e => decide (e.1 ≤ n)) := by
  induction t with
  | nil => rfl
  | cons e t ih =>
    by_cases h : e.1 ≤ n
    · simp only [List.dropWhile, h, decide_true, ih]
    · simp only [List.dropWhile, h, decide_false]

/-- A second write of an entry forgets the first, in every list. -/
@[simp] theorem tset_tset {α : Type} [DecidableEq α] (d : α) (t : Tab α) (n : Nat) (x y : α) :
    tset d (tset d t n x) n y = tset d t n y := by
  have front : ∀ r : Tab α, (∀ e ∈ r.head?, n < e.1) → tset d r n y = if y = d then r else (n, y) :: r := by
    intro r hr
    cases r with
    | nil => simp [tset]
    | cons e r =>
      have := hr e rfl
      simp only [tset]
      rw [if_neg (by omega), List.dropWhile_cons_of_neg (by simpa using this)]
  have own : ∀ r : Tab α, (∀ e ∈ r.head?, n < e.1) → tset d ((n, x) :: r) n y = if y = d then r else (n, y) :: r := by
    intro r hr
    have hd : ((n, x) :: r).dropWhile (fun e => decide (e.1 ≤ n)) = r := by
      rw [List.dropWhile_cons_of_pos (by simp)]
      cases r with
      | nil => rfl
      | cons e r => exact List.dropWhile_cons_of_neg (by simpa using hr e rfl)
    simp only [tset, Nat.lt_irrefl, if_false, hd]
  induction t with
  | nil =>
    by_cases hx : x = d
    · simp [tset, hx]
    · simp [tset, hx]
  | cons e t ih =>
    obtain ⟨k, v⟩ := e
    by_cases h1 : k < n
    · simp only [tset, h1, if_true, ih]
    · have hd : ∀ z ∈ (((k, v) :: t).dropWhile (fun e => decide (e.1 ≤ n))).head?, n < z.1 := by
        intro z hz
        have := List.head?_dropWhile_not (fun e : Nat × α => decide (e.1 ≤ n)) ((k, v) :: t)
        cases hc : ((k, v) :: t).dropWhile (fun e => decide (e.1 ≤ n)) with
        | nil => rw [hc] at hz; cases hz
        | cons w r =>
          rw [hc] at hz this
          simp only [List.head?_cons, Option.mem_def, Option.some.injEq] at hz
          subst hz
          simpa using this
      by_cases hx : x = d
      · have h2 : tset d ((k, v) :: t) n x = ((k, v) :: t).dropWhile (fun e => decide (e.1 ≤ n)) := by
          simp [tset, h1, hx]
        rw [h2, front _ hd]; simp [tset, h1]
      · have h2 : tset d ((k, v) :: t) n x = (n, x) :: ((k, v) :: t).dropWhile (fun e => decide (e.1 ≤ n)) := by
          simp [tset, h1, hx]
        rw [h2, own _ hd]; simp [tset, h1]

@[simp] theorem tget_tset_same {α : Type} [DecidableEq α] (d : α) (t : Tab α) (n : Nat) (x : α) :
    tget d (tset d t n x) n = x := by rw [tget_tset, if_pos rfl]

theorem tget_tset_ne {α : Type} [DecidableEq α] (d : α) (t : Tab α) {n m : Nat} (x : α) (h : m ≠ n) :
    tget d (tset d t n x) m = tget d t m := by rw [tget_tset, if_neg h]

/-! ### The canonical form -/

theorem twfFrom_mono {α : Type} [DecidableEq α] (d : α) (t : Tab α) {a b : Nat} (h : a ≤ b) (w : twfFrom d b t = true) :
    twfFrom d a t = true := by
  cases t with
  | nil => rfl
  | cons e t =>
    obtain ⟨k, v⟩ := e
    simp only [twfFrom, Bool.and_eq_true, decide_eq_true_eq] at w ⊢
    exact ⟨⟨by omega, w.1.2⟩, w.2⟩

/-- Removing entries keeps the canonical form. -/
theorem twfFrom_sublist {α : Type} [DecidableEq α] (d : α) {l t : Tab α} (h : l.Sublist t) (lo : Nat)
    (w : twfFrom d lo t = true) : twfFrom d lo l = true := by
  induction h generalizing lo with
  | slnil => rfl
  | cons e _ ih =>
    obtain ⟨k, v⟩ := e
    simp only [twfFrom, Bool.and_eq_true, decide_eq_true_eq] at w
    exact twfFrom_mono d _ (by omega : lo ≤ k + 1) (ih _ w.2)
  | cons_cons e _ ih =>
    obtain ⟨k, v⟩ := e
    simp only [twfFrom, Bool.and_eq_true, decide_eq_true_eq] at w ⊢
    exact ⟨w.1, ih _ w.2⟩

theorem twfFrom_tset {α : Type} [DecidableEq α] (d : α) (t : Tab α) (lo n : Nat) (x : α) (h : lo ≤ n)
    (w : twfFrom d lo t = true) : twfFrom d lo (tset d t n x) = true := by
  induction t generalizing lo with
  | nil =>
    simp only [tset]
    by_cases hx : x = d
    · rw [if_pos hx]; rfl
    · rw [if_neg hx]; simp [twfFrom, h, hx]
  | cons e t ih =>
    obtain ⟨k, v⟩ := e
    have w' := w
    simp only [twfFrom, Bool.and_eq_true, decide_eq_true_eq] at w'
    simp only [tset]
    by_cases h1 : k < n
    · rw [if_pos h1]
      simp only [twfFrom, Bool.and_eq_true, decide_eq_true_eq]
      exact ⟨w'.1, ih (k + 1) (by omega) w'.2⟩
    · rw [if_neg h1]
      by_cases hx : x = d
      · rw [if_pos hx]
        exact twfFrom_sublist d (List.dropWhile_sublist _) lo w
      · rw [if_neg hx]
        simp only [twfFrom, Bool.and_eq_true, decide_eq_true_eq]
        refine ⟨⟨h, hx⟩, ?_⟩
        by_cases h2 : k = n
        · rw [List.dropWhile_cons_of_pos (by simp [h2])]
          exact twfFrom_sublist d (List.dropWhile_sublist _) _ (h2 ▸ w'.2)
        · rw [List.dropWhile_cons_of_neg (by simp; omega)]
          simp only [twfFrom, Bool.and_eq_true, decide_eq_true_eq]
          exact ⟨⟨by omega, w'.1.2⟩, w'.2⟩

/-- A write keeps the canonical form. -/
theorem twf_tset {α : Type} [DecidableEq α] (d : α) (t : Tab α) (n : Nat) (x : α) (w : twf d t = true) :
    twf d (tset d t n x) = true := twfFrom_tset d t 0 n x (by omega) w

theorem twf_filter {α : Type} [DecidableEq α] (d : α) (t : Tab α) (p : Nat × α → Bool) (w : twf d t = true) :
    twf d (t.filter p) = true := twfFrom_sublist d List.filter_sublist 0 w

theorem tget_of_lt {α : Type} [DecidableEq α] (d : α) (t : Tab α) (lo n : Nat) (h : n < lo) (w : twfFrom d lo t = true) :
    tget d t n = d := by
  cases t with
  | nil => rfl
  | cons e t =>
    obtain ⟨k, v⟩ := e
    simp only [twfFrom, Bool.and_eq_true, decide_eq_true_eq] at w
    simp only [tget]
    rw [if_neg (by omega), if_pos (by omega)]

/-- Canonical tables that read alike are equal. -/
theorem twfFrom_ext {α : Type} [DecidableEq α] (d : α) (t u : Tab α) (lo : Nat) (ht : twfFrom d lo t = true)
    (hu : twfFrom d lo u = true) (h : ∀ n, tget d t n = tget d u n) : t = u := by
  induction t generalizing u lo with
  | nil =>
    cases u with
    | nil => rfl
    | cons e u =>
      obtain ⟨k, v⟩ := e
      simp only [twfFrom, Bool.and_eq_true, decide_eq_true_eq] at hu
      have := h k
      simp only [tget, if_true] at this
      exact absurd this.symm hu.1.2
  | cons e t ih =>
    obtain ⟨k, v⟩ := e
    have ht' := ht
    simp only [twfFrom, Bool.and_eq_true, decide_eq_true_eq] at ht'
    cases u with
    | nil =>
      have := h k
      simp only [tget, if_true] at this
      exact absurd this ht'.1.2
    | cons e' u =>
      obtain ⟨k', v'⟩ := e'
      have hu' := hu
      simp only [twfFrom, Bool.and_eq_true, decide_eq_true_eq] at hu'
      have hk : k = k' := by
        rcases Nat.lt_trichotomy k k' with hl | he | hg
        · have := h k
          simp only [tget, if_true] at this
          rw [if_neg (by omega), if_pos hl] at this
          exact absurd this ht'.1.2
        · exact he
        · have := h k'
          simp only [tget, if_true] at this
          rw [if_neg (by omega), if_pos hg] at this
          exact absurd this.symm hu'.1.2
      subst hk
      have hv : v = v' := by simpa [tget] using h k
      subst hv
      congr 1
      refine ih u (k + 1) ht'.2 hu'.2 (fun n => ?_)
      rcases Nat.lt_trichotomy n k with hl | he | hg
      · rw [tget_of_lt d t (k + 1) n (by omega) ht'.2, tget_of_lt d u (k + 1) n (by omega) hu'.2]
      · rw [tget_of_lt d t (k + 1) n (by omega) ht'.2, tget_of_lt d u (k + 1) n (by omega) hu'.2]
      · have := h n
        simp only [tget] at this
        rwa [if_neg (by omega), if_neg (by omega), if_neg (by omega), if_neg (by omega)] at this

end Sys2Proof
end

