-- ==== Sys2Proof/Laws/State.lean ====
section
/-! SUPPORT. One lemma per field per update of the state, and reading a part after writing a part. -/

namespace Sys2Proof.Machine

variable (s : State)

/-! ### `setDie` -/

@[simp] theorem State.setDie_cur (d : Nat) (x : Die) : (s.setDie d x).cur = s.cur := rfl
@[simp] theorem State.setDie_agenda (d : Nat) (x : Die) : (s.setDie d x).agenda = s.agenda := rfl
@[simp] theorem State.setDie_inputs (d : Nat) (x : Die) : (s.setDie d x).inputs = s.inputs := rfl
@[simp] theorem State.setDie_freeCtr (d : Nat) (x : Die) : (s.setDie d x).freeCtr = s.freeCtr := rfl
@[simp] theorem State.setDie_hostData (d : Nat) (x : Die) : (s.setDie d x).hostData = s.hostData := rfl
@[simp] theorem State.setDie_cycle (d : Nat) (x : Die) : (s.setDie d x).cycle = s.cycle := rfl
@[simp] theorem State.setDie_mem (d : Nat) (x : Die) : (s.setDie d x).mem = s.mem := rfl
@[simp] theorem State.setDie_poison (d : Nat) (x : Die) : (s.setDie d x).poison = s.poison := rfl
@[simp] theorem State.setDie_stale (d : Nat) (x : Die) : (s.setDie d x).stale = s.stale := rfl
@[simp] theorem State.setDie_keyTag (d : Nat) (x : Die) : (s.setDie d x).keyTag = s.keyTag := rfl
@[simp] theorem State.setDie_keys (d : Nat) (x : Die) : (s.setDie d x).keys = s.keys := rfl
@[simp] theorem State.setDie_mgmt (d : Nat) (x : Die) : (s.setDie d x).mgmt = s.mgmt := rfl
@[simp] theorem State.setDie_launches (d : Nat) (x : Die) : (s.setDie d x).launches = s.launches := rfl
@[simp] theorem State.setDie_nLaunch (d : Nat) (x : Die) : (s.setDie d x).nLaunch = s.nLaunch := rfl
@[simp] theorem State.setDie_stackTab (d : Nat) (x : Die) : (s.setDie d x).stackTab = s.stackTab := rfl

/-! ### `setLaunch` -/

@[simp] theorem State.setLaunch_cur (l : Nat) (x : Launch) : (s.setLaunch l x).cur = s.cur := rfl
@[simp] theorem State.setLaunch_agenda (l : Nat) (x : Launch) : (s.setLaunch l x).agenda = s.agenda := rfl
@[simp] theorem State.setLaunch_inputs (l : Nat) (x : Launch) : (s.setLaunch l x).inputs = s.inputs := rfl
@[simp] theorem State.setLaunch_freeCtr (l : Nat) (x : Launch) : (s.setLaunch l x).freeCtr = s.freeCtr := rfl
@[simp] theorem State.setLaunch_hostData (l : Nat) (x : Launch) : (s.setLaunch l x).hostData = s.hostData := rfl
@[simp] theorem State.setLaunch_cycle (l : Nat) (x : Launch) : (s.setLaunch l x).cycle = s.cycle := rfl
@[simp] theorem State.setLaunch_mem (l : Nat) (x : Launch) : (s.setLaunch l x).mem = s.mem := rfl
@[simp] theorem State.setLaunch_poison (l : Nat) (x : Launch) : (s.setLaunch l x).poison = s.poison := rfl
@[simp] theorem State.setLaunch_stale (l : Nat) (x : Launch) : (s.setLaunch l x).stale = s.stale := rfl
@[simp] theorem State.setLaunch_keyTag (l : Nat) (x : Launch) : (s.setLaunch l x).keyTag = s.keyTag := rfl
@[simp] theorem State.setLaunch_keys (l : Nat) (x : Launch) : (s.setLaunch l x).keys = s.keys := rfl
@[simp] theorem State.setLaunch_mgmt (l : Nat) (x : Launch) : (s.setLaunch l x).mgmt = s.mgmt := rfl
@[simp] theorem State.setLaunch_nLaunch (l : Nat) (x : Launch) : (s.setLaunch l x).nLaunch = s.nLaunch := rfl
@[simp] theorem State.setLaunch_dies (l : Nat) (x : Launch) : (s.setLaunch l x).dies = s.dies := rfl
@[simp] theorem State.setLaunch_stackTab (l : Nat) (x : Launch) : (s.setLaunch l x).stackTab = s.stackTab := rfl

/-! ### `setStack` -/

@[simp] theorem State.setStack_cur (k : Nat) (x : Stack) : (s.setStack k x).cur = s.cur := rfl
@[simp] theorem State.setStack_agenda (k : Nat) (x : Stack) : (s.setStack k x).agenda = s.agenda := rfl
@[simp] theorem State.setStack_inputs (k : Nat) (x : Stack) : (s.setStack k x).inputs = s.inputs := rfl
@[simp] theorem State.setStack_freeCtr (k : Nat) (x : Stack) : (s.setStack k x).freeCtr = s.freeCtr := rfl
@[simp] theorem State.setStack_hostData (k : Nat) (x : Stack) : (s.setStack k x).hostData = s.hostData := rfl
@[simp] theorem State.setStack_cycle (k : Nat) (x : Stack) : (s.setStack k x).cycle = s.cycle := rfl
@[simp] theorem State.setStack_mem (k : Nat) (x : Stack) : (s.setStack k x).mem = s.mem := rfl
@[simp] theorem State.setStack_poison (k : Nat) (x : Stack) : (s.setStack k x).poison = s.poison := rfl
@[simp] theorem State.setStack_stale (k : Nat) (x : Stack) : (s.setStack k x).stale = s.stale := rfl
@[simp] theorem State.setStack_keyTag (k : Nat) (x : Stack) : (s.setStack k x).keyTag = s.keyTag := rfl
@[simp] theorem State.setStack_keys (k : Nat) (x : Stack) : (s.setStack k x).keys = s.keys := rfl
@[simp] theorem State.setStack_mgmt (k : Nat) (x : Stack) : (s.setStack k x).mgmt = s.mgmt := rfl
@[simp] theorem State.setStack_launches (k : Nat) (x : Stack) : (s.setStack k x).launches = s.launches := rfl
@[simp] theorem State.setStack_nLaunch (k : Nat) (x : Stack) : (s.setStack k x).nLaunch = s.nLaunch := rfl
@[simp] theorem State.setStack_dies (k : Nat) (x : Stack) : (s.setStack k x).dies = s.dies := rfl

/-! ### `setQueue` -/

@[simp] theorem State.setQueue_cur (q : Nat) (x : Queue) : (s.setQueue q x).cur = s.cur := rfl
@[simp] theorem State.setQueue_agenda (q : Nat) (x : Queue) : (s.setQueue q x).agenda = s.agenda := rfl
@[simp] theorem State.setQueue_inputs (q : Nat) (x : Queue) : (s.setQueue q x).inputs = s.inputs := rfl
@[simp] theorem State.setQueue_freeCtr (q : Nat) (x : Queue) : (s.setQueue q x).freeCtr = s.freeCtr := rfl
@[simp] theorem State.setQueue_hostData (q : Nat) (x : Queue) : (s.setQueue q x).hostData = s.hostData := rfl
@[simp] theorem State.setQueue_cycle (q : Nat) (x : Queue) : (s.setQueue q x).cycle = s.cycle := rfl
@[simp] theorem State.setQueue_mem (q : Nat) (x : Queue) : (s.setQueue q x).mem = s.mem := rfl
@[simp] theorem State.setQueue_poison (q : Nat) (x : Queue) : (s.setQueue q x).poison = s.poison := rfl
@[simp] theorem State.setQueue_stale (q : Nat) (x : Queue) : (s.setQueue q x).stale = s.stale := rfl
@[simp] theorem State.setQueue_keyTag (q : Nat) (x : Queue) : (s.setQueue q x).keyTag = s.keyTag := rfl
@[simp] theorem State.setQueue_keys (q : Nat) (x : Queue) : (s.setQueue q x).keys = s.keys := rfl
@[simp] theorem State.setQueue_launches (q : Nat) (x : Queue) : (s.setQueue q x).launches = s.launches := rfl
@[simp] theorem State.setQueue_nLaunch (q : Nat) (x : Queue) : (s.setQueue q x).nLaunch = s.nLaunch := rfl
@[simp] theorem State.setQueue_dies (q : Nat) (x : Queue) : (s.setQueue q x).dies = s.dies := rfl
@[simp] theorem State.setQueue_stackTab (q : Nat) (x : Queue) : (s.setQueue q x).stackTab = s.stackTab := rfl

/-! ### `setCore` -/

@[simp] theorem State.setCore_cur (d : Nat) (x : Core) : (s.setCore d x).cur = s.cur := rfl
@[simp] theorem State.setCore_agenda (d : Nat) (x : Core) : (s.setCore d x).agenda = s.agenda := rfl
@[simp] theorem State.setCore_inputs (d : Nat) (x : Core) : (s.setCore d x).inputs = s.inputs := rfl
@[simp] theorem State.setCore_freeCtr (d : Nat) (x : Core) : (s.setCore d x).freeCtr = s.freeCtr := rfl
@[simp] theorem State.setCore_hostData (d : Nat) (x : Core) : (s.setCore d x).hostData = s.hostData := rfl
@[simp] theorem State.setCore_cycle (d : Nat) (x : Core) : (s.setCore d x).cycle = s.cycle := rfl
@[simp] theorem State.setCore_mem (d : Nat) (x : Core) : (s.setCore d x).mem = s.mem := rfl
@[simp] theorem State.setCore_poison (d : Nat) (x : Core) : (s.setCore d x).poison = s.poison := rfl
@[simp] theorem State.setCore_stale (d : Nat) (x : Core) : (s.setCore d x).stale = s.stale := rfl
@[simp] theorem State.setCore_keyTag (d : Nat) (x : Core) : (s.setCore d x).keyTag = s.keyTag := rfl
@[simp] theorem State.setCore_keys (d : Nat) (x : Core) : (s.setCore d x).keys = s.keys := rfl
@[simp] theorem State.setCore_mgmt (d : Nat) (x : Core) : (s.setCore d x).mgmt = s.mgmt := rfl
@[simp] theorem State.setCore_launches (d : Nat) (x : Core) : (s.setCore d x).launches = s.launches := rfl
@[simp] theorem State.setCore_nLaunch (d : Nat) (x : Core) : (s.setCore d x).nLaunch = s.nLaunch := rfl
@[simp] theorem State.setCore_stackTab (d : Nat) (x : Core) : (s.setCore d x).stackTab = s.stackTab := rfl

/-! ### `setRegion` -/

@[simp] theorem State.setRegion_cur (d r : Nat) (x : Region) : (s.setRegion d r x).cur = s.cur := rfl
@[simp] theorem State.setRegion_agenda (d r : Nat) (x : Region) : (s.setRegion d r x).agenda = s.agenda := rfl
@[simp] theorem State.setRegion_inputs (d r : Nat) (x : Region) : (s.setRegion d r x).inputs = s.inputs := rfl
@[simp] theorem State.setRegion_freeCtr (d r : Nat) (x : Region) : (s.setRegion d r x).freeCtr = s.freeCtr := rfl
@[simp] theorem State.setRegion_hostData (d r : Nat) (x : Region) : (s.setRegion d r x).hostData = s.hostData := rfl
@[simp] theorem State.setRegion_cycle (d r : Nat) (x : Region) : (s.setRegion d r x).cycle = s.cycle := rfl
@[simp] theorem State.setRegion_mem (d r : Nat) (x : Region) : (s.setRegion d r x).mem = s.mem := rfl
@[simp] theorem State.setRegion_poison (d r : Nat) (x : Region) : (s.setRegion d r x).poison = s.poison := rfl
@[simp] theorem State.setRegion_stale (d r : Nat) (x : Region) : (s.setRegion d r x).stale = s.stale := rfl
@[simp] theorem State.setRegion_keyTag (d r : Nat) (x : Region) : (s.setRegion d r x).keyTag = s.keyTag := rfl
@[simp] theorem State.setRegion_keys (d r : Nat) (x : Region) : (s.setRegion d r x).keys = s.keys := rfl
@[simp] theorem State.setRegion_mgmt (d r : Nat) (x : Region) : (s.setRegion d r x).mgmt = s.mgmt := rfl
@[simp] theorem State.setRegion_launches (d r : Nat) (x : Region) : (s.setRegion d r x).launches = s.launches := rfl
@[simp] theorem State.setRegion_nLaunch (d r : Nat) (x : Region) : (s.setRegion d r x).nLaunch = s.nLaunch := rfl
@[simp] theorem State.setRegion_stackTab (d r : Nat) (x : Region) : (s.setRegion d r x).stackTab = s.stackTab := rfl

/-! ### `setCe` -/

@[simp] theorem State.setCe_cur (d r sl : Nat) (x : Ce) : (s.setCe d r sl x).cur = s.cur := rfl
@[simp] theorem State.setCe_agenda (d r sl : Nat) (x : Ce) : (s.setCe d r sl x).agenda = s.agenda := rfl
@[simp] theorem State.setCe_inputs (d r sl : Nat) (x : Ce) : (s.setCe d r sl x).inputs = s.inputs := rfl
@[simp] theorem State.setCe_freeCtr (d r sl : Nat) (x : Ce) : (s.setCe d r sl x).freeCtr = s.freeCtr := rfl
@[simp] theorem State.setCe_hostData (d r sl : Nat) (x : Ce) : (s.setCe d r sl x).hostData = s.hostData := rfl
@[simp] theorem State.setCe_cycle (d r sl : Nat) (x : Ce) : (s.setCe d r sl x).cycle = s.cycle := rfl
@[simp] theorem State.setCe_mem (d r sl : Nat) (x : Ce) : (s.setCe d r sl x).mem = s.mem := rfl
@[simp] theorem State.setCe_poison (d r sl : Nat) (x : Ce) : (s.setCe d r sl x).poison = s.poison := rfl
@[simp] theorem State.setCe_stale (d r sl : Nat) (x : Ce) : (s.setCe d r sl x).stale = s.stale := rfl
@[simp] theorem State.setCe_keyTag (d r sl : Nat) (x : Ce) : (s.setCe d r sl x).keyTag = s.keyTag := rfl
@[simp] theorem State.setCe_keys (d r sl : Nat) (x : Ce) : (s.setCe d r sl x).keys = s.keys := rfl
@[simp] theorem State.setCe_mgmt (d r sl : Nat) (x : Ce) : (s.setCe d r sl x).mgmt = s.mgmt := rfl
@[simp] theorem State.setCe_launches (d r sl : Nat) (x : Ce) : (s.setCe d r sl x).launches = s.launches := rfl
@[simp] theorem State.setCe_nLaunch (d r sl : Nat) (x : Ce) : (s.setCe d r sl x).nLaunch = s.nLaunch := rfl
@[simp] theorem State.setCe_stackTab (d r sl : Nat) (x : Ce) : (s.setCe d r sl x).stackTab = s.stackTab := rfl

/-! ### `setMn` -/

@[simp] theorem State.setMn_cur (d r sl : Nat) (x : Mn) : (s.setMn d r sl x).cur = s.cur := rfl
@[simp] theorem State.setMn_agenda (d r sl : Nat) (x : Mn) : (s.setMn d r sl x).agenda = s.agenda := rfl
@[simp] theorem State.setMn_inputs (d r sl : Nat) (x : Mn) : (s.setMn d r sl x).inputs = s.inputs := rfl
@[simp] theorem State.setMn_freeCtr (d r sl : Nat) (x : Mn) : (s.setMn d r sl x).freeCtr = s.freeCtr := rfl
@[simp] theorem State.setMn_hostData (d r sl : Nat) (x : Mn) : (s.setMn d r sl x).hostData = s.hostData := rfl
@[simp] theorem State.setMn_cycle (d r sl : Nat) (x : Mn) : (s.setMn d r sl x).cycle = s.cycle := rfl
@[simp] theorem State.setMn_mem (d r sl : Nat) (x : Mn) : (s.setMn d r sl x).mem = s.mem := rfl
@[simp] theorem State.setMn_poison (d r sl : Nat) (x : Mn) : (s.setMn d r sl x).poison = s.poison := rfl
@[simp] theorem State.setMn_stale (d r sl : Nat) (x : Mn) : (s.setMn d r sl x).stale = s.stale := rfl
@[simp] theorem State.setMn_keyTag (d r sl : Nat) (x : Mn) : (s.setMn d r sl x).keyTag = s.keyTag := rfl
@[simp] theorem State.setMn_keys (d r sl : Nat) (x : Mn) : (s.setMn d r sl x).keys = s.keys := rfl
@[simp] theorem State.setMn_mgmt (d r sl : Nat) (x : Mn) : (s.setMn d r sl x).mgmt = s.mgmt := rfl
@[simp] theorem State.setMn_launches (d r sl : Nat) (x : Mn) : (s.setMn d r sl x).launches = s.launches := rfl
@[simp] theorem State.setMn_nLaunch (d r sl : Nat) (x : Mn) : (s.setMn d r sl x).nLaunch = s.nLaunch := rfl
@[simp] theorem State.setMn_stackTab (d r sl : Nat) (x : Mn) : (s.setMn d r sl x).stackTab = s.stackTab := rfl

/-! ### `setXn` -/

@[simp] theorem State.setXn_cur (d r sl : Nat) (x : Xn) : (s.setXn d r sl x).cur = s.cur := rfl
@[simp] theorem State.setXn_agenda (d r sl : Nat) (x : Xn) : (s.setXn d r sl x).agenda = s.agenda := rfl
@[simp] theorem State.setXn_inputs (d r sl : Nat) (x : Xn) : (s.setXn d r sl x).inputs = s.inputs := rfl
@[simp] theorem State.setXn_freeCtr (d r sl : Nat) (x : Xn) : (s.setXn d r sl x).freeCtr = s.freeCtr := rfl
@[simp] theorem State.setXn_hostData (d r sl : Nat) (x : Xn) : (s.setXn d r sl x).hostData = s.hostData := rfl
@[simp] theorem State.setXn_cycle (d r sl : Nat) (x : Xn) : (s.setXn d r sl x).cycle = s.cycle := rfl
@[simp] theorem State.setXn_mem (d r sl : Nat) (x : Xn) : (s.setXn d r sl x).mem = s.mem := rfl
@[simp] theorem State.setXn_poison (d r sl : Nat) (x : Xn) : (s.setXn d r sl x).poison = s.poison := rfl
@[simp] theorem State.setXn_stale (d r sl : Nat) (x : Xn) : (s.setXn d r sl x).stale = s.stale := rfl
@[simp] theorem State.setXn_keyTag (d r sl : Nat) (x : Xn) : (s.setXn d r sl x).keyTag = s.keyTag := rfl
@[simp] theorem State.setXn_keys (d r sl : Nat) (x : Xn) : (s.setXn d r sl x).keys = s.keys := rfl
@[simp] theorem State.setXn_mgmt (d r sl : Nat) (x : Xn) : (s.setXn d r sl x).mgmt = s.mgmt := rfl
@[simp] theorem State.setXn_launches (d r sl : Nat) (x : Xn) : (s.setXn d r sl x).launches = s.launches := rfl
@[simp] theorem State.setXn_nLaunch (d r sl : Nat) (x : Xn) : (s.setXn d r sl x).nLaunch = s.nLaunch := rfl
@[simp] theorem State.setXn_stackTab (d r sl : Nat) (x : Xn) : (s.setXn d r sl x).stackTab = s.stackTab := rfl

/-! ### `setByte` -/

@[simp] theorem State.setByte_cur (k : Nat) (b : Byte) : (s.setByte k b).cur = s.cur := rfl
@[simp] theorem State.setByte_agenda (k : Nat) (b : Byte) : (s.setByte k b).agenda = s.agenda := rfl
@[simp] theorem State.setByte_inputs (k : Nat) (b : Byte) : (s.setByte k b).inputs = s.inputs := rfl
@[simp] theorem State.setByte_freeCtr (k : Nat) (b : Byte) : (s.setByte k b).freeCtr = s.freeCtr := rfl
@[simp] theorem State.setByte_hostData (k : Nat) (b : Byte) : (s.setByte k b).hostData = s.hostData := rfl
@[simp] theorem State.setByte_cycle (k : Nat) (b : Byte) : (s.setByte k b).cycle = s.cycle := rfl
@[simp] theorem State.setByte_poison (k : Nat) (b : Byte) : (s.setByte k b).poison = s.poison := rfl
@[simp] theorem State.setByte_stale (k : Nat) (b : Byte) : (s.setByte k b).stale = s.stale := rfl
@[simp] theorem State.setByte_keyTag (k : Nat) (b : Byte) : (s.setByte k b).keyTag = s.keyTag := rfl
@[simp] theorem State.setByte_keys (k : Nat) (b : Byte) : (s.setByte k b).keys = s.keys := rfl
@[simp] theorem State.setByte_mgmt (k : Nat) (b : Byte) : (s.setByte k b).mgmt = s.mgmt := rfl
@[simp] theorem State.setByte_launches (k : Nat) (b : Byte) : (s.setByte k b).launches = s.launches := rfl
@[simp] theorem State.setByte_nLaunch (k : Nat) (b : Byte) : (s.setByte k b).nLaunch = s.nLaunch := rfl
@[simp] theorem State.setByte_dies (k : Nat) (b : Byte) : (s.setByte k b).dies = s.dies := rfl
@[simp] theorem State.setByte_stackTab (k : Nat) (b : Byte) : (s.setByte k b).stackTab = s.stackTab := rfl

/-! ### `setCc` -/

@[simp] theorem State.setCc_cur (x : Core) : (s.setCc x).cur = s.cur := rfl
@[simp] theorem State.setCc_agenda (x : Core) : (s.setCc x).agenda = s.agenda := rfl
@[simp] theorem State.setCc_inputs (x : Core) : (s.setCc x).inputs = s.inputs := rfl
@[simp] theorem State.setCc_freeCtr (x : Core) : (s.setCc x).freeCtr = s.freeCtr := rfl
@[simp] theorem State.setCc_hostData (x : Core) : (s.setCc x).hostData = s.hostData := rfl
@[simp] theorem State.setCc_cycle (x : Core) : (s.setCc x).cycle = s.cycle := rfl
@[simp] theorem State.setCc_mem (x : Core) : (s.setCc x).mem = s.mem := rfl
@[simp] theorem State.setCc_poison (x : Core) : (s.setCc x).poison = s.poison := rfl
@[simp] theorem State.setCc_stale (x : Core) : (s.setCc x).stale = s.stale := rfl
@[simp] theorem State.setCc_keyTag (x : Core) : (s.setCc x).keyTag = s.keyTag := rfl
@[simp] theorem State.setCc_keys (x : Core) : (s.setCc x).keys = s.keys := rfl
@[simp] theorem State.setCc_mgmt (x : Core) : (s.setCc x).mgmt = s.mgmt := rfl
@[simp] theorem State.setCc_launches (x : Core) : (s.setCc x).launches = s.launches := rfl
@[simp] theorem State.setCc_nLaunch (x : Core) : (s.setCc x).nLaunch = s.nLaunch := rfl
@[simp] theorem State.setCc_stackTab (x : Core) : (s.setCc x).stackTab = s.stackTab := rfl

/-! ### `adv` -/

@[simp] theorem State.adv_cur (n : Nat) : (s.adv n).cur = s.cur := rfl
@[simp] theorem State.adv_agenda (n : Nat) : (s.adv n).agenda = s.agenda := rfl
@[simp] theorem State.adv_inputs (n : Nat) : (s.adv n).inputs = s.inputs := rfl
@[simp] theorem State.adv_freeCtr (n : Nat) : (s.adv n).freeCtr = s.freeCtr := rfl
@[simp] theorem State.adv_hostData (n : Nat) : (s.adv n).hostData = s.hostData := rfl
@[simp] theorem State.adv_cycle (n : Nat) : (s.adv n).cycle = s.cycle := rfl
@[simp] theorem State.adv_mem (n : Nat) : (s.adv n).mem = s.mem := rfl
@[simp] theorem State.adv_poison (n : Nat) : (s.adv n).poison = s.poison := rfl
@[simp] theorem State.adv_stale (n : Nat) : (s.adv n).stale = s.stale := rfl
@[simp] theorem State.adv_keyTag (n : Nat) : (s.adv n).keyTag = s.keyTag := rfl
@[simp] theorem State.adv_keys (n : Nat) : (s.adv n).keys = s.keys := rfl
@[simp] theorem State.adv_mgmt (n : Nat) : (s.adv n).mgmt = s.mgmt := rfl
@[simp] theorem State.adv_launches (n : Nat) : (s.adv n).launches = s.launches := rfl
@[simp] theorem State.adv_nLaunch (n : Nat) : (s.adv n).nLaunch = s.nLaunch := rfl
@[simp] theorem State.adv_stackTab (n : Nat) : (s.adv n).stackTab = s.stackTab := rfl

/-! ### `ret` -/

@[simp] theorem State.ret_cur (d : BitVec 6) (v : Word) : (s.ret d v).cur = s.cur := rfl
@[simp] theorem State.ret_agenda (d : BitVec 6) (v : Word) : (s.ret d v).agenda = s.agenda := rfl
@[simp] theorem State.ret_inputs (d : BitVec 6) (v : Word) : (s.ret d v).inputs = s.inputs := rfl
@[simp] theorem State.ret_freeCtr (d : BitVec 6) (v : Word) : (s.ret d v).freeCtr = s.freeCtr := rfl
@[simp] theorem State.ret_hostData (d : BitVec 6) (v : Word) : (s.ret d v).hostData = s.hostData := rfl
@[simp] theorem State.ret_cycle (d : BitVec 6) (v : Word) : (s.ret d v).cycle = s.cycle := rfl
@[simp] theorem State.ret_mem (d : BitVec 6) (v : Word) : (s.ret d v).mem = s.mem := rfl
@[simp] theorem State.ret_poison (d : BitVec 6) (v : Word) : (s.ret d v).poison = s.poison := rfl
@[simp] theorem State.ret_stale (d : BitVec 6) (v : Word) : (s.ret d v).stale = s.stale := rfl
@[simp] theorem State.ret_keyTag (d : BitVec 6) (v : Word) : (s.ret d v).keyTag = s.keyTag := rfl
@[simp] theorem State.ret_keys (d : BitVec 6) (v : Word) : (s.ret d v).keys = s.keys := rfl
@[simp] theorem State.ret_mgmt (d : BitVec 6) (v : Word) : (s.ret d v).mgmt = s.mgmt := rfl
@[simp] theorem State.ret_launches (d : BitVec 6) (v : Word) : (s.ret d v).launches = s.launches := rfl
@[simp] theorem State.ret_nLaunch (d : BitVec 6) (v : Word) : (s.ret d v).nLaunch = s.nLaunch := rfl
@[simp] theorem State.ret_stackTab (d : BitVec 6) (v : Word) : (s.ret d v).stackTab = s.stackTab := rfl

/-! ### `jump` -/

@[simp] theorem State.jump_cur (a : Word) : (s.jump a).cur = s.cur := rfl
@[simp] theorem State.jump_agenda (a : Word) : (s.jump a).agenda = s.agenda := rfl
@[simp] theorem State.jump_inputs (a : Word) : (s.jump a).inputs = s.inputs := rfl
@[simp] theorem State.jump_freeCtr (a : Word) : (s.jump a).freeCtr = s.freeCtr := rfl
@[simp] theorem State.jump_hostData (a : Word) : (s.jump a).hostData = s.hostData := rfl
@[simp] theorem State.jump_cycle (a : Word) : (s.jump a).cycle = s.cycle := rfl
@[simp] theorem State.jump_mem (a : Word) : (s.jump a).mem = s.mem := rfl
@[simp] theorem State.jump_poison (a : Word) : (s.jump a).poison = s.poison := rfl
@[simp] theorem State.jump_stale (a : Word) : (s.jump a).stale = s.stale := rfl
@[simp] theorem State.jump_keyTag (a : Word) : (s.jump a).keyTag = s.keyTag := rfl
@[simp] theorem State.jump_keys (a : Word) : (s.jump a).keys = s.keys := rfl
@[simp] theorem State.jump_mgmt (a : Word) : (s.jump a).mgmt = s.mgmt := rfl
@[simp] theorem State.jump_launches (a : Word) : (s.jump a).launches = s.launches := rfl
@[simp] theorem State.jump_nLaunch (a : Word) : (s.jump a).nLaunch = s.nLaunch := rfl
@[simp] theorem State.jump_stackTab (a : Word) : (s.jump a).stackTab = s.stackTab := rfl

/-! ### Parts read after a write -/

@[simp] theorem State.die_setDie (d e : Nat) (x : Die) : (s.setDie d x).die e = if e = d then x else s.die e :=
  tget_tset ({} : Die) s.dies d e x

theorem State.die_setDie_same (d : Nat) (x : Die) : (s.setDie d x).die d = x := by simp

theorem State.die_setDie_ne {d e : Nat} (x : Die) (h : e ≠ d) : (s.setDie d x).die e = s.die e := by simp [h]

@[simp] theorem State.launch_setLaunch (l m : Nat) (x : Launch) :
    (s.setLaunch l x).launch m = if m = l then x else s.launch m := tget_tset ({} : Launch) s.launches l m x

@[simp] theorem State.stack_setStack (k m : Nat) (x : Stack) :
    (s.setStack k x).stack m = if m = k then x else s.stack m := tget_tset ({} : Stack) s.stackTab k m x

@[simp] theorem State.queue_setQueue (q m : Nat) (x : Queue) :
    (s.setQueue q x).queue m = if m = q then x else s.queue m := tget_tset ({} : Queue) s.mgmt.queues q m x

@[simp] theorem State.core_setCore (d e : Nat) (x : Core) : (s.setCore d x).core e = if e = d then x else s.core e := by
  unfold State.setCore State.core
  rw [State.die_setDie]
  split <;> rfl

@[simp] theorem State.core_setDie (d e : Nat) (x : Die) :
    (s.setDie d x).core e = if e = d then x.core else s.core e := by
  unfold State.core
  rw [State.die_setDie]
  split <;> rfl

@[simp] theorem State.region_setDie (d e r : Nat) (x : Die) :
    (s.setDie d x).region e r = if e = d then tget {} x.regs r else s.region e r := by
  unfold State.region
  rw [State.die_setDie]
  split <;> rfl

theorem State.region_setRegion (d e r q : Nat) (x : Region) :
    (s.setRegion d r x).region e q = if e = d ∧ q = r then x else s.region e q := by
  unfold State.setRegion State.region
  rw [State.die_setDie]
  by_cases h : e = d
  · subst h; simp only [if_true, true_and]; exact tget_tset ({} : Region) _ r q x
  · simp [h]

@[simp] theorem State.region_setRegion_same (d r : Nat) (x : Region) : (s.setRegion d r x).region d r = x := by
  rw [State.region_setRegion]; simp

@[simp] theorem State.byte_setByte (k m : Nat) (b : Byte) :
    (s.setByte k b).byte m = if m = k then b else s.byte m := tget_tset 0 s.mem k m b

@[simp] theorem State.byte_setDie (d : Nat) (x : Die) (b : Nat) : (s.setDie d x).byte b = s.byte b := rfl
@[simp] theorem State.byte_setLaunch (l : Nat) (x : Launch) (b : Nat) : (s.setLaunch l x).byte b = s.byte b := rfl
@[simp] theorem State.byte_setStack (k : Nat) (x : Stack) (b : Nat) : (s.setStack k x).byte b = s.byte b := rfl
@[simp] theorem State.byte_setCore (d : Nat) (x : Core) (b : Nat) : (s.setCore d x).byte b = s.byte b := rfl
@[simp] theorem State.byte_setRegion (d r : Nat) (x : Region) (b : Nat) : (s.setRegion d r x).byte b = s.byte b := rfl
@[simp] theorem State.byte_setCe (d r sl : Nat) (x : Ce) (b : Nat) : (s.setCe d r sl x).byte b = s.byte b := rfl
@[simp] theorem State.byte_setMn (d r sl : Nat) (x : Mn) (b : Nat) : (s.setMn d r sl x).byte b = s.byte b := rfl
@[simp] theorem State.byte_setXn (d r sl : Nat) (x : Xn) (b : Nat) : (s.setXn d r sl x).byte b = s.byte b := rfl
@[simp] theorem State.byte_setCc (x : Core) (b : Nat) : (s.setCc x).byte b = s.byte b := rfl
@[simp] theorem State.byte_adv (n : Nat) (b : Nat) : (s.adv n).byte b = s.byte b := rfl
@[simp] theorem State.byte_ret (d : BitVec 6) (v : Word) (b : Nat) : (s.ret d v).byte b = s.byte b := rfl
@[simp] theorem State.byte_jump (a : Word) (b : Nat) : (s.jump a).byte b = s.byte b := rfl
@[simp] theorem State.byte_setQueue (q : Nat) (x : Queue) (b : Nat) : (s.setQueue q x).byte b = s.byte b := rfl

@[simp] theorem State.die_setLaunch (l : Nat) (x : Launch) (e : Nat) : (s.setLaunch l x).die e = s.die e := rfl
@[simp] theorem State.die_setStack (k : Nat) (x : Stack) (e : Nat) : (s.setStack k x).die e = s.die e := rfl
@[simp] theorem State.die_setByte (k : Nat) (b : Byte) (e : Nat) : (s.setByte k b).die e = s.die e := rfl
@[simp] theorem State.die_setQueue (q : Nat) (x : Queue) (e : Nat) : (s.setQueue q x).die e = s.die e := rfl

@[simp] theorem State.launch_setDie (d : Nat) (x : Die) (j : Nat) : (s.setDie d x).launch j = s.launch j := rfl
@[simp] theorem State.launch_setStack (k : Nat) (x : Stack) (j : Nat) : (s.setStack k x).launch j = s.launch j := rfl
@[simp] theorem State.launch_setCore (d : Nat) (x : Core) (j : Nat) : (s.setCore d x).launch j = s.launch j := rfl
@[simp] theorem State.launch_setRegion (d r : Nat) (x : Region) (j : Nat) : (s.setRegion d r x).launch j = s.launch j := rfl
@[simp] theorem State.launch_setCe (d r sl : Nat) (x : Ce) (j : Nat) : (s.setCe d r sl x).launch j = s.launch j := rfl
@[simp] theorem State.launch_setMn (d r sl : Nat) (x : Mn) (j : Nat) : (s.setMn d r sl x).launch j = s.launch j := rfl
@[simp] theorem State.launch_setXn (d r sl : Nat) (x : Xn) (j : Nat) : (s.setXn d r sl x).launch j = s.launch j := rfl
@[simp] theorem State.launch_setCc (x : Core) (j : Nat) : (s.setCc x).launch j = s.launch j := rfl
@[simp] theorem State.launch_adv (n : Nat) (j : Nat) : (s.adv n).launch j = s.launch j := rfl
@[simp] theorem State.launch_ret (d : BitVec 6) (v : Word) (j : Nat) : (s.ret d v).launch j = s.launch j := rfl
@[simp] theorem State.launch_jump (a : Word) (j : Nat) : (s.jump a).launch j = s.launch j := rfl
@[simp] theorem State.launch_setQueue (q : Nat) (x : Queue) (j : Nat) : (s.setQueue q x).launch j = s.launch j := rfl
@[simp] theorem State.stack_setDie (d : Nat) (x : Die) (j : Nat) : (s.setDie d x).stack j = s.stack j := rfl
@[simp] theorem State.stack_setLaunch (l : Nat) (x : Launch) (j : Nat) : (s.setLaunch l x).stack j = s.stack j := rfl
@[simp] theorem State.stack_setCore (d : Nat) (x : Core) (j : Nat) : (s.setCore d x).stack j = s.stack j := rfl
@[simp] theorem State.stack_setRegion (d r : Nat) (x : Region) (j : Nat) : (s.setRegion d r x).stack j = s.stack j := rfl
@[simp] theorem State.stack_setCe (d r sl : Nat) (x : Ce) (j : Nat) : (s.setCe d r sl x).stack j = s.stack j := rfl
@[simp] theorem State.stack_setMn (d r sl : Nat) (x : Mn) (j : Nat) : (s.setMn d r sl x).stack j = s.stack j := rfl
@[simp] theorem State.stack_setXn (d r sl : Nat) (x : Xn) (j : Nat) : (s.setXn d r sl x).stack j = s.stack j := rfl
@[simp] theorem State.stack_setCc (x : Core) (j : Nat) : (s.setCc x).stack j = s.stack j := rfl
@[simp] theorem State.stack_adv (n : Nat) (j : Nat) : (s.adv n).stack j = s.stack j := rfl
@[simp] theorem State.stack_ret (d : BitVec 6) (v : Word) (j : Nat) : (s.ret d v).stack j = s.stack j := rfl
@[simp] theorem State.stack_jump (a : Word) (j : Nat) : (s.jump a).stack j = s.stack j := rfl
@[simp] theorem State.stack_setQueue (q : Nat) (x : Queue) (j : Nat) : (s.setQueue q x).stack j = s.stack j := rfl
@[simp] theorem State.queue_setDie (d : Nat) (x : Die) (j : Nat) : (s.setDie d x).queue j = s.queue j := rfl
@[simp] theorem State.queue_setLaunch (l : Nat) (x : Launch) (j : Nat) : (s.setLaunch l x).queue j = s.queue j := rfl
@[simp] theorem State.queue_setStack (k : Nat) (x : Stack) (j : Nat) : (s.setStack k x).queue j = s.queue j := rfl
@[simp] theorem State.queue_setCore (d : Nat) (x : Core) (j : Nat) : (s.setCore d x).queue j = s.queue j := rfl
@[simp] theorem State.queue_setRegion (d r : Nat) (x : Region) (j : Nat) : (s.setRegion d r x).queue j = s.queue j := rfl
@[simp] theorem State.queue_setCe (d r sl : Nat) (x : Ce) (j : Nat) : (s.setCe d r sl x).queue j = s.queue j := rfl
@[simp] theorem State.queue_setMn (d r sl : Nat) (x : Mn) (j : Nat) : (s.setMn d r sl x).queue j = s.queue j := rfl
@[simp] theorem State.queue_setXn (d r sl : Nat) (x : Xn) (j : Nat) : (s.setXn d r sl x).queue j = s.queue j := rfl
@[simp] theorem State.queue_setCc (x : Core) (j : Nat) : (s.setCc x).queue j = s.queue j := rfl
@[simp] theorem State.queue_adv (n : Nat) (j : Nat) : (s.adv n).queue j = s.queue j := rfl
@[simp] theorem State.queue_ret (d : BitVec 6) (v : Word) (j : Nat) : (s.ret d v).queue j = s.queue j := rfl
@[simp] theorem State.queue_jump (a : Word) (j : Nat) : (s.jump a).queue j = s.queue j := rfl

/-! ### The executing core -/

@[simp] theorem State.setCc_cdie (x : Core) : (s.setCc x).cdie = s.cdie := rfl
@[simp] theorem State.ret_cdie (d : BitVec 6) (v : Word) : (s.ret d v).cdie = s.cdie := rfl
@[simp] theorem State.adv_cdie (n : Nat) : (s.adv n).cdie = s.cdie := rfl
@[simp] theorem State.cc_setCc (x : Core) : (s.setCc x).cc = x := by
  unfold State.setCc State.cc; simp [State.cdie]
@[simp] theorem State.cc_adv (n : Nat) : (s.adv n).cc = { s.cc with pc := s.cc.pc + BitVec.ofNat 64 n } := State.cc_setCc s _
@[simp] theorem State.cc_jump (a : Word) : (s.jump a).cc = { s.cc with pc := a } := State.cc_setCc s _
@[simp] theorem State.cc_ret (d : BitVec 6) (v : Word) :
    (s.ret d v).cc = { s.cc.set d v with pc := s.cc.pc + 4 } := by unfold State.ret; simp [Core.set]

/-- Writing the core of the executing die leaves every other die as it is. -/
theorem State.die_setCc_ne (x : Core) {e : Nat} (h : e ≠ s.cdie) : (s.setCc x).die e = s.die e := by
  unfold State.setCc State.setCore; simp [h]

theorem State.die_setCc (x : Core) : (s.setCc x).die s.cdie = { s.die s.cdie with core := x } := by
  unfold State.setCc State.setCore; simp

/-- A second write of a part forgets the first. -/
@[simp] theorem State.setDie_setDie (d : Nat) (x y : Die) : (s.setDie d x).setDie d y = s.setDie d y := by
  simp [State.setDie]

@[simp] theorem State.setCc_setCc (x y : Core) : (s.setCc x).setCc y = s.setCc y := by
  simp [State.setCc, State.setCore, State.cdie]

@[simp] theorem State.setStack_setStack (k : Nat) (x y : Stack) : (s.setStack k x).setStack k y = s.setStack k y := by
  simp [State.setStack]

@[simp] theorem State.setLaunch_setLaunch (l : Nat) (x y : Launch) : (s.setLaunch l x).setLaunch l y = s.setLaunch l y := by
  simp [State.setLaunch]

/-! ### Registers of a core -/

variable (c : Core)

@[simp] theorem Core.set_p (r : BitVec 6) (v : Word) : (c.set r v).p = c.p := rfl
@[simp] theorem Core.set_pc (r : BitVec 6) (v : Word) : (c.set r v).pc = c.pc := rfl
@[simp] theorem Core.set_smode (r : BitVec 6) (v : Word) : (c.set r v).smode = c.smode := rfl
@[simp] theorem Core.set_trapc (r : BitVec 6) (v : Word) : (c.set r v).trapc = c.trapc := rfl
@[simp] theorem Core.set_trappc (r : BitVec 6) (v : Word) : (c.set r v).trappc = c.trappc := rfl
@[simp] theorem Core.set_trapval (r : BitVec 6) (v : Word) : (c.set r v).trapval = c.trapval := rfl
@[simp] theorem Core.set_htab (r : BitVec 6) (v : Word) : (c.set r v).htab = c.htab := rfl
@[simp] theorem Core.set_ptbase (r : BitVec 6) (v : Word) : (c.set r v).ptbase = c.ptbase := rfl
@[simp] theorem Core.set_diex (r : BitVec 6) (v : Word) : (c.set r v).diex = c.diex := rfl
@[simp] theorem Core.set_diey (r : BitVec 6) (v : Word) : (c.set r v).diey = c.diey := rfl
@[simp] theorem Core.set_dien (r : BitVec 6) (v : Word) : (c.set r v).dien = c.dien := rfl
@[simp] theorem Core.set_running (r : BitVec 6) (v : Word) : (c.set r v).running = c.running := rfl
@[simp] theorem Core.set_halted (r : BitVec 6) (v : Word) : (c.set r v).halted = c.halted := rfl
@[simp] theorem Core.set_wait (r : BitVec 6) (v : Word) : (c.set r v).wait = c.wait := rfl
@[simp] theorem Core.set_evq (r : BitVec 6) (v : Word) : (c.set r v).evq = c.evq := rfl
@[simp] theorem Core.set_tokIn (r : BitVec 6) (v : Word) : (c.set r v).tokIn = c.tokIn := rfl
@[simp] theorem Core.set_slots (r : BitVec 6) (v : Word) : (c.set r v).slots = c.slots := rfl
@[simp] theorem Core.set_pbars (r : BitVec 6) (v : Word) : (c.set r v).pbars = c.pbars := rfl
@[simp] theorem Core.set_colls (r : BitVec 6) (v : Word) : (c.set r v).colls = c.colls := rfl
@[simp] theorem Core.set_collArgs (r : BitVec 6) (v : Word) : (c.set r v).collArgs = c.collArgs := rfl
@[simp] theorem Core.set_cfgl (r : BitVec 6) (v : Word) : (c.set r v).cfgl = c.cfgl := rfl
@[simp] theorem Core.set_dcache (r : BitVec 6) (v : Word) : (c.set r v).dcache = c.dcache := rfl
@[simp] theorem Core.set_ccache (r : BitVec 6) (v : Word) : (c.set r v).ccache = c.ccache := rfl
@[simp] theorem Core.set_stq (r : BitVec 6) (v : Word) : (c.set r v).stq = c.stq := rfl
@[simp] theorem Core.set_stSeq (r : BitVec 6) (v : Word) : (c.set r v).stSeq = c.stSeq := rfl
@[simp] theorem Core.set_fences (r : BitVec 6) (v : Word) : (c.set r v).fences = c.fences := rfl
@[simp] theorem Core.set_deferred (r : BitVec 6) (v : Word) : (c.set r v).deferred = c.deferred := rfl
@[simp] theorem Core.set_stallAt (r : BitVec 6) (v : Word) : (c.set r v).stallAt = c.stallAt := rfl

@[simp] theorem Core.get_set (r q : BitVec 6) (v : Word) : (c.set r v).get q = if q = r then v else c.get q := by
  unfold Core.set Core.get
  simp only [Vector.getElem_set]
  by_cases h : q = r
  · simp [h]
  · rw [if_neg h, if_neg (fun e => h (BitVec.eq_of_toNat_eq e.symm))]

@[simp] theorem Core.setPred_a (n : BitVec 3) (v : Bool) : (c.setPred n v).a = c.a := by unfold Core.setPred; split <;> rfl
@[simp] theorem Core.setPred_pc (n : BitVec 3) (v : Bool) : (c.setPred n v).pc = c.pc := by unfold Core.setPred; split <;> rfl
@[simp] theorem Core.setPred_smode (n : BitVec 3) (v : Bool) : (c.setPred n v).smode = c.smode := by unfold Core.setPred; split <;> rfl
@[simp] theorem Core.setPred_trapc (n : BitVec 3) (v : Bool) : (c.setPred n v).trapc = c.trapc := by unfold Core.setPred; split <;> rfl
@[simp] theorem Core.setPred_trappc (n : BitVec 3) (v : Bool) : (c.setPred n v).trappc = c.trappc := by unfold Core.setPred; split <;> rfl
@[simp] theorem Core.setPred_trapval (n : BitVec 3) (v : Bool) : (c.setPred n v).trapval = c.trapval := by unfold Core.setPred; split <;> rfl
@[simp] theorem Core.setPred_htab (n : BitVec 3) (v : Bool) : (c.setPred n v).htab = c.htab := by unfold Core.setPred; split <;> rfl
@[simp] theorem Core.setPred_ptbase (n : BitVec 3) (v : Bool) : (c.setPred n v).ptbase = c.ptbase := by unfold Core.setPred; split <;> rfl
@[simp] theorem Core.setPred_diex (n : BitVec 3) (v : Bool) : (c.setPred n v).diex = c.diex := by unfold Core.setPred; split <;> rfl
@[simp] theorem Core.setPred_diey (n : BitVec 3) (v : Bool) : (c.setPred n v).diey = c.diey := by unfold Core.setPred; split <;> rfl
@[simp] theorem Core.setPred_dien (n : BitVec 3) (v : Bool) : (c.setPred n v).dien = c.dien := by unfold Core.setPred; split <;> rfl
@[simp] theorem Core.setPred_running (n : BitVec 3) (v : Bool) : (c.setPred n v).running = c.running := by unfold Core.setPred; split <;> rfl
@[simp] theorem Core.setPred_halted (n : BitVec 3) (v : Bool) : (c.setPred n v).halted = c.halted := by unfold Core.setPred; split <;> rfl
@[simp] theorem Core.setPred_wait (n : BitVec 3) (v : Bool) : (c.setPred n v).wait = c.wait := by unfold Core.setPred; split <;> rfl
@[simp] theorem Core.setPred_evq (n : BitVec 3) (v : Bool) : (c.setPred n v).evq = c.evq := by unfold Core.setPred; split <;> rfl
@[simp] theorem Core.setPred_tokIn (n : BitVec 3) (v : Bool) : (c.setPred n v).tokIn = c.tokIn := by unfold Core.setPred; split <;> rfl
@[simp] theorem Core.setPred_slots (n : BitVec 3) (v : Bool) : (c.setPred n v).slots = c.slots := by unfold Core.setPred; split <;> rfl
@[simp] theorem Core.setPred_pbars (n : BitVec 3) (v : Bool) : (c.setPred n v).pbars = c.pbars := by unfold Core.setPred; split <;> rfl
@[simp] theorem Core.setPred_colls (n : BitVec 3) (v : Bool) : (c.setPred n v).colls = c.colls := by unfold Core.setPred; split <;> rfl
@[simp] theorem Core.setPred_collArgs (n : BitVec 3) (v : Bool) : (c.setPred n v).collArgs = c.collArgs := by unfold Core.setPred; split <;> rfl
@[simp] theorem Core.setPred_cfgl (n : BitVec 3) (v : Bool) : (c.setPred n v).cfgl = c.cfgl := by unfold Core.setPred; split <;> rfl
@[simp] theorem Core.setPred_dcache (n : BitVec 3) (v : Bool) : (c.setPred n v).dcache = c.dcache := by unfold Core.setPred; split <;> rfl
@[simp] theorem Core.setPred_ccache (n : BitVec 3) (v : Bool) : (c.setPred n v).ccache = c.ccache := by unfold Core.setPred; split <;> rfl
@[simp] theorem Core.setPred_stq (n : BitVec 3) (v : Bool) : (c.setPred n v).stq = c.stq := by unfold Core.setPred; split <;> rfl
@[simp] theorem Core.setPred_stSeq (n : BitVec 3) (v : Bool) : (c.setPred n v).stSeq = c.stSeq := by unfold Core.setPred; split <;> rfl
@[simp] theorem Core.setPred_fences (n : BitVec 3) (v : Bool) : (c.setPred n v).fences = c.fences := by unfold Core.setPred; split <;> rfl
@[simp] theorem Core.setPred_deferred (n : BitVec 3) (v : Bool) : (c.setPred n v).deferred = c.deferred := by unfold Core.setPred; split <;> rfl
@[simp] theorem Core.setPred_stallAt (n : BitVec 3) (v : Bool) : (c.setPred n v).stallAt = c.stallAt := by unfold Core.setPred; split <;> rfl

@[simp] theorem Core.setPred_zero (v : Bool) : c.setPred 0 v = c := rfl
@[simp] theorem Core.pred_zero : c.pred 0 = true := rfl

/-- A predicate after one is written: p0 stays true, a write of it changes nothing. -/
theorem Core.pred_setPred (n m : BitVec 3) (v : Bool) :
    (c.setPred n v).pred m = if m = n ∧ n ≠ 0 then v else c.pred m := by
  have key : ∀ (p : BitVec 8), (m == 0 || (if v then p ||| (1#8 <<< n.toNat) else p &&& ~~~(1#8 <<< n.toNat)).getLsbD m.toNat)
      = if m = n ∧ n ≠ 0 then v else (if n = 0 then (m == 0 || (if v then p ||| (1#8 <<< n.toNat) else p &&& ~~~(1#8 <<< n.toNat)).getLsbD m.toNat) else m == 0 || p.getLsbD m.toNat) := by
    intro p
    by_cases hn : n = 0
    · simp [hn]
    · have hb : ∀ i : Nat, i < 8 → ((1#8 <<< n.toNat).getLsbD i = decide (i = n.toNat)) := by
        intro i hi
        have : n.toNat < 8 := n.isLt
        simp only [BitVec.getLsbD_shiftLeft, BitVec.getLsbD_one]
        by_cases h : i < n.toNat
        · simp [h]; omega
        · simp [h, hi]; omega
      have hm : m.toNat < 8 := m.isLt
      simp only [hn, ne_eq, not_false_eq_true, and_true, if_false]
      by_cases he : m = n
      · subst he
        have h0 : (m == 0) = false := by simpa using hn
        cases v
        · simp [hm]; exact hn
        · simp [hm]
      · have ht : ¬ m.toNat = n.toNat := fun h => he (BitVec.eq_of_toNat_eq h)
        have hz : (decide (m.toNat < n.toNat) || !decide (m.toNat - n.toNat = 0)) = true := by
          by_cases h : m.toNat < n.toNat <;> simp [h]
          omega
        have hy : (!decide (m.toNat < n.toNat) && decide (m.toNat - n.toNat = 0)) = false := by
          by_cases h : m.toNat < n.toNat <;> simp [h]
          omega
        cases v
        · simp [he, hm, hz]
        · simp [he, hm, hy]
  unfold Core.pred Core.setPred
  by_cases hn : n = 0
  · simp [hn]
  · simp only [hn, if_false]
    have := key c.p
    simp only [hn, if_false] at this
    exact this

@[simp] theorem Core.get_setPred (n : BitVec 3) (v : Bool) (r : BitVec 6) : (c.setPred n v).get r = c.get r := by
  unfold Core.get; simp

end Sys2Proof.Machine
end

