-- ==== Sys2Proof/Laws/Core.lean ====
section
/-! SUPPORT. What the shared operations of the control core do: advancing, writing D, jumping, taking a trap, a guard. -/

namespace Sys2Proof.Machine

open Sys2Proof.Claims

/-! ### Frames compose -/

theorem sameOut_refl (s : State) : SameOutsideDies s s :=
  ⟨fun _ => rfl, ⟨rfl, rfl, rfl, rfl, rfl, rfl, rfl⟩, rfl, rfl, rfl, rfl, rfl, rfl, rfl⟩

theorem sameOut_trans {s t u : State} (h : SameOutsideDies s t) (k : SameOutsideDies t u) : SameOutsideDies s u := by
  obtain ⟨h1, ⟨a1, a2, a3, a4, a5, a6, a7⟩, h2, h3, h4, h5, h6, h7, h8⟩ := h
  obtain ⟨k1, ⟨b1, b2, b3, b4, b5, b6, b7⟩, k2, k3, k4, k5, k6, k7, k8⟩ := k
  exact ⟨fun x => (k1 x).trans (h1 x),
    ⟨b1.trans a1, b2.trans a2, b3.trans a3, b4.trans a4, b5.trans a5, b6.trans a6, b7.trans a7⟩,
    k2.trans h2, k3.trans h3, k4.trans h4, k5.trans h5, k6.trans h6, k7.trans h7, k8.trans h8⟩

theorem sameOut_setDie (s : State) (d : Nat) (x : Die) : SameOutsideDies s (s.setDie d x) :=
  ⟨fun _ => rfl, ⟨rfl, rfl, rfl, rfl, rfl, rfl, rfl⟩, rfl, rfl, rfl, rfl, rfl, rfl, rfl⟩

theorem onlyDie_setDie (s : State) (d : Nat) (x : Die) : OnlyDie s (s.setDie d x) d := by
  intro e h; simp [h]

theorem onlyDie_trans {s t u : State} {d : Nat} (h : OnlyDie s t d) (k : OnlyDie t u d) : OnlyDie s u d :=
  fun e he => (k e he).trans (h e he)

/-! ### Writing the core -/

theorem sameOut_setCc (s : State) (c : Core) : SameOutsideDies s (s.setCc c) := sameOut_setDie s _ _

theorem onlyDie_setCc (s : State) (c : Core) : OnlyDie s (s.setCc c) s.cdie := onlyDie_setDie s _ _

theorem onlyCore_setCc (s : State) (c : Core) : OnlyCore s (s.setCc c) := by
  refine ⟨sameOut_setCc s c, onlyDie_setCc s c, ?_⟩
  rw [State.die_setCc, State.cc_setCc]

/-- Advancing and returning are one write of the core. -/
theorem State.adv_eq (s : State) (n : Nat) : s.adv n = s.setCc { s.cc with pc := s.cc.pc + BitVec.ofNat 64 n } := rfl

theorem State.ret_eq (s : State) (d : BitVec 6) (v : Word) :
    s.ret d v = s.setCc { s.cc.set d v with pc := s.cc.pc + 4 } := by
  rw [State.ret, State.adv_eq, State.cc_setCc, State.setCc_setCc]; rfl

/-! Everything on the executing die is one write of that die. -/

@[simp] theorem State.setDie_cdie (s : State) (d : Nat) (x : Die) : (s.setDie d x).cdie = s.cdie := rfl

@[simp] theorem State.cc_setDie (s : State) (x : Die) : (s.setDie s.cdie x).cc = x.core := by
  simp [State.cc, State.core]

theorem State.setCc_eq (s : State) (c : Core) : s.setCc c = s.setDie s.cdie { s.die s.cdie with core := c } := rfl

theorem State.setCc_setDie (s : State) (x : Die) (c : Core) :
    (s.setDie s.cdie x).setCc c = s.setDie s.cdie { x with core := c } := by
  rw [State.setCc_eq, State.setDie_cdie, State.setDie_setDie]; simp

theorem State.adv_setDie (s : State) (x : Die) (n : Nat) :
    (s.setDie s.cdie x).adv n = s.setDie s.cdie { x with core := { x.core with pc := x.core.pc + BitVec.ofNat 64 n } } := by
  rw [State.adv_eq, State.setCc_setDie, State.cc_setDie]

theorem State.ret_setDie (s : State) (x : Die) (d : BitVec 6) (v : Word) :
    (s.setDie s.cdie x).ret d v = s.setDie s.cdie { x with core := { x.core.set d v with pc := x.core.pc + 4 } } := by
  rw [State.ret_eq, State.setCc_setDie, State.cc_setDie]

theorem onlyCore_adv (s : State) (n : Nat) : OnlyCore s (s.adv n) := onlyCore_setCc s _

theorem writesReg_ret (s : State) (d : BitVec 6) (v : Word) : WritesReg s (s.ret d v) d v 4 := by
  rw [State.ret_eq]
  refine ⟨onlyCore_setCc s _, ?_, ?_, ?_, ?_⟩ <;> rw [State.cc_setCc]
  · show (s.cc.set d v).get d = v; simp
  · intro r h; show (s.cc.set d v).get r = _; simp [h]
  · rfl
  · rfl

theorem completes_ret {i : Instr} {s : State} {d : BitVec 6} {v : Word} {P : Word → Prop}
    (h : exec i s = .next (s.ret d v)) (hp : P v) : Completes i s d 4 P :=
  ⟨_, v, h, writesReg_ret s d v, hp⟩

theorem goesTo_setCc (s : State) (a : Word) : GoesTo s (s.setCc { s.cc with pc := a }) a :=
  ⟨onlyCore_setCc s _, State.cc_setCc s _⟩

/-! ### Guards -/

theorem guarded_true {s : State} {g : BitVec 4} {f : State → Out} (h : s.cc.guard g = true) : guarded s g f = f s := by
  simp [guarded, h]

theorem guarded_false {s : State} {g : BitVec 4} {f : State → Out} (h : s.cc.guard g = false) :
    guarded s g f = .next s.adv := by
  simp [guarded, h]

/-! ### Traps -/

/-- What recording a fault of a launch leaves as it was: all but the launches. -/
theorem State.noteFault_frame (s : State) (l : Nat) (f : FaultInfo) :
    ∃ t, s.noteFault l f = { s with launches := t } := by
  unfold State.noteFault
  dsimp only
  split
  · exact ⟨s.launches, rfl⟩
  · exact ⟨_, rfl⟩

theorem State.stopLaunches_frame (s : State) (code : Nat) : ∃ t, s.stopLaunches code = { s with launches := t } := by
  unfold State.stopLaunches
  generalize s.launches = l
  induction l generalizing s with
  | nil => exact ⟨s.launches, rfl⟩
  | cons e l ih =>
    rw [List.foldl_cons]
    split
    · obtain ⟨t, ht⟩ := s.noteFault_frame e.1 { src := 8, code, die := 0, region := none, faddr := 0, detail := 0, wall := s.cycle, step := s.launchStep e.1, unit := none }
      rw [ht]
      obtain ⟨u, hu⟩ := ih { s with launches := t }
      exact ⟨u, hu⟩
    · exact ih s

/-- The die of a trap: the core as `trapEntry` says, and a token before step 6 abandoned (R41). -/
def Die.trapped (x : Die) (src code : Nat) (tpc val : Word) : Die :=
  { x with core := x.core.trapEntry src code tpc val, token := x.tokenLeft }

/-- A trap changes its die as `Die.trapped` says, and the launches. -/
theorem State.takeTrap_frame (s : State) (d src : Nat) (own : Bool) (t : Trap) (tpc : Word) (r : Option Nat) (w : Word)
    (u : Option (Nat × Nat)) :
    ∃ l, s.takeTrap d src own t tpc r w u = { s.setDie d ((s.die d).trapped src t.code tpc t.val) with launches := l } := by
  unfold State.takeTrap
  simp only
  split
  · exact State.stopLaunches_frame _ _
  · split
    · exact ⟨_, rfl⟩
    · exact State.noteFault_frame _ _ _

/-- A trap of the executing instruction, as claims name it. -/
theorem trapped_takeTrap (s : State) (t : Trap) (tpc : Word) (h : t.code < 2 ^ 8) :
    Trapped s (s.takeTrap s.cdie 3 true t tpc) t.code t.val tpc := by
  obtain ⟨l, hl⟩ := s.takeTrap_frame s.cdie 3 true t tpc none 0 none
  rw [hl]
  have hd : ∀ e, ({ s.setDie s.cdie ((s.die s.cdie).trapped 3 t.code tpc t.val) with launches := l } : State).die e =
      (s.setDie s.cdie ((s.die s.cdie).trapped 3 t.code tpc t.val)).die e := fun _ => rfl
  have hcc : ({ s.setDie s.cdie ((s.die s.cdie).trapped 3 t.code tpc t.val) with launches := l } : State).cc =
      s.cc.trapEntry 3 t.code tpc t.val := State.cc_setDie s _
  refine ⟨?_, ?_, ?_, ?_, ?_, ?_, fun _ => rfl, ⟨rfl, rfl, rfl, rfl, rfl, rfl, rfl⟩, ?_, ?_⟩
  · rw [hcc]; simp only [Core.trapEntry, BitVec.toNat_ofNat]
    rw [Nat.mod_eq_of_lt]
    split <;> omega
  · rw [hcc]; rfl
  · rw [hcc]; rfl
  · rw [hcc]; rfl
  · rw [hcc]; rfl
  · rw [hcc]; rfl
  · exact onlyDie_setDie s _ _
  · rw [hd, hcc]; simp [Die.trapped, State.cc, State.core]

theorem trapped_trapHere (s : State) (t : Trap) (h : t.code < 2 ^ 8) : Trapped s (s.trapHere t) t.code t.val s.cc.pc :=
  trapped_takeTrap s t s.cc.pc h

end Sys2Proof.Machine
end

