-- ==== Sys2Proof/Laws/Decode.lean ====
section
/-! SUPPORT. The fields of a packed word are the fields it was packed from: one lemma per word and core form. -/

namespace Sys2Proof

@[simp] theorem rowWord_unpack (r : RowWord) : rowWordOf (rowWordBits r) = r := by
  obtain ⟨x0, x1, x2, x3, x4, x5, x6⟩ := r
  have := x0.isLt
  have := x1.isLt
  have := x2.isLt
  have := x3.isLt
  have := x4.isLt
  have := x5.isLt
  have := x6.isLt
  simp only [rowWordOf, rowWordBits, field, RowWord.mk.injEq, ← BitVec.toNat_inj, BitVec.toNat_ofNat]
  omega

@[simp] theorem mnWord_unpack (r : MnWord) : mnWordOf (mnWordBits r) = r := by
  obtain ⟨x0, x1, x2, x3, x4, x5, x6, x7, x8, x9⟩ := r
  have := x0.isLt
  have := x1.isLt
  have := x2.isLt
  have := x3.isLt
  have := x4.isLt
  have := x5.isLt
  have := x6.isLt
  have := x7.isLt
  have := x8.isLt
  have := x9.isLt
  simp only [mnWordOf, mnWordBits, field, MnWord.mk.injEq, ← BitVec.toNat_inj, BitVec.toNat_ofNat]
  omega

@[simp] theorem xnWord_unpack (r : XnWord) : xnWordOf (xnWordBits r) = r := by
  obtain ⟨x0, x1, x2, x3, x4, x5, x6, x7, x8, x9, x10, x11, x12, x13, x14⟩ := r
  have := x0.isLt
  have := x1.isLt
  have := x2.isLt
  have := x3.isLt
  have := x4.isLt
  have := x5.isLt
  have := x6.isLt
  have := x7.isLt
  have := x8.isLt
  have := x9.isLt
  have := x10.isLt
  have := x11.isLt
  have := x12.isLt
  have := x13.isLt
  have := x14.isLt
  simp only [xnWordOf, xnWordBits, field, XnWord.mk.injEq, ← BitVec.toNat_inj, BitVec.toNat_ofNat]
  omega

@[simp] theorem rForm_unpack (r : RForm) : rFormOf (rFormBits r) = r := by
  obtain ⟨x0, x1, x2, x3, x4⟩ := r
  have := x0.isLt
  have := x1.isLt
  have := x2.isLt
  have := x3.isLt
  have := x4.isLt
  simp only [rFormOf, rFormBits, field, RForm.mk.injEq, ← BitVec.toNat_inj, BitVec.toNat_ofNat]
  omega

@[simp] theorem iForm_unpack (r : IForm) : iFormOf (iFormBits r) = r := by
  obtain ⟨x0, x1, x2, x3⟩ := r
  have := x0.isLt
  have := x1.isLt
  have := x2.isLt
  have := x3.isLt
  simp only [iFormOf, iFormBits, field, IForm.mk.injEq, ← BitVec.toNat_inj, BitVec.toNat_ofNat]
  omega

@[simp] theorem cForm_unpack (r : CForm) : cFormOf (cFormBits r) = r := by
  obtain ⟨x0, x1, x2, x3, x4, x5⟩ := r
  have := x0.isLt
  have := x1.isLt
  have := x2.isLt
  have := x3.isLt
  have := x4.isLt
  have := x5.isLt
  simp only [cFormOf, cFormBits, field, CForm.mk.injEq, ← BitVec.toNat_inj, BitVec.toNat_ofNat]
  omega

@[simp] theorem cIForm_unpack (r : CIForm) : cIFormOf (cIFormBits r) = r := by
  obtain ⟨x0, x1, x2, x3, x4⟩ := r
  have := x0.isLt
  have := x1.isLt
  have := x2.isLt
  have := x3.isLt
  have := x4.isLt
  simp only [cIFormOf, cIFormBits, field, CIForm.mk.injEq, ← BitVec.toNat_inj, BitVec.toNat_ofNat]
  omega

@[simp] theorem mForm_unpack (r : MForm) : mFormOf (mFormBits r) = r := by
  obtain ⟨x0, x1, x2, x3, x4, x5⟩ := r
  have := x0.isLt
  have := x1.isLt
  have := x2.isLt
  have := x3.isLt
  have := x4.isLt
  have := x5.isLt
  simp only [mFormOf, mFormBits, field, MForm.mk.injEq, ← BitVec.toNat_inj, BitVec.toNat_ofNat]
  omega

@[simp] theorem fForm_unpack (r : FForm) : fFormOf (fFormBits r) = r := by
  obtain ⟨x0, x1, x2, x3⟩ := r
  have := x0.isLt
  have := x1.isLt
  have := x2.isLt
  have := x3.isLt
  simp only [fFormOf, fFormBits, field, FForm.mk.injEq, ← BitVec.toNat_inj, BitVec.toNat_ofNat]
  omega

/-- An element row that packs fields decodes to what the row decoder reads from those fields. -/
theorem decode_row (r : RowWord) : decode (.row (rowWordBits r)) = ofRow r := by simp [decode, decodeRow]
theorem decode_mn (r : MnWord) : decode (.mn (mnWordBits r)) = ofMn r := by simp [decode, decodeMn]
theorem decode_xn (r : XnWord) : decode (.xn (xnWordBits r)) = ofXn r := by simp [decode, decodeXn]

end Sys2Proof
end

