-- ==== Sys2Proof/Laws/Fence.lean ====
section
/-! SUPPORT. What the shared operations of stores seen by some parties, of fences and of deferred accesses change. -/

namespace Sys2Proof.Machine

/-- A read that looks back changes the list of older values and the counter of free values alone. -/
theorem State.lookBack_frame (s : State) (rd : Option Nat) (host : Bool) (k : Nat) (slot : Option Nat) (l : List Byte) :
    ∃ c v, (s.lookBack rd host k slot l).2 = { s with freeCtr := c, stale := v } := by
  unfold State.lookBack
  dsimp only
  split
  · exact ⟨_, _, rfl⟩
  · split
    · exact ⟨_, s.stale, rfl⟩
    · exact ⟨_, _, rfl⟩

/-- Without older values a read finds the bytes that stand. -/
theorem State.lookBack_none (s : State) (rd : Option Nat) (host : Bool) (k : Nat) (slot : Option Nat) (l : List Byte) (h : s.stale = []) :
    s.lookBack rd host k slot l = (l, s) := by
  simp [State.lookBack, h]

theorem State.noteStale_frame (s : State) (d : Nat) (e : PendSt) (old : List Byte) :
    ∃ c v, s.noteStale d e old = { s with freeCtr := c, stale := v } := ⟨_, _, rfl⟩

theorem State.spreadStore_frame (s : State) (k : Nat) : ∃ c v, s.spreadStore k = { s with freeCtr := c, stale := v } := by
  unfold State.spreadStore
  split
  · exact ⟨s.freeCtr, s.stale, rfl⟩
  · exact ⟨_, _, rfl⟩

/-- Dies alone. -/
theorem State.reflectDies_frame (l : List Nat) : ∀ s : State, ∃ t, l.foldl State.reflectDie s = { s with dies := t } := by
  induction l with
  | nil => exact fun s => ⟨s.dies, rfl⟩
  | cons d t ih =>
    intro s
    obtain ⟨x, h⟩ := ih (s.reflectDie d)
    exact ⟨x, h⟩

/-- A fence that completes changes the dies alone: loads read early, stores in flight, caches and derived regions. -/
theorem State.fenceEffect_frame (s : State) (d : Nat) (f : Fence) : ∃ t, s.fenceEffect d f = { s with dies := t } := by
  unfold State.fenceEffect
  dsimp only
  split
  · exact ⟨_, rfl⟩
  · split <;> split <;> first
      | exact ⟨_, rfl⟩
      | (split <;> exact ⟨_, rfl⟩)
      | (obtain ⟨x, h⟩ := State.reflectDies_frame (scopeDies d f.scope) _; exact ⟨x, h⟩)
      | (split <;> (obtain ⟨x, h⟩ := State.reflectDies_frame (scopeDies d f.scope) _; exact ⟨x, h⟩))

/-- Fences settle in the dies alone. -/
theorem State.settleFences_frame (s : State) (d : Nat) : ∃ t, s.settleFences d = { s with dies := t } := by
  unfold State.settleFences
  generalize (s.core d).fences = l
  suffices ∀ (l : List Fence) (q : State × Bool), ∃ t,
      (l.foldl (fun (t : State × Bool) f =>
        let s := t.1
        if t.2 then t
        else if s.fenceDone d f then ((s.setCore d { s.core d with fences := (s.core d).fences.tail }).fenceEffect d f, false)
        else if f.since.isNone && s.fenceStores d f then
          (s.setCore d { s.core d with fences := { f with since := some s.cycle } :: (s.core d).fences.tail }, true)
        else (s, true)) q).1 = { q.1 with dies := t } from this l (s, false)
  intro l
  induction l with
  | nil => exact fun q => ⟨q.1.dies, rfl⟩
  | cons f r ih =>
    intro q
    rw [List.foldl_cons]
    obtain ⟨t, h⟩ := ih _
    rw [h]
    dsimp only
    split
    · exact ⟨t, rfl⟩
    · split
      · obtain ⟨u, k⟩ := (q.1.setCore d { q.1.core d with fences := (q.1.core d).fences.tail }).fenceEffect_frame d f
        exact ⟨t, by simp only [k]; rfl⟩
      · split
        · exact ⟨t, rfl⟩
        · exact ⟨t, rfl⟩

/-- An access that is deferred changes its core and the counter of free values alone: it goes on, and is the core's deferred one. -/
theorem State.defer_frame {s t : State} {w : BitVec 32} {i : Instr} (h : s.defer w i = some t) :
    ∃ f n, t = { s.setCc { s.cc with pc := s.cc.pc + 4, deferred := some f } with freeCtr := n } ∧ f.instr = i ∧ f.pc = s.cc.pc ∧
      f.a = s.cc.a ∧ f.smode = s.cc.smode := by
  unfold State.defer at h
  split at h
  · split at h
    · dsimp only at h
      split at h
      · cases h
      · cases h
        exact ⟨_, _, rfl, rfl, rfl, rfl, rfl⟩
    · cases h
  · cases h

end Sys2Proof.Machine
end

