-- ==== Sys2Proof/Laws/Memory.lean ====
section
/-! SUPPORT. What the operations over memory do: which byte each changes, which other fields, and that each keeps memory in
its canonical form. -/

namespace Sys2Proof.Machine

open Sys2Proof Sys2Proof.Claims

/-! ### Bytes -/

/-- Consecutive bytes put: those in the range are the new ones, every other is as before. -/
theorem State.byte_putBytes (l : List Byte) : ∀ (s : State) (k m : Nat),
    (s.putBytes k l).byte m = if k ≤ m ∧ m < k + l.length then (l[m - k]?).getD 0 else s.byte m := by
  induction l with
  | nil => intro s k m; rw [if_neg (by simp only [List.length_nil]; omega)]; rfl
  | cons b t ih =>
    intro s k m
    show ((s.setByte k b).putBytes (k + 1) t).byte m = _
    rw [ih, State.byte_setByte, List.length_cons]
    by_cases h : m = k
    · subst h; rw [if_neg (by omega), if_pos rfl, if_pos (by omega)]; simp
    · by_cases r : k + 1 ≤ m ∧ m < k + 1 + t.length
      · rw [if_pos r, if_pos (by omega), show m - k = m - (k + 1) + 1 by omega, List.getElem?_cons_succ]
      · rw [if_neg r, if_neg h, if_neg (by omega)]

theorem sameBytesOutside_putBytes (s : State) (k : Nat) (l : List Byte) :
    SameBytesOutside s (s.putBytes k l) k l.length := by
  intro m h; rw [State.byte_putBytes, if_neg h]

/-- A read of consecutive bytes, byte by byte. -/
theorem State.bytes_getElem? (n : Nat) : ∀ (s : State) (k i : Nat),
    (s.bytes k n)[i]? = if i < n then some (s.byte (k + i)) else none := by
  induction n with
  | zero => intro s k i; rfl
  | succ n ih =>
    intro s k i
    show (s.byte k :: s.bytes (k + 1) n)[i]? = _
    cases i with
    | zero => simp
    | succ i => rw [List.getElem?_cons_succ, ih]; simp only [Nat.succ_lt_succ_iff]; rw [show k + 1 + i = k + (i + 1) by omega]

theorem State.bytes_length (n : Nat) : ∀ (s : State) (k : Nat), (s.bytes k n).length = n := by
  induction n with
  | zero => intro _ _; rfl
  | succ n ih => intro s k; show (_ :: _).length = _; rw [List.length_cons, ih]

/-- What was put is read back. -/
theorem State.bytes_putBytes (s : State) (k : Nat) (l : List Byte) : (s.putBytes k l).bytes k l.length = l := by
  apply List.ext_getElem?
  intro i
  rw [State.bytes_getElem?]
  by_cases h : i < l.length
  · rw [if_pos h, State.byte_putBytes, if_pos (by omega), Nat.add_sub_cancel_left, List.getElem?_eq_getElem h]; rfl
  · rw [if_neg h, List.getElem?_eq_none (by omega)]

/-! ### What else an operation changes -/

/-- Writing bytes changes memory alone. -/
theorem State.putBytes_frame (l : List Byte) : ∀ (s : State) (k : Nat), ∃ m, s.putBytes k l = { s with mem := m } := by
  induction l with
  | nil => intro s k; exact ⟨s.mem, rfl⟩
  | cons b t ih => intro s k; obtain ⟨m, h⟩ := ih (s.setByte k b) (k + 1); exact ⟨m, h⟩

theorem State.putAt_frame (l : List (Nat × Byte)) : ∀ s : State, ∃ m, s.putAt l = { s with mem := m } := by
  induction l with
  | nil => intro s; exact ⟨s.mem, rfl⟩
  | cons e t ih => intro s; obtain ⟨m, h⟩ := ih (s.setByte e.1 e.2); exact ⟨m, h⟩

theorem State.rekey_frame (s : State) (k : Nat) (slot : Option Nat) :
    ∃ m t, s.rekey k slot = { s with mem := m, keyTag := t } := by
  cases slot with
  | none => exact ⟨s.mem, s.keyTag, rfl⟩
  | some n =>
    simp only [State.rekey]
    split
    · split
      · exact ⟨_, _, rfl⟩
      · obtain ⟨m, h⟩ := State.putBytes_frame (s.plainBytes (k / 64 * 64) (some n) 64) s (k / 64 * 64)
        rw [h]; exact ⟨_, _, rfl⟩
    · exact ⟨_, _, rfl⟩

theorem State.rekeys_frame (slot : Option Nat) (l : List Nat) : ∀ s : State,
    ∃ m t, l.foldl (fun s g => s.rekey g slot) s = { s with mem := m, keyTag := t } := by
  induction l with
  | nil => intro s; exact ⟨s.mem, s.keyTag, rfl⟩
  | cons g t ih =>
    intro s
    obtain ⟨m, k, h⟩ := s.rekey_frame g slot
    obtain ⟨m', k', h'⟩ := ih (s.rekey g slot)
    exact ⟨m', k', by rw [List.foldl_cons, h', h]⟩

/-- A store under a key slot changes memory, poison, the keys of granules and the list of older values alone. -/
theorem State.store_frame (s : State) (k : Nat) (slot : Option Nat) (l : List Byte) :
    ∃ m p t v, s.store k slot l = { s with mem := m, poison := p, keyTag := t, stale := v } := by
  cases slot with
  | none =>
    obtain ⟨m, h⟩ := State.putBytes_frame l (s.settleStale k l.length) k
    exact ⟨m, _, s.keyTag, _, by simp only [State.store]; rw [h]; rfl⟩
  | some n =>
    obtain ⟨m, t, h⟩ := State.rekeys_frame (some n)
      ((List.range ((k % 64 + l.length + 63) / 64)).map (fun i => k / 64 * 64 + 64 * i)) (s.settleStale k l.length)
    obtain ⟨m', h'⟩ := State.putBytes_frame l { s.settleStale k l.length with mem := m, keyTag := t } k
    exact ⟨m', _, t, _, by simp only [State.store]; rw [h, h']; rfl⟩

/-- Reopening an evicted row changes the stacks alone. -/
theorem State.reopenRow_frame (s : State) (k : Nat) : ∃ t, s.reopenRow k = { s with stackTab := t } := by
  unfold State.reopenRow
  dsimp only
  split
  · exact ⟨s.stackTab, rfl⟩
  · split
    · exact ⟨s.stackTab, rfl⟩
    · exact ⟨_, rfl⟩

/-- A fold of changes to derived regions of a die changes that die alone, and of it the derived regions alone. -/
theorem State.derivFold_frame {α : Type} (d : Nat) (f : State → α → State)
    (hf : ∀ s a, ∃ v, f s a = s.setDie d { s.die d with derivs := v } ∨ f s a = s) (l : List α) : ∀ s : State,
    ∃ v, l.foldl f s = s.setDie d { s.die d with derivs := v } ∨ l.foldl f s = s := by
  induction l with
  | nil => intro s; exact ⟨(s.die d).derivs, .inr rfl⟩
  | cons a t ih =>
    intro s
    rw [List.foldl_cons]
    obtain ⟨v, h | h⟩ := hf s a <;> obtain ⟨w, k | k⟩ := ih (f s a)
    · exact ⟨w, .inl (by rw [k, h]; simp)⟩
    · exact ⟨v, .inl (by rw [k, h])⟩
    · exact ⟨w, .inl (by rw [k, h])⟩
    · exact ⟨[], .inr (by rw [k, h])⟩

/-! ### The canonical form -/

theorem inv_of_mem {s t : State} (h : t.mem = s.mem) (i : Inv s) : Inv t := by unfold Inv; rw [h]; exact i

theorem inv_reset : Inv State.reset := rfl

theorem inv_setByte (s : State) (k : Nat) (b : Byte) (i : Inv s) : Inv (s.setByte k b) := twf_tset 0 s.mem k b i

theorem inv_putBytes (l : List Byte) : ∀ (s : State) (k : Nat), Inv s → Inv (s.putBytes k l) := by
  induction l with
  | nil => intro s k i; exact i
  | cons b t ih => intro s k i; exact ih _ _ (inv_setByte s k b i)

theorem inv_putAt (l : List (Nat × Byte)) : ∀ s : State, Inv s → Inv (s.putAt l) := by
  induction l with
  | nil => intro s i; exact i
  | cons e t ih => intro s i; exact ih _ (inv_setByte s e.1 e.2 i)

/-- A fold keeps what each of its steps keeps. -/
theorem inv_foldl {α : Type} (f : State → α → State) (h : ∀ s a, Inv s → Inv (f s a)) (l : List α) :
    ∀ s, Inv s → Inv (l.foldl f s) := by
  induction l with
  | nil => intro s i; exact i
  | cons a t ih => intro s i; exact ih _ (h s a i)

theorem inv_rekey (s : State) (k : Nat) (slot : Option Nat) (i : Inv s) : Inv (s.rekey k slot) := by
  cases slot with
  | none => exact i
  | some n =>
    have h (x : State) (t : Tab (Option (BitVec 512))) (hx : Inv x) : Inv { x with keyTag := t } := hx
    unfold State.rekey
    dsimp only
    apply h
    split
    · split
      · exact i
      · exact inv_putBytes _ _ _ i
    · exact i

theorem inv_heal (s : State) (k n : Nat) (i : Inv s) : Inv (s.heal k n) := i

theorem inv_store (s : State) (k : Nat) (slot : Option Nat) (l : List Byte) (i : Inv s) : Inv (s.store k slot l) := by
  cases slot with
  | none => exact inv_putBytes l (s.settleStale k l.length) k i
  | some n => exact inv_putBytes l _ k (inv_foldl _ (fun s g h => inv_rekey s g _ h) _ (s.settleStale k l.length) i)

theorem inv_setDie (s : State) (d : Nat) (x : Die) (i : Inv s) : Inv (s.setDie d x) := i

theorem inv_setDeriv (s : State) (d r n k : Nat) (x : Option Derived) (i : Inv s) : Inv (s.setDeriv d r n k x) := i

theorem inv_nodeStoreAt (s : State) (d ring node : Nat) (l : List (Nat × Byte)) (i : Inv s) :
    Inv (s.nodeStoreAt d ring node l) := by
  simp only [State.nodeStoreAt]
  apply inv_foldl
  · intro s a h
    split
    · split
      · exact h
      · exact h
    · exact h
  · split
    · exact inv_putAt _ s i
    · exact inv_putAt _ s i

theorem inv_nodeStore (s : State) (d ring node off : Nat) (l : List Byte) (i : Inv s) :
    Inv (s.nodeStore d ring node off l) := inv_nodeStoreAt s d ring node _ i

theorem inv_dropDeriv (s : State) (d ring node dix : Nat) (i : Inv s) : Inv (s.dropDeriv d ring node dix) := by
  simp only [State.dropDeriv]
  split
  · exact i
  · exact inv_putBytes _ s _ i

theorem inv_mmioStore (l : List Byte) : ∀ (s : State) (o : Nat), Inv s → Inv (s.mmioStore o l) := by
  induction l with
  | nil => intro s o i; exact i
  | cons b t ih =>
    intro s o i
    apply ih
    split
    · exact inv_setByte s _ b i
    · exact i

theorem inv_reopenRow (s : State) (k : Nat) (i : Inv s) : Inv (s.reopenRow k) := by
  obtain ⟨t, h⟩ := s.reopenRow_frame k
  rw [h]; exact i

theorem inv_writeLoc (s : State) (loc : Loc) (l : List Byte) (i : Inv s) : Inv (s.writeLoc loc l) := by
  simp only [State.writeLoc]
  split
  · exact inv_nodeStore s _ _ _ _ l i
  · exact inv_mmioStore l s _ i
  · exact i
  · exact inv_store _ _ _ l (inv_reopenRow s _ i)

theorem inv_filter (s : State) (p : Nat × Byte → Bool) (i : Inv s) : Inv { s with mem := s.mem.filter p } :=
  twf_filter 0 s.mem p i

theorem inv_scrub (s : State) (i : Inv s) : Inv s.scrub := inv_filter s _ i

theorem inv_zeroDie (s : State) (d : Nat) (i : Inv s) : Inv (s.zeroDie d) := inv_filter s _ i

theorem inv_restoreBytes (s : State) (l : Nat) (v : Saved) (i : Inv s) : Inv (s.restoreBytes l v) := by
  simp only [State.restoreBytes]
  apply inv_foldl
  · intro s a h
    split
    · exact h
    · exact h
  · apply inv_foldl
    · intro s a h
      split
      · exact inv_setByte s _ _ h
      · exact h
    · exact inv_filter s _ i

theorem inv_takeTrap (s : State) (d src : Nat) (own : Bool) (t : Trap) (tpc : Word) (r : Option Nat) (w : Word)
    (u : Option (Nat × Nat)) (i : Inv s) : Inv (s.takeTrap d src own t tpc r w u) := by
  obtain ⟨l, h⟩ := s.takeTrap_frame d src own t tpc r w u
  exact inv_of_mem (by rw [h]; rfl) i

/-! ### Stores that cannot fail -/

@[simp] theorem Core.stored_smode (c : Core) (p : Nat) (loc : Loc) (l : List Byte) : (c.stored p loc l).smode = c.smode := by
  unfold Core.stored
  dsimp only
  split <;> rfl

/-- In S mode every store of the STACK path inside its 2^40 bytes is issued. -/
theorem State.storeBytes_stack (s : State) (d : Nat) (a : Word) (l : List Byte) (h : (s.core d).smode = true)
    (p : pathOf a = 6) (b : bitsOf a 40 20 = 0) :
    ∃ t, s.storeBytes d a l = .ok t ∧ (t.core d).smode = true := by
  obtain ⟨q, e⟩ := s.reopenRow_frame (stackKey (linOf (bitsOf a 0 40)))
  have k : s.locate d none a .st (s.core d).smode = .ok { tgt := 0, key := stackKey (linOf (bitsOf a 0 40)), slot := some 0 } := by
    unfold State.locate
    simp [p, b, h, pathTrap]
  unfold State.storeBytes
  rw [k]
  refine ⟨_, rfl, ?_⟩
  have g : ∀ x : State, (x.noteXlate d none { tgt := 0, key := stackKey (linOf (bitsOf a 0 40)), slot := some 0 }) =
      x.reopenRow (stackKey (linOf (bitsOf a 0 40))) := fun _ => rfl
  rw [g, e]
  simp only [State.core_setCore, Core.stored_smode]
  exact h

/-- The same of stores that follow one another. -/
theorem State.storeRange_stack (d fuel : Nat) : ∀ (s : State) (a : Word) (l : List Byte), (s.core d).smode = true →
    pathOf a = 6 → bitsOf a 40 20 = 0 → a.toNat % 2 ^ 40 + l.length < 2 ^ 40 → ∃ t, s.storeRange d fuel a l = .ok t := by
  induction fuel with
  | zero => intro s a l _ _ _ _; exact ⟨s, rfl⟩
  | succ n ih =>
    intro s a l h p b q
    unfold State.storeRange
    by_cases e : l.isEmpty
    · exact ⟨s, by simp [e]⟩
    · obtain ⟨t, u, v⟩ := State.storeBytes_stack s d a (l.take (min l.length (8 - a.toNat % 8))) h p b
      simp only [e, u]
      have k : (a + BitVec.ofNat 64 (min l.length (8 - a.toNat % 8))).toNat = a.toNat + min l.length (8 - a.toNat % 8) := by
        unfold pathOf at p; simp [BitVec.toNat_add]; omega
      apply ih t _ _ v
      · unfold pathOf at *; omega
      · unfold bitsOf at *; unfold pathOf at p; omega
      · rw [List.length_drop]; omega

theorem leBytes_length (n : Nat) : ∀ v, (leBytes n v).length = n := by
  induction n with
  | zero => intro v; rfl
  | succ n ih => intro v; simp [leBytes, ih]

theorem wordsBytes_length (l : List Word) : (wordsBytes l).length = 8 * l.length := by
  induction l with
  | nil => rfl
  | cons a l ih => unfold wordsBytes at *; rw [List.map_cons, List.flatten_cons, List.length_append, ih, leBytes_length, List.length_cons]; omega

theorem shake256_length (m : List Byte) : (shake256 m).length = 32 := leBytes_length 32 _

end Sys2Proof.Machine
end

