-- ==== Sys2Proof/Laws/Rows.lean ====
section
/-! SUPPORT. What element rows and node entries are written with: elements of a vector, masks, effects that enter a region's
pipe, flags, and the three outcomes of a row or an entry. -/

namespace Sys2Proof.Machine

open Sys2Proof Sys2Proof.Claims

/-! ### Elements -/

theorem joinNat_lt (w : Nat) (l : List Nat) : joinNat w l < 2 ^ (w * l.length) := by
  induction l with
  | nil => simp [joinNat]
  | cons x t ih =>
    have h : x % 2 ^ w < 2 ^ w := Nat.mod_lt _ (Nat.two_pow_pos w)
    have e : 2 ^ (w * (t.length + 1)) = 2 ^ w * 2 ^ (w * t.length) := by rw [← Nat.pow_add]; congr 1; rw [Nat.mul_succ]; omega
    simp only [joinNat, List.length_cons, e]
    calc x % 2 ^ w + 2 ^ w * joinNat w t < 2 ^ w + 2 ^ w * joinNat w t := by omega
      _ = 2 ^ w * (joinNat w t + 1) := by rw [Nat.mul_succ]; omega
      _ ≤ 2 ^ w * 2 ^ (w * t.length) := Nat.mul_le_mul_left _ ih

/-- Digit `i` of a joined number. -/
theorem joinNat_digit (w : Nat) (l : List Nat) : ∀ i, joinNat w l / 2 ^ (w * i) % 2 ^ w = (l[i]?).getD 0 % 2 ^ w := by
  induction l with
  | nil => intro i; simp [joinNat]
  | cons x t ih =>
    intro i
    have p := Nat.two_pow_pos w
    cases i with
    | zero => simp [joinNat]
    | succ i =>
      have e : 2 ^ (w * (i + 1)) = 2 ^ w * 2 ^ (w * i) := by rw [← Nat.pow_add]; congr 1; rw [Nat.mul_succ]; omega
      have d : (x % 2 ^ w + 2 ^ w * joinNat w t) / 2 ^ w = joinNat w t := by
        rw [Nat.add_mul_div_left _ _ p, Nat.div_eq_of_lt (Nat.mod_lt _ p), Nat.zero_add]
      show (x % 2 ^ w + 2 ^ w * joinNat w t) / 2 ^ (w * (i + 1)) % 2 ^ w = _
      rw [e, ← Nat.div_div_eq_div_mul, d, ih]; rfl

/-- Element `i` of a vector made of a list of elements that fit. -/
theorem lane_ofLanes (w : Nat) (l : List Nat) (h : w * l.length ≤ 512) (i : Nat) :
    lane w (ofLanes w l) i = (l[i]?).getD 0 % 2 ^ w := by
  unfold lane ofLanes
  rw [BitVec.toNat_ofNat, Nat.mod_eq_of_lt (Nat.lt_of_lt_of_le (joinNat_lt w l) (Nat.pow_le_pow_right (by omega) h))]
  exact joinNat_digit w l i

/-- Element `i` of a vector of all elements `f`. -/
theorem lane_ofLanes_map (w : Nat) (f : Nat → Nat) (i : Nat) (h : i < 512 / w) :
    lane w (ofLanes w ((List.range (512 / w)).map f)) i = f i % 2 ^ w := by
  rw [lane_ofLanes _ _ (by simp only [List.length_map, List.length_range]; exact Nat.mul_div_le 512 w)]
  simp [h]

/-- Element `i` of a mask: all ones where the element is written. -/
theorem lane_maskOf (w : Nat) (f : Nat → Bool) (i : Nat) (h : i < 512 / w) :
    lane w (maskOf w f) i = if f i then 2 ^ w - 1 else 0 := by
  rw [maskOf, lane_ofLanes_map _ _ _ h]
  split
  · exact Nat.mod_eq_of_lt (by have := Nat.two_pow_pos w; omega)
  · exact Nat.zero_mod _

/-- A merge takes the new bit where the mask is set and the old one elsewhere. -/
theorem getLsbD_merge (old new mask : Vec) (b : Nat) (h : b < 512) :
    (merge old new mask).getLsbD b = if mask.getLsbD b then new.getLsbD b else old.getLsbD b := by
  simp only [merge, BitVec.getLsbD_or, BitVec.getLsbD_and, BitVec.getLsbD_not]
  cases mask.getLsbD b <;> simp [h]

/-! ### Effects and flags -/

/-- An effect enters the pipe of its region, and nothing else changes. -/
theorem issueEff_frame (s : State) (c : RowCtx) (lat : Nat) (e : Eff) :
    SameOutsideDies s (s.issueEff c lat e) ∧ OnlyDie s (s.issueEff c lat e) c.d ∧
    (s.issueEff c lat e).die c.d = { s.die c.d with regs := ((s.issueEff c lat e).die c.d).regs } ∧
    (s.issueEff c lat e).region c.d c.reg = { s.region c.d c.reg with
      pipe := (s.region c.d c.reg).pipe ++ [⟨lat, c.r, c.sl, c.mc, c.stage, e⟩] } ∧
    ∀ n, n ≠ c.reg → (s.issueEff c lat e).region c.d n = s.region c.d n := by
  refine ⟨sameOut_setDie s _ _, onlyDie_setDie s _ _, ?_, ?_, ?_⟩
  · simp [State.issueEff, State.setRegion]
  · simp [State.issueEff]
  · intro n h; simp [State.issueEff, State.setRegion, State.region, tget_tset, h]

/-- Flags of an element are added to its sticky flags, and nothing else changes. -/
theorem ceFlags_frame (s : State) (c : RowCtx) (f : Flags) :
    SameOutsideDies s (s.ceFlags c f) ∧ OnlyDie s (s.ceFlags c f) c.d ∧
    (s.ceFlags c f).die c.d = { s.die c.d with ces := ((s.ceFlags c f).die c.d).ces } ∧
    (s.ceFlags c f).ce c.d c.r c.sl = { s.ce c.d c.r c.sl with flags := (s.ce c.d c.r c.sl).flags ||| f } := by
  refine ⟨sameOut_setDie s _ _, onlyDie_setDie s _ _, ?_, ?_⟩
  · simp [State.ceFlags, State.setCe]
  · simp [State.ceFlags, State.setCe, State.ce]

/-! ### The outcomes of a row -/

theorem rowExec_null (s : State) (dir : BitVec 4) (legal : RowCtx → Bool) (f : RowCtx → State) (h : s.curRow = none) :
    rowExec s dir legal f = .next s := by rw [rowExec, h]

theorem rowExec_live (s : State) (c : RowCtx) (dir : BitVec 4) (legal : RowCtx → Bool) (f : RowCtx → State)
    (h : s.curRow = some c) (hd : ¬(dir = 14 ∧ c.sl % 6 = 0)) (hl : legal c = true) :
    rowExec s dir legal f = .next (f c) := by
  rw [rowExec, h]; simp only [hl]; rw [if_neg (by simpa using hd)]

theorem rowExec_ill (s : State) (c : RowCtx) (dir : BitVec 4) (legal : RowCtx → Bool) (f : RowCtx → State)
    (h : s.curRow = some c) (hd : (dir = 14 ∧ c.sl % 6 = 0) ∨ legal c = false) :
    rowExec s dir legal f = .next (s.rowIll c) := by
  rw [rowExec, h]; exact if_pos (hd.imp id (fun h => by rw [h]; rfl))

/-! ### The outcomes of a node entry -/

theorem entryExec_null (s : State) (i : Instr) (f : RowCtx → Except NFault State) (h : s.curRow = none) :
    entryExec s i f = .next s := by rw [entryExec, h]

theorem entryExec_ill (s : State) (c : RowCtx) (i : Instr) (f : RowCtx → Except NFault State) (h : s.curRow = some c)
    (m : s.mnIllegal c i = true) : entryExec s i f = .next (s.mnFault c ⟨tILL, s.mnEntry c, 0, 0⟩) := by
  rw [entryExec, h]; exact if_pos m

theorem entryExec_freeze (s : State) (c : RowCtx) (i : Instr) (f : RowCtx → Except NFault State) (h : s.curRow = some c)
    (m : s.mnIllegal c i = false) (k : s.mnCause c i = true) :
    entryExec s i f = .next (s.freeze c.d c.reg c.r c.sl false) := by
  rw [entryExec, h]; simp [m, k]

theorem entryExec_ok (s t : State) (c : RowCtx) (i : Instr) (f : RowCtx → Except NFault State) (h : s.curRow = some c)
    (m : s.mnIllegal c i = false) (k : s.mnCause c i = false) (r : f c = .ok t) : entryExec s i f = .next t := by
  rw [entryExec, h]; simp [m, k, r]

theorem entryExec_fault (s : State) (c : RowCtx) (i : Instr) (f : RowCtx → Except NFault State) (e : NFault)
    (h : s.curRow = some c) (m : s.mnIllegal c i = false) (k : s.mnCause c i = false) (r : f c = .error e) :
    entryExec s i f = .next (s.mnFault c e) := by
  rw [entryExec, h]; simp [m, k, r]

/-! ### Streams -/

/-- A command accepted by an engine with its ticket in D: one write of the executing die. -/
theorem setEngine_ret (s : State) (n : Nat) (e : Engine) (d : BitVec 6) (v : Word) :
    (s.setEngine s.cdie n e).ret d v = s.setDie s.cdie { s.die s.cdie with
      engines := tset {} (s.die s.cdie).engines n e, core := { s.cc.set d v with pc := s.cc.pc + 4 } } := by
  unfold State.setEngine; rw [State.ret_setDie]; rfl

end Sys2Proof.Machine
end

