-- ==== Sys2Proof/Tests/Slice0.lean ====
section
/-! SUPPORT. Tests on small states: ill-formed terms, words written out from the spec's encodings, one step of instructions
with results taken from the rules, and a state for the hypotheses of every statement that has some. -/

namespace Sys2Proof.Tests

set_option Elab.async false

open Sys2Proof.Machine

/-! ### Well-formedness: one ill-formed term per check, and words that must be refused -/

theorem test_ill_formed : ([
    (.copy 0 0 3, .guard), (.copy 0 15 0, .direction), (.xpt 0 8 0 0, .register), (.fadd 0 0 0 0 1, .modifier),
    (.fadd 0 0 0 0 8, .modifier), (.fcmp 0 0 0 0 8, .modifier), (.iadd 0 0 0 0 3, .modifier), (.imad 0 0 0 0 0 2, .modifier),
    (.vshl 0 0 0 0 0 0, .unusedField), (.vshl 0 0 0 0 0 1, .unusedField), (.isum 0 0 3, .modifier), (.bscl 0 0 0 1, .unusedField),
    (.bscl 0 31 0 3, .modifier), (.iter 0 0 3, .modifier), (.lds 13 0 0 0 0, .lane), (.lds 0 3 0 0 0, .guard),
    (.lds 0 0 0 0 64, .shelf), (.sts 0 0 0 0, .lane), (.sts 16 0 0 0, .lane), (.ldx 0 0 7 0 0 0 0, .size),
    (.ldx 0 0 0 2 0 0 0, .register), (.drd 0 0 8 0, .scope), (.shpub 64, .shelf), (.mfence 5 0x220100, .scope),
    (.mfence 0 0x220000, .fenceSet), (.mfence 0 0x080100, .fenceSet), (.xmm 0 0 64 0 1 0, .shelf), (.xmm 0 0 0 64 1 0, .shelf),
    (.xmm 0 0 0 0 0 0, .size), (.xwb 0 0 0 0 12 0 0 0 0, .size), (.xwb 0 0 0 0 0 1 0 0 0, .unusedField),
    (.xwb 0 0 0 1 0 0 0 0 0, .unusedField), (.xdfin 0 1 0 0 0 0, .unusedField), (.xsta 0 0 1 0 1, .unusedField),
    (.add 0 0 0 8, .guard), (.shli 0 0 64, .immediate), (.mov 1 1 0 0, .width), (.mov 2 0 2 0, .width), (.cmp 0 0 0 0 0, .predicate),
    (.cmpi 0 0 0 0, .predicate), (.plog 0 0 0 0 0, .predicate), (.ld 1 2 0 2 0 0, .width), (.ld 1 1 0 3 0 0, .width),
    (.amadd 1 0 0 0 0, .size), (.amcas 3 0 0 1 0, .width), (.fence 0 1 0, .fenceSet), (.fence 1 0 0, .fenceSet),
    (.fence 1 1 5, .scope), (.scpy 0 4 0 0, .width), (.nbop 0 2 0, .width), (.xcmd 0 1 0, .width), (.rdsys 0 4, .register),
    (.wrsys 0 0x23, .register), (.waite 5 5 0, .register)] : List (Instr × Defect)).all
    (fun e => decide (defect e.1 = some e.2)) = true := by decide +kernel

/-- Reserved opcodes, unused fields that are not what R7, R53, R119, R122 and R128 require. -/
theorem test_refused_words :
    ([(0x02000000 : BitVec 32), 0x01FFFC01, 0x020FFC01, 0x1A000000, 0x2000FDC1, 0xB3FFFC10].all
      (fun w => (decoded (decodeRow w)).isNone)) = true ∧
    ([(0x00000010 : BitVec 32), 0x01431050, 0x1B000000, 0x20800000, 0x38054060, 0x3E000000, 0x56000000, 0x6A000000, 0xFF000000].all
      (fun w => (decoded (decodeCore w 0)).isNone)) = true ∧
    ([(0x2C00000000000000 : BitVec 64), 0x0420200100000001, 0x0420300000000000, 0x0000000000000001].all
      (fun w => (decoded (decodeMn w)).isNone)) = true ∧
    ([(0x2C00000000000000 : BitVec 64), 0x0800000000F80001, 0x0800010000F80000, 0x1801020201F80820].all
      (fun w => (decoded (decodeXn w)).isNone)) = true := by decide +kernel

/-! ### One word per encoding, written from the encoding tables of the spec (R53, R117, R121, R123 to R130) -/

def coreWord (w : BitVec 32) : Except Defect Instr := decodeCore w 0

theorem test_words_move : ([
    (0x01FFFC00, .nop), (0x031FFD60, .copy 17 5 2), (0x051F9960, .xpt 17 6 5 2), (0x0714FD41, .sel 17 9 5 1),
    (0x091FD962, .bcst 17 22 5 2 2), (0x0B14FD60, .shuf 17 9 5 2), (0x0D14FD61, .zip 17 9 5 2 1),
    (0x0F14FD61, .unz 17 9 5 2 1), (0x111FFC00, .pmov 17), (0x13FFFD60, .pget 5 2), (0x151FFC01, .pand 17 1),
    (0x171FFC01, .por 17 1), (0x191FFC01, .pxor 17 1), (0xB1FFFD62, .iter 5 2 2), (0xB3FFFC00, .done)] : List (BitVec 32 × Instr)).all
    (fun e => decide (decoded (decodeRow e.1) = some e.2)) = true := by decide +kernel

theorem test_words_float : ([
    (0x2114FD66, .fadd 17 9 5 2 6), (0x2314FD66, .fsub 17 9 5 2 6), (0x2514FD66, .fmul 17 9 5 2 6),
    (0x2714D966, .fma 17 9 22 5 2 6), (0x2914FD60, .fmax 17 9 5 2), (0x2B14FD60, .fmin 17 9 5 2),
    (0x2D1FFD60, .fabs 17 5 2), (0x2F1FFD60, .fneg 17 5 2), (0x3114FD65, .fcmp 17 9 5 2 5),
    (0x3314D960, .fclip 17 9 22 5 2), (0x3514FD66, .fscl 17 9 5 2 6), (0x371FFD66, .frcp 17 5 2 6),
    (0x391FFD66, .frsq 17 5 2 6), (0x3B1FFD66, .fexp2 17 5 2 6), (0x3D1FFD66, .flog2 17 5 2 6),
    (0x3F1FFD66, .ftanh 17 5 2 6), (0x411FFD66, .fsig 17 5 2 6), (0x431FFD66, .ftab 17 5 2 1 2),
    (0x451FFD46, .fsumO 17 5 6), (0x471FFD46, .fsumU 17 5 6), (0x491FFD40, .fmaxr 17 5),
    (0x4B14FD46, .fdotO 17 9 5 6), (0x4D14FD46, .fdotU 17 9 5 6)] : List (BitVec 32 × Instr)).all
    (fun e => decide (decoded (decodeRow e.1) = some e.2)) = true := by decide +kernel

theorem test_words_integer : ([
    (0x6114FD62, .iadd 17 9 5 2 2), (0x6314FD62, .isub 17 9 5 2 2), (0x6514FD62, .imul 17 9 5 2 2),
    (0x6714D961, .imad 17 9 22 5 2 1), (0x6914FD61, .imin 17 9 5 2 1), (0x6B14FD61, .imax 17 9 5 2 1),
    (0x6D14FD60, .vand 17 9 5 2), (0x6F14FD60, .vor 17 9 5 2), (0x7114FD60, .vxor 17 9 5 2),
    (0x7314FD60, .vandn 17 9 5 2), (0x7514FD60, .vshl 17 9 31 5 2 0), (0x771FD961, .vshr 17 31 22 5 2 1),
    (0x7914FD60, .vsar 17 9 31 5 2 0), (0x7B14FD67, .icmp 17 9 5 2 7), (0x7D1FFD60, .popc 17 5 2),
    (0x7F1FFD60, .clz 17 5 2), (0x811FFD42, .isum 17 5 2), (0x831FFD61, .iabs 17 5 2 1),
    (0x851FA561, .isat 17 9 5 2 1)] : List (BitVec 32 × Instr)).all
    (fun e => decide (decoded (decodeRow e.1) = some e.2)) = true := by decide +kernel

theorem test_words_block : ([
    (0x911FD966, .cvt 17 22 5 2 6), (0x9314FD46, .req 17 9 5 6), (0x951FFD42, .bscl 17 31 5 2),
    (0x9714FD40, .pack 17 9 5), (0x991FFD41, .unpk 17 5 1), (0x9B1FD960, .qdec 17 22 5 2),
    (0x9D14D946, .qenc 17 9 22 5 6)] : List (BitVec 32 × Instr)).all
    (fun e => decide (decoded (decodeRow e.1) = some e.2)) = true := by decide +kernel

theorem test_words_coreAlu : ([
    (0x0000000B, .cnop 11), (0x011595AB, .add 21 37 26 11), (0x021596A5, .addi 21 37 677),
    (0x031595AB, .sub 21 37 26 11), (0x041595AB, .mul 21 37 26 11), (0x051595AB, .mulh 21 37 26 11),
    (0x061595AB, .divu 21 37 26 11), (0x071595AB, .divs 21 37 26 11), (0x081595AB, .and 21 37 26 11),
    (0x091596A5, .andi 21 37 677), (0x0A1595AB, .or 21 37 26 11), (0x0B1596A5, .ori 21 37 677),
    (0x0C1595AB, .xor 21 37 26 11), (0x0D1596A5, .xori 21 37 677), (0x0E1595AB, .shl 21 37 26 11),
    (0x0F15943F, .shli 21 37 63), (0x101595AB, .shr 21 37 26 11), (0x1115943F, .shri 21 37 63),
    (0x121595AB, .sar 21 37 26 11), (0x1315943F, .sari 21 37 63), (0x141595AB, .min 21 37 26 11),
    (0x151595AB, .max 21 37 26 11), (0x161595AB, .csel 21 37 26 11), (0x17C8400B, .mov 3 8 16 11),
    (0x181502A5, .movi 21 677)] : List (BitVec 32 × Instr)).all
    (fun e => decide (decoded (coreWord e.1) = some e.2)) = true := by decide +kernel

theorem test_words_coreFlow : ([
    (0x1C2E95AB, .cmp 5 6 37 26 11), (0x1D2E96A5, .cmpi 5 6 37 677), (0x1E2B107B, .plog 5 3 4 7 11),
    (0x20B9ABCD, .br 11 633805), (0x21B9ABCD, .call 11 633805), (0x2200000B, .ret 11), (0x2300940B, .jmpr 37 11),
    (0x240ABCDE, .loop 2 179422)] : List (BitVec 32 × Instr)).all
    (fun e => decide (decoded (coreWord e.1) = some e.2)) = true := by decide +kernel

theorem test_words_coreMemory : ([
    (0x281A999B, .ld 0 26 38 1 9 11), (0x298C9B9B, .st 2 12 38 3 9 11), (0x2AD595AB, .amadd 3 21 37 26 11),
    (0x2BD595AB, .amand 3 21 37 26 11), (0x2CD595AB, .amor 3 21 37 26 11), (0x2DD595AB, .ammin 3 21 37 26 11),
    (0x2ED595AB, .ammax 3 21 37 26 11), (0x2FD595AB, .amxch 3 21 37 26 11), (0x30D595AB, .amcas 3 21 37 26 11),
    (0x31834160, .fence 131 65 3), (0x329595AB, .waitv 2 21 37 26 11)] : List (BitVec 32 × Instr)).all
    (fun e => decide (decoded (coreWord e.1) = some e.2)) = true := by decide +kernel

theorem test_words_coreFabric : ([
    (0x38D5A1AB, .sbind 21 40 26 11), (0x39D5A1AB, .sstg 21 40 26 11), (0x3AD5A1AB, .sevc 21 40 26 11),
    (0x3BD5A1AB, .scpy 21 40 26 11), (0x3C15940B, .swait 21 37 11), (0x3D15940B, .sstat 21 37 11),
    (0x4015940B, .cfgl 21 37 11), (0x4155A80B, .cfgp 21 42 11), (0x4200940B, .go 37 11), (0x4315000B, .drain 21 11),
    (0x4400000B, .pbar 11), (0x4555A80B, .xcmd 21 42 11), (0x4600940B, .xwait 37 11), (0x471595AB, .coll 21 37 26 11),
    (0x48D5A00B, .ddecl 21 40 11), (0x4915940B, .ddrop 21 37 11), (0x4A00940B, .dwait 37 11),
    (0x501595AB, .ropen 21 37 26 11), (0x5100940B, .rclose 37 11), (0x5295B00B, .nbop 21 44 11),
    (0x5315940B, .nbred 21 37 11), (0x5415940B, .optm 21 37 11), (0x5515940B, .nbstat 21 37 11),
    (0x5855A80B, .tload 21 42 11), (0x5955A9AB, .rdig 21 42 26 11)] : List (BitVec 32 × Instr)).all
    (fun e => decide (decoded (coreWord e.1) = some e.2)) = true := by decide +kernel

theorem test_words_coreSystem : ([
    (0x601502A5, .qfeat 21 677), (0x61150012, .rdsys 21 18), (0x62009440, .wrsys 37 64), (0x630002A5, .trap 677),
    (0x6400000B, .eret 11), (0x6500000B, .halt 11), (0x6615940B, .waite 21 37 11), (0x671595AB, .sendt 21 37 26 11),
    (0x681595AB, .keyld 21 37 26 11), (0x691595AB, .attq 21 37 26 11)] : List (BitVec 32 × Instr)).all
    (fun e => decide (decoded (coreWord e.1) = some e.2)) = true := by decide +kernel

theorem test_words_memoryNode : ([
    (0x0000000000000000, .mnop),
    (0x0590E03F00000000, .lds 12 2 3 1 63),
    (0x09E880FF00000000, .sts 15 1 2 0xFF),
    (0x0CEE6005FFFFFFF8, .ldx 7 1 6 1 1 5 0xFFFFFFF8),
    (0x11A24006FFFFFFF8, .stx 13 0 2 1 6 0xFFFFFFF8),
    (0x15D14007FFFFFFF8, .amoO 14 2 1 1 7 0xFFFFFFF8),
    (0x186E4009FFFFFFF8, .amoU 3 1 6 1 9 0xFFFFFFF8),
    (0x1D90070012345678, .drd 12 2 7 0x12345678),
    (0x2000003D00000000, .shpub 61),
    (0x2400003E00000000, .shrel 62),
    (0x2800040000220100, .mfence 4 0x220100),
    (0x0420200000000000, .lds 1 0 0 1 0),
    (0x09A000FF00000000, .sts 13 0 0 0xFF),
    (0x0448200200000000, .lds 2 1 0 1 2),
    (0x044040FF00000000, .lds 2 0 1 0 0xFF),
    (0x1C80010000000040, .drd 4 0 1 0x40),
    (0x0850400400000000, .sts 2 2 1 4),
    (0x0CE240FF00000100, .ldx 7 0 2 1 0 0xFF 0x100),
    (0x102200FF00000080, .stx 1 0 2 0 0xFF 0x80),
    (0x2800010000022000, .mfence 1 0x22000),
    (0x146A000300000040, .amoO 3 1 2 0 3 0x40)] : List (BitVec 64 × Instr)).all
    (fun e => decide (decoded (decodeMn e.1) = some e.2)) = true := by decide +kernel

theorem test_words_matrixNode : ([
    (0x0000000000000000, .xnop),
    (0x06C80B0C82FB0000, .xmm 2 200 11 12 130 0xFB),
    (0x0B04000000EC0000, .xclr 3 4 0xEC),
    (0x0D09001505000017, .xwb 1 9 0 21 5 1 1 1 1),
    (0x100914150580B000, .xdnd 9 20 21 5 0x80 5 2),
    (0x140914000080B808, .xdfin 9 20 0x80 5 3 1),
    (0x180914150580B000, .xdbx 9 20 21 5 0x80 5 2),
    (0x1C0914150580B000, .xdbw 9 20 21 5 0x80 5 2),
    (0x2000212200000000, .xtrq 33 34),
    (0x2707090000000000, .xsta 3 7 9 0 0),
    (0x2B07000900000001, .xlda 3 7 0 9 1),
    (0x0800000000F80000, .xclr 0 0 0xF8),
    (0x0A03000000EC0000, .xclr 2 3 0xEC),
    (0x0E09050003000016, .xwb 2 9 5 0 3 1 1 1 0),
    (0x0C03000100000001, .xwb 0 3 0 1 0 0 0 0 1),
    (0x1805020201F80800, .xdbx 5 2 2 1 0xF8 0 1),
    (0x1C06010201F85000, .xdbw 6 1 2 1 0xF8 2 2),
    (0x1402010000F80808, .xdfin 2 1 0xF8 0 1 1),
    (0x0505030401EC0000, .xmm 1 5 3 4 1 0xEC),
    (0x2000040700000000, .xtrq 4 7),
    (0x2507000600000001, .xsta 1 7 0 6 1),
    (0x2908020000000000, .xlda 1 8 2 0 0)] : List (BitVec 64 × Instr)).all
    (fun e => decide (decoded (decodeXn e.1) = some e.2)) = true := by decide +kernel

/-- The words that the reference entries of spec/ print beside their assembler text. -/
theorem test_words_printed : ([
    (0x02030FFE, .addi 3 3 0x3FE), (0x0103105A, .add 3 4 5 10), (0x60050002, .qfeat 5 2), (0x63000005, .trap 5),
    (0x64000000, .eret 0), (0x61050012, .rdsys 5 0x12), (0x62001838, .wrsys 6 0x38), (0x67051870, .sendt 5 6 7 0),
    (0x66051800, .waite 5 6 0), (0x68051870, .keyld 5 6 7 0), (0x69051870, .attq 5 6 7 0), (0x65000001, .halt 1),
    (0x3BC64070, .scpy 6 16 7 0), (0x42002400, .go 9 0), (0x430A0000, .drain 10 0), (0x44000000, .pbar 0),
    (0x45452800, .xcmd 5 10 0), (0x46001C00, .xwait 7 0), (0x47063070, .coll 6 12 7 0), (0x48C54000, .ddecl 5 16 0),
    (0x49051800, .ddrop 5 6 0), (0x4A001C00, .dwait 7 0), (0x50051870, .ropen 5 6 7 0), (0x51001800, .rclose 6 0),
    (0x52852000, .nbop 5 8 0), (0x53051800, .nbred 5 6 0), (0x54051800, .optm 5 6 0), (0x55081C00, .nbstat 8 7 0),
    (0x594528C0, .rdig 5 10 12 0), (0x06031050, .divu 3 4 5 0), (0x07031051, .divs 3 4 5 1),
    (0x17010C01, .mov 0 1 3 1), (0x2AC32840, .amadd 3 3 10 4 0), (0x30C51880, .amcas 3 5 6 8 0),
    (0x32065150, .waitv 0 6 20 21 0), (0x08010830, .and 1 2 3 0), (0x09134CFF, .andi 19 19 255),
    (0x40051800, .cfgl 5 6 0), (0x41452800, .cfgp 5 10 0), (0x1C1C1051, .cmp 3 4 4 5 1), (0x1D107801, .cmpi 2 0 30 1),
    (0x1D091400, .cmpi 1 1 5 0), (0x1601083C, .csel 1 2 3 12), (0x31022020, .fence 2 32 1), (0x23001800, .jmpr 6 0),
    (0x28C80F80, .ld 3 8 3 3 8 0), (0x280C2900, .ld 0 12 10 1 0 0), (0x181303E8, .movi 19 0x3E8),
    (0x1E180420, .plog 3 0 1 2 0), (0x1E0A0442, .plog 1 2 1 4 2), (0x22000001, .ret 1), (0x13031007, .sari 3 4 7),
    (0x38C54060, .sbind 5 16 6 0), (0x3AC64070, .sevc 6 16 7 0), (0x3D081800, .sstat 8 6 0),
    (0x39C64070, .sstg 6 16 7 0), (0x29D03700, .st 3 16 13 3 0 0), (0x29144310, .st 0 20 16 3 1 0),
    (0x58452800, .tload 5 10 0), (0x2A832840, .amadd 2 3 10 4 0)] : List (BitVec 32 × Instr)).all
    (fun e => decide (decoded (coreWord e.1) = some e.2)) = true := by decide +kernel

theorem test_words_printed_rows : ([
    (0x2000FDC0, .fadd 0 1 7 0 0), (0x36DFFC05, .frcp 13 0 0 5), (0xB1FFFD02, .iter 4 0 2), (0x7EDFFE00, .clz 13 8 0),
    (0x3406FC00, .fscl 0 13 0 0 0), (0x448FFF40, .fsumO 8 13 0), (0x420FFC06, .ftab 0 0 0 1 2),
    (0x60077C40, .iadd 0 14 1 0 0), (0x64DD7C01, .imul 13 26 0 0 1), (0x16DFFC01, .por 13 1),
    (0x32DCE800, .fclip 13 25 26 0 0), (0x823FFC40, .iabs 3 1 0 0), (0x840F9C00, .isat 0 7 0 0 0),
    (0x9A0F8480, .qdec 0 1 2 0), (0x980FFC01, .unpk 0 0 1), (0x78077C00, .vsar 0 14 31 0 0 0),
    (0x740F8C41, .vshl 0 31 3 1 0 1), (0x04EF8000, .xpt 14 0 0 0), (0xB3FFFC00, .done), (0x4A077C40, .fdotO 0 14 1 0),
    (0x2614E4D0, .fma 1 9 25 3 1 0), (0x6600E400, .imad 0 1 25 0 0 0), (0x9207FC40, .req 0 15 1 0),
    (0x0C00FC41, .zip 0 1 1 0 1), (0x9400FD80, .bscl 0 1 6 0), (0x7A00FC02, .icmp 0 1 0 0 2),
    (0x9C008B40, .qenc 0 1 2 13 0), (0x0E00FC01, .unz 0 1 0 0 1), (0x802FFC41, .isum 2 1 1),
    (0x0600FC40, .sel 0 1 1 0), (0x01FFFC00, .nop)] : List (BitVec 32 × Instr)).all
    (fun e => decide (decoded (decodeRow e.1) = some e.2)) = true := by decide +kernel

theorem test_words_two_word :
    decoded (decodeCore 0x19050000 0x4B800003) = some (.movl 5 0 0x4B800003) ∧
    decoded (decodeCore 0x1A050009 0x10000000) = some (.movh 5 9 0x10000000) := by decide +kernel

/-! ### Control core -/

/-- The core of die 0 in a running launch, in K mode, with some registers. -/
def core0 (regs : List (BitVec 6 × Nat)) : State :=
  let s := State.reset.placeCore 0
  s.setCc (regs.foldl (fun c r => c.set r.1 (BitVec.ofNat 64 r.2)) s.cc)

/-- The same in S mode. -/
def core1 (regs : List (BitVec 6 × Nat)) : State := (core0 regs).setCc { (core0 regs).cc with smode := true }

def ran (i : Instr) (s : State) : Option State :=
  match exec i s with
  | .next t => some t
  | _ => none

/-- A register after one instruction. -/
def regAfter (i : Instr) (s : State) (r : BitVec 6) : Option Nat := (ran i s).map (fun t => (t.cc.get r).toNat)

/-- Code, value and saved pc of the trap one instruction takes, and the new mode. -/
def trapAfter (i : Instr) (s : State) : Option (Nat × Nat × Nat × Bool) :=
  (ran i s).map (fun t => (t.cc.trapc.toNat, t.cc.trapval.toNat, t.cc.trappc.toNat, t.cc.smode))

def m1 : Nat := 2 ^ 64 - 1

/-- Sources a4 and a5, result in a3 (R254 to R258, R268, R271, R275, R313, R316 to R319, R344, R358, R375). -/
theorem test_alu : ([
    (.add 3 4 5 0, m1, 2, 1), (.addi 3 4 0x3FE, 1, 0, m1), (.sub 3 4 5 0, 0, 1, m1), (.mul 3 4 5 0, 2 ^ 63, 3, 2 ^ 63),
    (.mulh 3 4 5 0, m1, m1, m1 - 1), (.divu 3 4 5 0, m1 - 6, 2, 0x7FFFFFFFFFFFFFFC), (.divs 3 4 5 0, m1 - 6, 2, m1 - 2),
    (.divs 3 4 5 0, 2 ^ 63, m1, 2 ^ 63), (.and 3 4 5 0, 12, 10, 8), (.andi 3 4 0x3F0, 0x123, 0, 0x120), (.or 3 4 5 0, 12, 10, 14),
    (.ori 3 4 0x200, 1, 0, m1 - 510), (.xor 3 4 5 0, 12, 10, 6), (.xori 3 4 0x3FF, 5, 0, m1 - 5), (.shl 3 4 5 0, 3, 65, 6),
    (.shli 3 4 63, 3, 0, 2 ^ 63), (.shr 3 4 5 0, 2 ^ 63, 127, 1), (.shri 3 4 1, m1, 0, 2 ^ 63 - 1), (.sar 3 4 5 0, 2 ^ 63, 62, m1 - 1),
    (.sari 3 4 4, m1 - 15, 0, m1), (.min 3 4 5 0, m1, 1, m1), (.max 3 4 5 0, m1, 1, 1), (.csel 3 4 5 0, 7, 8, 7),
    (.csel 3 4 5 12, 7, 8, 7), (.csel 3 4 5 4, 7, 8, 8), (.mov 0 3 4 0, 9, 0, 9), (.movi 3 0x3E8, 0, 0, m1 - 23), (.movl 3 0 0x80000000, 0, 0, 2 ^ 31),
    (.movh 3 0 0x80000001, 0, 0, 2 ^ 63 + 2 ^ 32 + 77)] : List (Instr × Nat × Nat × Nat)).all
    (fun e => decide (regAfter e.1 (core0 [(3, 77), (4, e.2.1), (5, e.2.2.1)]) 3 = some e.2.2.2)) = true := by decide +kernel

/-- A move of two registers onto the pair above reads all sources first (R316). -/
theorem test_mov_wide : regAfter (.mov 1 6 4 0) (core0 [(4, 1), (5, 2), (6, 3)]) 6 = some 1 ∧
    regAfter (.mov 1 6 4 0) (core0 [(4, 1), (5, 2), (6, 3)]) 7 = some 2 := by decide +kernel

/-- Predicates after one instruction (R125, R267, R332). -/
theorem test_predicates : ([
    (.cmp 3 2 4 5 0, 0b00001001), (.cmp 3 4 4 5 0, 0b00000001), (.cmpi 2 7 5 0x3FF, 0b00000101), (.cmpi 2 3 4 0, 0b00000001),
    (.plog 3 3 0 1 0, 0b00001001), (.plog 1 6 0 0 0, 0b00000001)] : List (Instr × Nat)).all
    (fun e => decide ((ran e.1 (core0 [(4, m1), (5, 1)])).map (fun t => t.cc.p.toNat) = some e.2)) = true := by decide +kernel

/-- The pc after one instruction at pc 0x100 (R127, R261, R263, R306, R312, R342, R317). -/
theorem test_branches : ([
    (.br 0 0xFFFFE, 0xF8), (.br 1 0xFFFFE, 0x104), (.call 0 3, 0x10C), (.ret 0, 0x40), (.jmpr 4 0, 0x20), (.loop 5 0x3FFFF, 0xFC),
    (.loop 6 0x3FFFF, 0x104), (.cnop 9, 0x104), (.movl 3 1 0, 0x108), (.cnop 0, 0x104)] : List (Instr × Nat)).all
    (fun e => decide ((ran e.1 (let s := core0 [(4, 0x20), (5, 2), (6, 1), (63, 0x40)]
      s.setCc { s.cc with pc := 0x100 })).map (fun t => t.cc.pc.toNat) = some e.2)) = true := by decide +kernel

theorem test_call_link : regAfter (.call 0 3) (core0 []) 63 = some 4 ∧ regAfter (.loop 5 0) (core0 [(5, 0)]) 5 = some m1 := by
  decide +kernel

/-- Traps of the core's own instructions: TRAPC (source 3, PMODE 0), TRAPVAL, TRAPPC, mode S (R128, R233, R234, R275, R280,
R308, R340, R360). -/
theorem test_traps : ([
    (.divu 3 4 5 0, 0x312, 0, 0), (.trap 5, 0x314, 5, 4), (.ret 0, 0x303, 0x41, 0), (.eret 0, 0x302, 0, 0),
    (.ld 0 3 8 3 0 0, 0x303, 1, 0), (.st 0 3 9 0 0 0, 0x302, 6 * 2 ^ 60, 0), (.rdsys 3 0x20, 0x302, 0x20, 0),
    (.wrsys 3 0x39, 0x302, 0x39, 0), (.amadd 3 3 10 4 0, 0x305, 5 * 2 ^ 60, 0)] : List (Instr × Nat × Nat × Nat)).all
    (fun e => decide (trapAfter e.1 (core0 [(8, 1), (9, 6 * 2 ^ 60), (10, 5 * 2 ^ 60), (63, 0x41)]) =
      some (e.2.1, e.2.2.1, e.2.2.2, true))) = true := by decide +kernel

/-- ERET goes back to the mode and the pc that a trap saved (R234, R280); HALT stops the core (R296). -/
theorem test_trap_return : ((ran (.trap 5) (core0 [])).bind (ran (.eret 0))).map (fun t => (t.cc.pc.toNat, t.cc.smode)) = some (4, false) ∧
    (ran (.halt 0) (core0 [])).map (fun t => (t.cc.halted, t.cc.pc.toNat)) = some (true, 4) := by decide +kernel

/-- In S mode a7 names stack offset 64, whose eight bytes are 0x8000000000000005: what LD, ST and the atomics make of them
(R255, R308, R355). -/
def stackCore (regs : List (BitVec 6 × Nat)) : State :=
  ((ran (.st 0 8 7 3 0 0) (core1 ([(7, 6 * 2 ^ 60 + 64), (8, 2 ^ 63 + 5)] ++ regs))).map (fun t => { t.performStore 0 0 with stale := [] })).getD State.reset

def stackWord (t : State) : Nat := leNat (t.plainBytes (stackKey (linOf 64)) (some 0) 8)

theorem test_load_sizes : ([
    (.ld 0 3 7 0 7 0, 0x80), (.ld 0 3 7 1 0 0, 5), (.ld 0 3 7 2 1 0, 0x80000000), (.ld 0 3 7 3 0 0, 2 ^ 63 + 5)] :
    List (Instr × Nat)).all (fun e => decide (regAfter e.1 (stackCore []) 3 = some e.2)) = true := by decide +kernel

theorem test_stores : ([
    (.st 0 4 7 0 0 0, 2 ^ 63 + 0xFF), (.st 0 4 7 1 1 0, 2 ^ 63 + 5 + 0xFFFF0000), (.st 0 4 7 2 1 0, 0xFFFFFFFF00000005), (.st 0 4 7 3 0 1, 2 ^ 63 + 5)] :
    List (Instr × Nat)).all (fun e => decide ((ran e.1 (stackCore [(4, m1)])).map
      (fun t => (stackWord t, stackWord (t.performStore 0 0))) = some (2 ^ 63 + 5, e.2))) = true := by decide +kernel

/-- Old value in a3, new value in memory; the operand is a10 = −1. -/
theorem test_atomics : ([
    (.amadd 3 3 7 10 0, 2 ^ 63 + 5, 2 ^ 63 + 4), (.amadd 2 3 7 10 0, 5, 2 ^ 63 + 4), (.amand 3 3 7 11 0, 2 ^ 63 + 5, 4),
    (.amor 3 3 7 11 0, 2 ^ 63 + 5, 2 ^ 63 + 7), (.ammin 3 3 7 11 0, 2 ^ 63 + 5, 2 ^ 63 + 5), (.ammin 2 3 7 10 0, 5, 2 ^ 63 + 0xFFFFFFFF),
    (.ammax 3 3 7 11 0, 2 ^ 63 + 5, 6), (.amxch 2 3 7 11 0, 5, 2 ^ 63 + 6), (.amcas 2 3 7 12 0, 5, 2 ^ 63 + 9),
    (.amcas 3 3 7 12 0, 2 ^ 63 + 5, 2 ^ 63 + 5)] : List (Instr × Nat × Nat)).all
    (fun e => let s := stackCore [(10, m1), (11, 6), (12, 5), (13, 9)]
      decide (regAfter e.1 s 3 = some e.2.1 ∧ (ran e.1 s).map stackWord = some e.2.2)) = true := by decide +kernel

/-- WAITV completes on a value that fails its condition, and waits on one that meets it (R129, R366). -/
theorem test_waitv : regAfter (.waitv 0 3 7 10 0) (stackCore []) 3 = some (2 ^ 63 + 5) ∧
    (ran (.waitv 1 3 7 10 0) (stackCore [])).map (fun t => t.cc.pc.toNat) = some 4 ∧
    (ran (.waitv 2 3 7 8 0) (stackCore [])).map (fun t => t.cc.pc.toNat) = some 8 := by decide +kernel

/-- A fence completes at once without a store in flight, and with one it stands, while the core goes on (R208, R209, R289). -/
theorem test_fence : (ran (.fence 2 1 1) (core0 [])).map (fun t => (t.cc.pc.toNat, t.cc.fences.length)) = some (4, 0) ∧
    ((ran (.st 0 4 7 3 0 0) (core0 [(7, 2 ^ 60)])).bind (ran (.fence 2 1 1))).map (fun t => (t.cc.pc.toNat, t.cc.fences.length)) =
      some (8, 1) := by
  decide +kernel

/-- Feature words and system registers (R140, R235, R337, R340): QFEAT leaf 2 of G3; AGE_LIMIT 2^24; an ALARMP write. -/
theorem test_system_registers : regAfter (.qfeat 3 2) (core0 []) 3 = some 0x081018304008 ∧
    regAfter (.qfeat 3 7) (core0 []) 3 = some 0 ∧ regAfter (.rdsys 3 0x30) (core1 []) 3 = some (2 ^ 24) ∧
    ((ran (.wrsys 4 0x38) (core1 [(4, 3)])).map (fun t => t.mgmt.alarmLevel) = some 3) ∧
    ((ran (.wrsys 4 0x38) (core1 [(4, 1)])).map (fun t => t.mgmt.alarmLevel) = some 2) ∧
    ((ran (.wrsys 4 0x28) (core1 [(4, m1)])).map (fun t => t.cc.htab.toNat) = some 0xFFFFFFFFFE00) := by decide +kernel

/-- SENDT puts a token on its way, WAITE takes the oldest and jumps to its handler (R236, R365). -/
theorem test_tokens : regAfter (.sendt 5 6 7 0) (core0 [(6, 0), (7, 0x123)]) 5 = some 1 ∧
    (ran (.sendt 5 6 7 0) (core0 [(6, 0), (7, 0x123)])).map (fun t => t.cc.tokIn.map (·.word)) = some [0x123] ∧
    regAfter (.sendt 5 6 7 0) (core0 [(6, 1)]) 5 = some 3 ∧ regAfter (.sendt 5 6 7 0) (core0 [(7, 2 ^ 38)]) 5 = some 2 ∧
    (let s := core0 []
     (ran (.waite 5 6 0) (s.setCc { s.cc with evq := [(0x123, 0x80)] })).map
       (fun t => ((t.cc.get 5).toNat, (t.cc.get 6).toNat, t.cc.pc.toNat)) = some (0x123, 4, 0x80)) := by decide +kernel

/-- SCPY gives engine a7's ticket, SSTAT finds it pending and any other ticket unknown, SWAIT waits (R349, R352, R354). -/
theorem test_streams : regAfter (.scpy 6 16 7 0) (core0 [(7, 0x13)]) 6 = some (3 * 2 ^ 28 + 1) ∧
    ((ran (.scpy 6 16 7 0) (core0 [(7, 3)])).bind (fun t => regAfter (.sstat 8 6 0) t 8)) = some 0 ∧
    regAfter (.sstat 8 6 0) (core0 []) 8 = some 4 ∧ regAfter (.swait 8 6 0) (core0 []) 8 = some 4 ∧
    ((ran (.sevc 6 16 7 0) (core0 [])).bind (ran (.swait 8 6 0))).map (fun t => t.cc.pc.toNat) = some 4 ∧
    regAfter (.sbind 5 16 6 0) (core0 [(6, 0x40)]) 5 = some 2 ∧ regAfter (.sstg 6 16 7 0) (core0 []) 6 = some 1 := by decide +kernel

/-- Statuses of the fabric instructions (R264, R265, R295, R330, R359, R378, R175, R247). -/
theorem test_fabric_statuses : regAfter (.cfgl 5 6 0) (core0 [(6, 256)]) 5 = some 2 ∧ regAfter (.cfgl 5 6 0) (core0 [(6, 1)]) 5 = some 3 ∧
    regAfter (.cfgp 5 10 0) (core0 [(10, 6)]) 5 = some 2 ∧ regAfter (.cfgp 5 10 0) (core0 [(10, 0x40)]) 5 = some 3 ∧
    regAfter (.cfgp 5 10 0) (core0 [(10, 0x83), (11, 7)]) 5 = some 1 ∧
    (ran (.cfgp 5 10 0) (core0 [(10, 0x83), (11, 7)])).map (fun t => tget 0 ((t.die 0).shd.ceCfg 0 2).z 3) = some 7 ∧
    trapAfter (.go 9 0) (core0 [(9, 64)]) = some (0x307, 64, 0, true) ∧ trapAfter (.go 9 0) (core0 []) = some (0x307, 0, 0, true) ∧
    (ran (.drain 5 0) (core0 [])).map (fun t => ((t.die 0).token.isSome, t.cc.pc.toNat)) = some (true, 0) ∧
    (ran (.pbar 0) (core0 [])).map (fun t => (t.cc.pbars, t.cc.pc.toNat)) = some (1, 0) ∧
    regAfter (.xcmd 5 10 0) (core0 []) 5 = some 2 ∧ (ran (.xwait 7 0) (core0 [(7, 0xFF)])).map (fun t => t.cc.pc.toNat) = some 4 ∧
    regAfter (.tload 5 10 0) (core0 [(11, m1)]) 5 = some 3 ∧
    (ran (.coll 5 6 7 0) (core0 [(6, 2 ^ 60)])).map (fun t => (t.cc.colls, t.cc.pc.toNat)) = some (1, 0) := by decide +kernel

/-- Derived regions and digests (R273, R274, R279, R339): an undeclared index is 5, a wrong address 3, a reserved format 2;
SHAKE256 of no bytes begins with 46 B9 DD 2B. -/
theorem test_derived_statuses : regAfter (.ddrop 5 6 0) (core0 [(6, 4 * 2 ^ 60)]) 5 = some 5 ∧ regAfter (.ddrop 5 6 0) (core0 []) 5 = some 3 ∧
    regAfter (.ddecl 5 16 0) (core0 []) 5 = some 2 ∧ (ran (.dwait 7 0) (core0 [(7, 2 ^ 60)])).map (fun t => t.cc.pc.toNat) = some 4 ∧
    trapAfter (.dwait 7 0) (core0 []) = some (0x305, 0, 0, true) ∧ regAfter (.rdig 5 10 12 0) (core0 [(11, 12 * 2 ^ 32)]) 5 = some 2 ∧
    regAfter (.rdig 5 10 12 0) (core0 [(10, 5 * 2 ^ 60)]) 5 = some 3 ∧ (shake256 []).take 4 = [0x46, 0xB9, 0xDD, 0x2B] := by decide +kernel

/-- Drawers and base-die commands (R189, R194, R320, R322, R323, R338, R343). -/
theorem test_base_statuses : trapAfter (.rclose 6 0) (core0 []) = some (0x305, 0, 0, true) ∧
    trapAfter (.rclose 6 0) (core0 [(6, 5 * 2 ^ 60)]) = some (0x30B, 5 * 2 ^ 60, 0, true) ∧ regAfter (.nbstat 8 7 0) (core0 []) 8 = some 3 ∧
    regAfter (.nbred 5 6 0) (core0 [(6, 8)]) 5 = some 2 ∧ regAfter (.optm 5 6 0) (core0 [(6, 64)]) 5 = some 2 ∧
    regAfter (.ropen 5 6 7 0) (core0 [(6, 2 ^ 60)]) 5 = some 3 ∧ regAfter (.ropen 5 6 7 0) (core0 [(7, 2)]) 5 = some 2 ∧
    trapAfter (.ropen 5 6 7 0) (core0 [(6, 6 * 2 ^ 60)]) = some (0x302, 6 * 2 ^ 60, 0, true) := by decide +kernel

/-- KEYLD and ATTQ in S mode: a reserved bit is 2, a misaligned destination 2, no signature left 4 (R242, R245). -/
theorem test_keys : regAfter (.keyld 5 6 7 0) (core1 [(6, 2 ^ 20)]) 5 = some 2 ∧ regAfter (.keyld 5 6 7 0) (core1 [(6, 1)]) 5 = some 2 ∧
    regAfter (.attq 5 6 7 0) (core1 [(7, 4)]) 5 = some 2 ∧
    regAfter (.attq 5 6 7 0) { core1 [] with mgmt := { (core1 []).mgmt with sigs := 2 ^ 20 } } 5 = some 4 := by decide +kernel

/-! ### Element rows -/

/-- CE slot 2 of ring 0 in the one region of die 0, with formats FA and FD, rotating entries k0, k1, … and P. -/
def rowState (fa fd : Nat) (k : List Vec) (p : BitVec 64 := BitVec.allOnes 64) : State :=
  let s := State.reset.placeRow 2 (fun b => { b with ce := tset {} b.ce 2 { fcfg := BitVec.ofNat 32 (fa + 256 * fd), named := true } })
  let s := { s with cur := (0, 0, 2), agenda := [] }
  s.setCe 0 0 2 { k := ((List.range k.length).zip k).filter (fun e => e.2 != 0), p }

/-- What the row puts on its way: value, latency, flags of the CE. -/
def rowOut (i : Instr) (s : State) : Option (Vec × Nat × BitVec 6) :=
  (ran i s).bind (fun t => match (t.region 0 0).pipe with
    | [⟨lat, _, _, _, _, .result v _ _ _⟩] => some (v, lat, (t.ce 0 0 2).flags)
    | _ => none)

/-- The first lanes of the row's value, its latency and flags. -/
def rowLanes (n w : Nat) (i : Instr) (s : State) : Option (List Nat × Nat × Nat) :=
  (rowOut i s).map (fun o => ((List.range n).map (lane w o.1), o.2.1, o.2.2.toNat))

/-- FP32 rows on A = (1, −3), B = (2, 0.5), C = (1, 1): values, latencies of R58, flags INV 1, DZ 2, OVF 4, UNF 8, INX 16,
SAT 32 (R281 to R285, R291, R293). -/
theorem test_float_rows : ([
    (.fadd 0 1 0 0 0, [0x40400000, 0xC0200000], 4, 0), (.fsub 0 1 0 0 0, [0xBF800000, 0xC0600000], 4, 0),
    (.fmul 0 1 0 0 0, [0x40000000, 0xBFC00000], 4, 0), (.fma 0 1 2 0 0 0, [0x40400000, 0xBF000000], 4, 0),
    (.fmax 0 1 0 0, [0x40000000, 0x3F000000], 2, 0), (.fmin 0 1 0 0, [0x3F800000, 0xC0400000], 2, 0),
    (.fabs 0 0 0, [0x3F800000, 0x40400000], 2, 0), (.fneg 0 0 0, [0xBF800000, 0x40400000], 2, 0),
    (.fcmp 0 1 0 0 2, [0xFFFFFFFF, 0xFFFFFFFF], 2, 0), (.fclip 1 2 2 0 0, [0x3F800000, 0x3F800000], 4, 32)] :
    List (Instr × List Nat × Nat × Nat)).all
    (fun e => decide (rowLanes 2 32 e.1 (rowState 0 0 [ofLanes 32 [0x3F800000, 0xC0400000], ofLanes 32 [0x40000000, 0x3F000000],
      ofLanes 32 (List.replicate 16 0x3F800000)]) = some e.2)) = true := by decide +kernel

/-- FSCL by 2^3; a sum of sixteen ones in both orders, their dot product and maximum (R84, R248, R286, R287, R291, R292). -/
theorem test_reductions :
    let ones := ofLanes 32 (List.replicate 16 0x3F800000)
    rowLanes 1 32 (.fscl 0 1 0 0 0) (rowState 0 0 [ones, ofLanes 32 [3]]) = some ([0x41000000], 4, 0) ∧
    rowLanes 2 32 (.fsumO 0 0 0) (rowState 0 0 [ones]) = some ([0x41800000, 0], 6, 0) ∧
    rowLanes 2 32 (.fsumU 0 0 0) (rowState 0 0 [ones]) = some ([0x41800000, 0], 6, 0) ∧
    rowLanes 2 32 (.fdotO 0 0 0 0) (rowState 0 0 [ones]) = some ([0x41800000, 0], 6, 0) ∧
    rowLanes 2 32 (.fdotU 0 0 0 0) (rowState 0 0 [ones]) = some ([0x41800000, 0], 6, 0) ∧
    rowLanes 2 32 (.fmaxr 0 0) (rowState 0 0 [ofLanes 32 [0x3F800000, 0x40000000]]) = some ([0x40000000, 0], 6, 0) := by decide +kernel

/-- 0 × ∞ is NaN and sets INV; the largest FP32 plus itself overflows to ∞ with OVF and INX; FRCP of 0 is ∞ with DZ, FLOG2 of
−1 NaN with INV (R61, R72, R281). -/
theorem test_float_flags :
    rowLanes 1 32 (.fmul 0 1 0 0 0) (rowState 0 0 [ofLanes 32 [0x7F800000], 0]) = some ([0x7FC00000], 4, 1) ∧
    rowLanes 1 32 (.fadd 0 0 0 0 0) (rowState 0 0 [ofLanes 32 [0x7F7FFFFF]]) = some ([0x7F800000], 4, 20) := by decide +kernel

/-- INT8 rows on A = (100, 200 = −56), B = (100, 3): wrap, saturation with SAT, high half, comparison, shift, counts. -/
theorem test_integer_rows : ([
    (.iadd 0 1 0 0 0, [200, 203], 1, 0), (.iadd 0 1 0 0 1, [127, 203], 1, 32), (.iadd 0 1 0 0 2, [200, 203], 1, 0),
    (.isub 0 1 0 0 0, [0, 197], 1, 0), (.isub 1 0 0 0 2, [0, 0], 1, 32), (.imul 0 1 0 0 0, [16, 88], 3, 0),
    (.imul 0 1 0 0 1, [39, 255], 3, 0), (.imul 0 1 0 0 2, [39, 2], 3, 0), (.imad 0 1 1 0 0 1, [127, 128], 3, 32),
    (.imin 0 1 0 0 0, [100, 200], 1, 0), (.imax 0 1 0 0 0, [100, 3], 1, 0), (.imax 0 1 0 0 1, [100, 200], 1, 0),
    (.vand 0 1 0 0, [100, 0], 1, 0), (.vor 0 1 0 0, [100, 203], 1, 0), (.vxor 0 1 0 0, [0, 203], 1, 0), (.vandn 0 1 0 0, [0, 200], 1, 0),
    (.vshl 0 31 1 0 0 1, [200, 144], 1, 0), (.vshr 0 1 31 0 0 0, [0, 25], 1, 0), (.vsar 0 1 31 0 0 0, [0, 249], 1, 0),
    (.icmp 0 1 0 0 2, [0, 255], 1, 0), (.icmp 0 1 0 0 4, [0, 0], 1, 0), (.popc 0 0 0, [3, 3], 1, 0), (.clz 0 0 0, [1, 0], 1, 0),
    (.isum 0 0 0, [44, 0], 6, 0), (.isum 0 0 1, [44, 0], 6, 0), (.isum 0 0 2, [44, 1], 6, 0), (.iabs 0 0 0 0, [100, 56], 1, 0),
    (.isat 0 4 0 0 0, [15, 240], 1, 32), (.isat 0 4 0 0 1, [31, 0], 1, 32)] : List (Instr × List Nat × Nat × Nat)).all
    (fun e => decide (rowLanes 2 8 e.1 (rowState 8 0 [ofLanes 8 [100, 200], ofLanes 8 [100, 3]]) = some e.2)) = true := by decide +kernel

/-- Moves on A = 0 … 15 and B = 100 … 115 in FP32 lanes (R260, R270, R305, R347, R351, R362, R331), with P = 1. -/
theorem test_move_rows : ([
    (.copy 0 0 0, [0, 1, 2], 1), (.sel 0 1 0 0, [0, 101, 102], 1), (.sel 0 1 0 1, [100, 1, 2], 1), (.bcst 0 9 0 0 0, [9, 9, 9], 1),
    (.shuf 0 2 0 0, [3, 0, 0], 2), (.zip 0 1 0 0 0, [0, 100, 1], 2), (.zip 0 1 0 0 1, [8, 108, 9], 2), (.unz 0 1 0 0 1, [1, 3, 5], 2),
    (.pget 0 0, [0xFFFFFFFF, 0, 0], 1), (.iter 0 0 0, [0, 0, 0], 1), (.iter 0 0 2, [0, 1, 2], 1)] : List (Instr × List Nat × Nat)).all
    (fun e => decide ((rowLanes 3 32 e.1 (rowState 10 0 [ofLanes 32 (List.range 16), ofLanes 32 ((List.range 16).map (· + 100)),
      ofLanes 32 [3, 0x80000001, 16]] 1)).map (fun o => (o.1, o.2.1)) = some e.2)) = true := by decide +kernel

/-- Rows that write P: bits 0 to 15 come from bit 0 of the lanes, PMOV and PAND clear the others, POR and PXOR keep them (R57,
R329, R333); XPT names its entry after the wrap (R376). -/
theorem test_predicate_rows : ([
    (.pmov 0, 2), (.pand 0 0, 2), (.pand 0 1, 0xFFFD), (.por 0 0, m1), (.pxor 0 0, m1 - 2)] : List (Instr × Nat)).all
    (fun e => decide ((ran e.1 (rowState 0 0 [ofLanes 32 [0, 1]])).map (fun t => (t.region 0 0).pipe.map (·.eff)) =
      some [.pred (BitVec.ofNat 64 e.2)])) = true ∧
    (ran (.xpt 0 3 0 0) (rowState 0 0 [5])).map (fun t => (t.region 0 0).pipe.map (·.eff)) =
      some [.rot 3 5 (BitVec.allOnes 512) 0] ∧
    ran .nop (rowState 0 0 []) = some (rowState 0 0 []) ∧
    (ran .done (rowState 0 0 [])).map (fun t => (t.region 0 0).done) = some true := by decide +kernel

/-- The conversion example of R272 (elements 16 to 20), narrowing FP32 to FP8 E4M3 as part 1. -/
theorem test_cvt : (rowOut (.cvt 0 1 1 0 0) (rowState 0 3 [ofLanes 32 [0x3FC00000, 0x4788B800, 0x7FC00000, 0x30800000]])).map
    (fun o => ((List.range 6).map (fun i => lane 8 o.1 (15 + i)), o.2.1, o.2.2.toNat)) =
    some ([0, 0x3C, 0x7E, 0x7F, 0x00, 0x00], 3, 0b111000) := by decide +kernel

/-- The table of R341, the scales of R262 and the QDEC example of R335. -/
theorem test_block_rows :
    let blk (sc : Nat) : Vec := ofLanes 8 ([0x3C, 0x7E, 0xC4] ++ List.replicate 53 0 ++ [sc])
    rowLanes 3 8 (.req 0 1 0 0) (rowState 12 12 [blk 0x80, 0x81]) = some ([0x34, 0x76, 0xBC], 3, 0) ∧
    rowLanes 3 8 (.req 0 1 0 0) (rowState 12 12 [blk 0x80, 0x7F]) = some ([0x44, 0x7E, 0xCC], 3, 32) ∧
    rowLanes 1 32 (.bscl 0 1 0 0) (rowState 18 0 [ofLanes 32 [0x447A0000], 0]) = some ([0x000801DC], 3, 0) ∧
    rowLanes 1 32 (.bscl 0 1 0 0) (rowState 12 0 [ofLanes 32 [0x447A0000], 0]) = some ([0x80], 3, 0) ∧
    rowLanes 2 16 (.qdec 0 0 0 0) (rowState 20 1 [ofLanes 32 ([0x8F] ++ List.replicate 13 0 ++ [3, 0x3F000000])]) =
      some ([0x3E00, 0x2C0A], 3, 16) := by decide +kernel

/-- PACK puts the scale above the elements, UNPK takes both apart (R328, R361); QENC of 1,000 under 0x000801DC is 448 (R336). -/
theorem test_pack_rows :
    (rowOut (.pack 0 1 0) (rowState 12 0 [BitVec.allOnes 512, 0x17F])).map (·.1.toNat) = some (2 ^ 256 - 1 + 0x7F * 2 ^ 448) ∧
    (rowOut (.unpk 0 0 0) (rowState 12 0 [BitVec.allOnes 512])).map (·.1.toNat) = some (2 ^ 256 - 1) ∧
    (rowOut (.unpk 0 0 1) (rowState 20 0 [BitVec.allOnes 512])).map (·.1.toNat) = some (0xFF + 0xFFFFFFFF * 2 ^ 32) ∧
    rowLanes 2 8 (.qenc 0 1 2 0 0) (rowState 0 18 [ofLanes 32 [0x447A0000], 0, 0x000801DC]) = some ([0x7E, 0], 3, 16) := by decide +kernel

/-- A reserved FA raises ILL, a table row without its table TABLE: TRAPC has source 0 (R60, R230, R294). -/
theorem test_row_faults : (ran (.copy 0 0 0) (rowState 21 0 [])).map (fun t => ((t.core 0).trapc.toNat, (t.region 0 0).fstop.map (·.code))) =
      some (0x001, some 1) ∧
    (ran (.ftab 0 0 0 0 0) (rowState 0 0 [])).map (fun t => (t.region 0 0).fstop.map (·.code)) = some (some 0x0A) := by decide +kernel

/-! ### Memory nodes and matrix nodes -/

/-- Node 0 of ring 0 (slot 1), mode ORDERED: cw0 holds `v` at its slot, ag0 reads 4 bytes from offset 0x40 in steps of 4, two
positions; shelf 3 is a valid buffer of 4 KiB at 0x1000 with TAG 5. -/
def nodeState (v : Vec) (mem : List Byte) (full : BitVec 8 := 1) : State :=
  let m : MnCfg := {
    ncfg := 2
    named := true
    ag := [(0, BitVec.ofNat 128 (4 * 2 ^ 64 + 2 ^ 24 + 2 * 2 ^ 21 + 0x40))]
    shelf := [(3, BitVec.ofNat 64 (5 * 2 ^ 48 + 2 ^ 42 + 2 ^ 32 + 0x1000))] }
  let s := State.reset.placeRow 1 (fun b => { b with mn := tset {} b.mn 1 m })
  let s := { s with cur := (0, 0, 1), agenda := [] }
  let s := s.setDie 0 { s.die 0 with lanes := if v = 0 then [] else [(laneKey 0 0 1, v)] }
  (s.setBuf 0 0 1 3 { full }).putBytes (sramKey 0 0 0 0x40) mem

def nodeMem (a n : Nat) (t : State) : Nat := leNat (t.bytes (sramKey 0 0 0 a) n)

/-- The value on its way to the read-data latch and the latency. -/
def nodeOut (i : Instr) (s : State) : Option (Nat × Nat) :=
  (ran i s).bind (fun t => match (t.region 0 0).pipe with
    | [⟨lat, _, _, _, _, .latch v _ _⟩] => some (v.toNat, lat)
    | _ => none)

/-- LDS and LDX read, STS and STX write at the generator's or the immediate's offset; a store into a shelf's producer buffer
stays in it (R94, R119, R310, R311, R356, R357). -/
theorem test_node_access :
    nodeOut (.lds 0 0 0 0 0xFF) (nodeState 0 [1, 2, 3, 4, 5]) = some (0x04030201, 4) ∧
    (ran (.lds 0 0 0 0 0xFF) (nodeState 0 [])).map (fun t => (t.mn 0 0 1).agpos) = some [(0, 1)] ∧
    nodeOut (.ldx 0 0 1 0 0 0xFF 0x42) (nodeState 0 [1, 2, 3, 4, 5]) = some (0x0403, 4) ∧
    (ran (.sts 1 0 0 0xFF) (nodeState 0x1122334455 [])).map (nodeMem 0x40 8) = some 0x22334455 ∧
    (ran (.stx 1 0 1 0 3 0x10) (nodeState 0x1122334455 [] 0)).map (nodeMem 0x1010 8) = some 0x4455 := by decide +kernel

/-- AMO.O add32 of all sixteen lanes of cw0, and the old value on its way (R256); a shelf is published with its counted tag
and an empty one not released (R94, R350). -/
theorem test_node_atomics :
    (ran (.amoO 1 0 0 0 0xFF 0x40) (nodeState (ofLanes 32 (List.replicate 16 3)) [7])).map (nodeMem 0x40 4) = some 55 ∧
    (ran (.amoU 1 0 5 0 0xFF 0x40) (nodeState (ofLanes 32 [3, 9]) [7])).map (nodeMem 0x40 4) = some 9 ∧
    (nodeOut (.amoO 1 0 6 0 0xFF 0x40) (nodeState (ofLanes 64 [8]) [7])).map (fun o => (o.1 % 2 ^ 64, o.2)) = some (7, 6) ∧
    (ran (.shpub 3) (nodeState 0 [] 0)).map (fun t => (t.region 0 0).pipe.map (·.eff)) = some [.pub 3 5] ∧
    (ran (.shrel 3) (nodeState 0 [])).map (fun t => (t.region 0 0).pipe.map (·.eff)) = some [.rel 3] ∧
    (ran (.shrel 3) (nodeState 0 [] 0)).map (fun t => (t.region 0 0).fstop.map (·.code)) = some (some 7) ∧
    ran .mnop (nodeState 0 []) = some (nodeState 0 []) ∧ ran (.mfence 0 0x020200) (nodeState 0 []) = some (nodeState 0 []) ∧
    (ran (.drd 0 0 1 0) (nodeState 0 [])).map (fun t => (t.region 0 0).fstop.map (·.code)) = some (some 5) := by decide +kernel

/-- XN slot 3 of ring 0 with FP8 E4M3 operands: shelf 1 of both nodes is a full buffer of 20 KiB at 0x8000, shelf 2
an empty one at 0x10000; element (0, 0) of
A is 1, of B 2. -/
def matrixState : State :=
  let m : MnCfg := {
    named := true
    shelf := [(1, BitVec.ofNat 64 (2 ^ 42 + 5 * 2 ^ 32 + 0x8000)), (2, BitVec.ofNat 64 (2 ^ 42 + 5 * 2 ^ 32 + 0x10000))] }
  let s := State.reset.placeRow 3 (fun b => { b with
    mn := tset {} (tset {} b.mn 1 m) 5 m
    xn := tset {} b.xn 3 { fcfg := 0x0303, named := true } })
  let s := { s with cur := (0, 0, 3), agenda := [] }
  let s := (s.setBuf 0 0 1 1 { full := 1 }).setBuf 0 0 5 1 { full := 1 }
  (s.setByte (sramKey 0 0 0 0x8000) 0x38).setByte (sramKey 0 0 1 0x8000) 0x40

/-- The instruction as the entry of the XN. -/
def matrixEntry (w : Word) : State :=
  let s := matrixState
  let x := s.die 0
  s.setDie 0 { x with act := { x.act with xn := tset {} x.act.xn 3 { x.act.xnCfg 0 3 with rows := if w = 0 then [] else [(0, w)] } } }

/-- The operation that the entry fires, as (cycles, EV of the entry); and the XN after it completes. -/
def fired (w : Word) : Option (List Nat × List (Nat × Byte)) :=
  (xnInstr w).bind (fun i => (ran i (matrixEntry w)).map (fun t => ((t.xn 0 0 3).flight.map (·.left), (t.xn 0 0 3).ev)))

def completed (w : Word) : Option Xn :=
  (xnInstr w).bind (fun i => (ran i (matrixEntry w)).bind (fun t =>
    let x := t.xn 0 0 3
    (ran (.xnCompletion 0 0 3 0) (t.setXn 0 0 3 { x with flight := x.flight.map (fun f => { f with left := 0, busy := 0 }) })).map
      (fun u => u.xn 0 0 3)))

/-- XCLR takes 2 cycles and sets the anchor, XMM 32 cycles for one step of 8-bit operands and adds 1 × 2 = 512 × 2^−8; XSTA 64,
XLDA 325, XWB to FP32 8 + 2 × 32 (R77, R169, R173, R174, R368, R373, R374). -/
theorem test_matrix_entries : ([
    (0x0800000000F80000, [2]), (0x0400010101000000, [32]), (0x2400020000000000, [64]), (0x2800010000000000, [325]), (0x0C00020000000000, [72]),
    (0, [])] : List (Word × List Nat)).all (fun e => decide ((fired e.1).map (·.1) = some e.2)) = true ∧
    (fired 0x2400020000000000).map (·.2) = some [(0, 1)] := by decide +kernel

theorem test_matrix_clear :
    (completed 0x0800000000F80000).map (·.anch) = some [(0, 0xF8)] ∧ (completed 0x0800000000F80000).map (·.v) = some [(0, 1)] := by decide +kernel

/-- One cell with anchor −8: 1 × 2 adds 512, and 0 × ∞ makes it NaN with INV (R77). -/
theorem test_matrix_cell :
    (Cell.accumulate {} (-8) none [((.fin 1, false), (.fin 2, false))]).1 = { x := 512 } ∧
    (Cell.accumulate {} (-8) none [((.zero false, false), (.inf false, false))]).1.st = 3 ∧
    (Cell.accumulate {} (-8) none [((.zero false, false), (.inf false, false))]).2.1 = true := by decide +kernel

/-- The dendritic entries need a map, and the transposition a block format with E8M0 scales: TABLE and ILL (R176, R181, R374). -/
theorem test_matrix_faults :
    ([(0x1000010101000000 : Word), 0x1400000000000000, 0x1800010101000000, 0x1C00010101000000, 0x2000010200000000].map
      (fun w => (xnInstr w).bind (fun i => (ran i (matrixEntry w)).bind (fun t => (t.region 0 0).fstop.map (·.code))))) =
    [some 0x0A, some 0x0A, some 0x0A, some 0x0A, some 1] := by decide +kernel

/-! ### Device steps -/

/-- Start-up opens the queues, or leaves its failure code in them (R13, R20). -/
def startUp (fail : Nat) (noLink : Bool := false) (px : Nat := 0) : Instr := .startUp ⟨fail, noLink, px, 0, px + 1, 1, [7]⟩
def started (fail : Nat) (noLink : Bool := false) (px : Nat := 0) : State := (ran (startUp fail noLink px) State.reset).getD State.reset

theorem test_start_up : ((started 0).queue 3).qstate = 1 ∧ (started 0).mgmt.linkUp = true ∧
    ((started 4).queue 15).qstate = 2 ∧ ((started 4).queue 15).booterr = 4 ∧ (started 7).mgmt.linkUp = false ∧
    (started 2).mgmt.linkUp = true ∧ (started 2 true).mgmt.linkUp = false ∧ ((started 2 true).queue 0).booterr = 2 ∧
    ((started 6 true).queue 0).booterr = 0 ∧ ((started 0 true).queue 0).qstate = 2 ∧ (started 0).mgmt.enrolled = [7] ∧
    ((started 0 false 1).mgmt.pkgX, (started 0 false 1).mgmt.meshW, (started 0 false 1).mgmt.meshH) = (1, 2, 1) ∧
    (ran (startUp 0) (started 0)).map (·.freeCtr) = some (started 0).freeCtr := by decide +kernel

/-- The host writes a record into slot 1 of queue 0: word 15 is NEXTSEQ 1, the record of one die names no valid image (R12,
R14 to R17). -/
def recordWords : List Word :=
  [0x01010001, 0x9000000000000000, 0, 0, 0x1000000, 0x9000000000001000, 0, 0, 0, 0, 0, 0, 0, 0, 0, 1]

def hostWrote : State :=
  let put (s : State) (k : Nat) : State :=
    (ran (.hostAccess true (2 ^ 39 + 2 ^ 40 + 0x80 + 64 * k) 64 (wordsBytes ((recordWords.drop (8 * k)).take 8))) s).getD State.reset
  put (put (started 0) 0) 1

theorem test_acceptance : (ran (.launchRecordAcceptance 0) hostWrote).map (fun t => ((t.queue 0).nextseq, (t.queue 0).consumed, t.nLaunch)) =
      some (2, 1, 1) ∧
    (ran (.launchRecordAcceptance 0) hostWrote).map (fun t => (t.launch 0).words) = some recordWords ∧
    (ran (.launchRecordAcceptance 1) hostWrote).map (·.nLaunch) = some 0 := by decide +kernel

theorem test_record_check :
    ((ran (.launchRecordAcceptance 0) hostWrote).bind (ran (.launchRecordCheck 0))).map (fun t => (t.launch 0).phase) = some .ended ∧
    ((ran (.launchRecordAcceptance 0) hostWrote).bind (ran (.launchRecordCheck 0))).map
      (fun t => leNat (t.bytes (crecKey 0x9000000000001000) 16)) = some (2 ^ 64 + 2 ^ 63 + 5) := by decide +kernel

/-- The status words of an aperture ignore host writes (R13); reads give them. -/
theorem test_host_status : (ran (.hostAccess true (2 ^ 39 + 2 ^ 40 + 0x2000) 1 [7]) (started 0)).map (fun t => ((t.queue 0).nextseq, t.mem)) = some (1, []) ∧
    (ran (.hostAccess false (2 ^ 39 + 2 ^ 40 + 0x2000) 8 []) (started 0)).map (fun t => leNat t.hostData) = some 1 := by decide +kernel

/-- A launch of one die waiting at the head of queue 2 is admitted, and the round robin goes on behind it (R42, R44). -/
def queuedLaunch : State :=
  let s := (started 0).setLaunch 0 { words := recordWords, queue := 2, phase := .queued, w := 1, h := 1 }
  let s := s.setQueue 2 { s.queue 2 with items := [0] }
  { s with nLaunch := 1, mgmt := { s.mgmt with passDue := true } }

theorem test_scheduler : (ran .schedulerPass queuedLaunch).map (fun t => ((t.launch 0).phase, t.mgmt.rr, (t.queue 2).items, t.mgmt.passDue)) =
      some (.admitted, 3, [], false) ∧
    (ran (.priorityAging 0) { queuedLaunch with cycle := 2 ^ 24 }).map (fun t => ((t.launch 0).prio, (t.launch 0).aged)) = some (1, true) ∧
    (ran (.priorityAging 0) queuedLaunch).map (fun t => (t.launch 0).prio) = some 0 := by decide +kernel

theorem test_gang : (ran (.gangDieRequest 5 0 0 0 2 1) queuedLaunch).map (·.mgmt.granted) = some [(5, 0), (5, 1)] ∧
    (ran (.gangDieRequest 5 0 0 0 0 0) { queuedLaunch with mgmt := { queuedLaunch.mgmt with granted := [(5, 0), (6, 1)] } }).map
      (·.mgmt.granted) = some [(6, 1)] ∧ (ran (.gangGrant 0 5 true) queuedLaunch).map (fun t => (t.launch 0).phase) = some .queued := by decide +kernel

/-- Firmware writes (R235, R244, R340): a lower LEVEL is ignored, a one clears an alarm, AGE_LIMIT has 32 bits, HTAB 47:9. -/
theorem test_firmware : (ran (.alarmpWrite 1) State.reset).map (·.mgmt.alarmLevel) = some 2 ∧ (ran (.alarmpWrite 3) State.reset).map (·.mgmt.alarmLevel) = some 3 ∧
    (ran (.alarmsClear 5) { State.reset with mgmt := { alarms := 7 } }).map (·.mgmt.alarms) = some 2 ∧
    (ran (.ageLimitWrite 0x100000005) State.reset).map (·.mgmt.ageLimit) = some 5 ∧
    (ran (.htabWrite 1 0xFFFFFFFFFFFFFFFF) State.reset).map (fun t => (t.core 1).htab) = some 0xFFFFFFFFFE00 := by decide +kernel

/-- Throttling, shutdown, errors and links (R19, R21, R22, R246): an uncorrected error poisons its granule of 8 or 64 bytes. -/
theorem test_environment : (ran (.powerThrottle true) State.reset).map (·.mgmt.thrPower) = some true ∧
    (ran (.thermalThrottle true) State.reset).map (·.mgmt.thrHot) = some true ∧
    (ran .thermalShutdown (started 0)).map (fun t => (t.mgmt.powered, (t.queue 0).qstate)) = some (false, 0) ∧
    (ran (.eccError (stackKey 70) false) State.reset).map (·.poison) = some [(stackKey 64, true)] ∧
    (ran (.eccError (sramKey 0 0 0 13) false) State.reset).map (·.poison) = some [(8, true)] ∧
    (ran (.linkLoss 3) { State.reset with mgmt := { meshUp := 0xFFFF } }).map (fun t => (t.mgmt.meshUp, t.mgmt.meshRetrain)) = some (0xFFF7, 8) ∧
    (ran (.linkRetrain 3 40) { State.reset with mgmt := { meshRetrain := 8 } }).map (fun t => (t.mgmt.meshUp, t.mgmt.meshRetrain)) = some (8, 0) := by
  decide +kernel

/-- The security alarm at LEVEL 2 stops a running launch, empties the key slots and scrubs all SRAM (R244). -/
theorem test_alarm :
    let s := (core0 []).setByte (sramKey 0 0 0 5) 1
    (ran (.securityAlarm 1) s).map (fun t => ((t.launch 0).status, t.byte (sramKey 0 0 0 5))) = some (7, 0) ∧
    (ran (.securityAlarm 1) s).map (·.mgmt.alarms) = some 2 := by decide +kernel

/-- Stacks (R189, R191, R193, R199): a takeover evicts drawers, a refresh leaves them so, an access to the row opens its drawer; a denied remote read is counted. -/
theorem test_stacks :
    let s := State.reset.setStack 1 { drawers := [(drawerKey 2 3 1, { row := some 9 })] }
    (ran (.refreshTakeover 1) { s with cycle := 10000 }).map (fun t => ((t.stack 1).takenOver, (t.stack 1).takeovers,
      (tget {} (t.stack 1).drawers (drawerKey 2 3 1)).evicted)) = some (true, 1, true) ∧
    ((ran (.refreshTakeover 1) { s with cycle := 10000 }).bind (ran (.perBankRefresh 1 2 3))).map
      (fun t => ((tget {} (t.stack 1).drawers (drawerKey 2 3 1)).evicted, (tget {} ((t.reopenRow
        (2 ^ 60 + 2 ^ 36 + 2 * 2 ^ 30 + 9 * 2 ^ 14 + 3 * 2 ^ 10)).stack 1).drawers (drawerKey 2 3 1)).evicted)) = some (true, false) ∧
    (ran (.refreshHeartbeat 1) { s with cycle := 7 }).map (fun t => (t.stack 1).lastBeat) = some 7 ∧
    ran (.refreshHandback 1) s = some s ∧ (ran (.remoteReadRequest 1 0x11 0 4) s).map (fun t => (t.stack 1).denials) = some 1 := by
  decide +kernel

theorem test_access_table :
    let s := ((ran (.actWrite 0 3 0xC001100000000001 2) State.reset).getD State.reset).putBytes (stackKey (linOf 0x8000)) [1, 2]
    (ran (.remoteReadRequest 0 0x11 0x8000 2) s).map (·.hostData) = some [1, 2] ∧
    (ran (.remoteReadRequest 0 0x11 0x18000 2) s).map (fun t => ((t.stack 0).denials, t.hostData)) = some (1, []) ∧
    ((ran (.remoteReadRequest 0 0x12 0x8000 2) s).bind (ran (.actWindowExpiry 0))).map (fun t => (t.stack 0).denials) = some 0 := by
  decide +kernel

/-- Regions (R27, R34, R38, R229): an enabled task begins at a wrap boundary; a freeze ends two cycles after its cause. -/
def regionState (x : Region) : State :=
  let s := State.reset.setLaunch 0 { w := 1, h := 1, phase := .running }
  s.setDie 0 { s.die 0 with launch := some 0, act := { rdesc := [(0, some 1)] }, regs := [(0, x)] }

theorem test_regions :
    (ran (.tileTaskBegin 0 0) (regionState { run := true, enables := 2, trip := 5 })).map (fun t => ((t.region 0 0).enables, (t.region 0 0).tasks)) =
      some (1, [(0, 5)]) ∧
    (ran (.regionUnfreeze 0 0) { regionState { frz := some ⟨3, some 5, 0, 2, false⟩ } with cycle := 7 }).map (fun t => (t.region 0 0).frz) =
      some none ∧
    (ran (.regionUnfreeze 0 0) { regionState { frz := some ⟨3, some 5, 0, 2, false⟩ } with cycle := 6 }).map (fun t => (t.region 0 0).frz.isSome) =
      some true ∧
    (ran (.regionWdog 0 0) { regionState { frz := some ⟨3, none, 0, 2, false⟩ } with cycle := 3 + 2 ^ 26 }).map
      (fun t => (t.region 0 0).fstop.map (·.code)) = some (some 0x0F) := by decide +kernel

theorem test_fault_stop :
    let f : FStop := ⟨10, 7, 0, 1, 0, 2, 0, 0, 0, 0, [], [], 0⟩
    (ran (.faultStop 0 0) { regionState { run := true, rc := 9, fstop := some f } with cycle := 13 }).map
      (fun t => (t.region 0 0).fstop.map (·.stops)) = some (some [(0, 10)]) ∧
    (ran (.faultStop 0 0) { regionState { run := true, rc := 9, fstop := some f } with cycle := 12 }).map
      (fun t => (t.region 0 0).fstop.map (·.stops)) = some (some []) := by decide +kernel

/-- Cell 0, a root with two instances of region 0, starts an instance of its child; the child region is enabled (R34). -/
def cellState : State :=
  let s := core0 []
  s.setDie 0 { s.die 0 with
    act := { rdesc := [(0, some 1)], cells := [(0, (BitVec.ofNat 64 (2 ^ 62 + 2 ^ 48 + 2), 0x80))] }
    cellRuns := [(0, { active := true, n := 2 })] }

theorem test_cells : (ran (.controllerChildStart 0 0 0) cellState).map
      (fun t => ((t.region 0 0).enables, ((t.die 0).cellRun 0).started)) = some (1, [(0, 1)]) ∧
    ((ran (.controllerChildStart 0 0 0) cellState).bind (ran (.controllerChildStart 0 0 1))).map (fun t => (t.region 0 0).enables) = some 1 := by
  decide +kernel

/-- Token steps pass on, step 6 swaps the sets after eight cycles, a prefetch writes its load (R40, R41, R183). -/
theorem test_reconfiguration :
    let s := core0 []
    let x := s.die 0
    let at6 := s.setDie 0 { x with token := some ⟨6, 0⟩, shd := { load := 3 } }
    (ran (.reconfigStep 0) (s.setDie 0 { x with token := some ⟨1, 0⟩ })).map (fun t => (t.die 0).token.map (·.step)) = some (some 2) ∧
    (ran (.reconfigSwap 0) { at6 with cycle := 7 }).map (fun t => (t.die 0).act.load) = some 0 ∧
    (ran (.reconfigSwap 0) { at6 with cycle := 8 }).map (fun t => ((t.die 0).act.load, (t.die 0).token, (t.die 0).kth)) = some (3, none, 1) ∧
    (ran (.prefetchComplete 0) (s.setDie 0 { x with prefetch := some 5 })).map (fun t => ((t.die 0).shd.load, (t.die 0).prefetch)) =
      some (5, none) := by decide +kernel

def circuit0 : CircuitRec := ⟨0, 0, 0, 1, 1, 0, 0, 1, 0, 0, 1, []⟩

/-- A circuit claims a full buffer of 4 KiB of die 0 for die 1; nothing is published before that (R32). -/
def circuitState : State :=
  let m : MnCfg := { shelf := [(1, BitVec.ofNat 64 (2 ^ 42 + 2 ^ 32))], named := true }
  let s := State.reset.setLaunch 0 { w := 2, h := 1, phase := .running, circuits := [circuit0], items := [⟨0, 16, .circuit circuit0⟩] }
  let b : Bank := { mn := [(1, m)], rdesc := [(0, some 1)] }
  let s := s.setDie 0 { s.die 0 with launch := some 0, act := b.setBuf 0 1 1 { full := 1, pc := 1, tags := [(0, 4)] } }
  let s := s.setDie 1 { s.die 1 with launch := some 0, act := b }
  (s.setByte (sramKey 0 0 0 3) 9).setByte (sramKey 1 0 0 3) 8

theorem test_circuits : (ran (.circuitTransferStart 0 0) circuitState).map (fun t => (t.launch 0).transit) = some [(0, some (0, 0))] ∧
    (ran (.circuitPublish 0 0) circuitState).map (fun t => (t.buf 1 0 1 1).full) = some 0 := by decide +kernel

/-- Stream copy of 16 bytes from node 0 to node 1 (R107, R108, R110, R352): ticket state 1, its record, the bytes. -/
def streamState : State :=
  let s := (core0 [(16, 2 ^ 60), (17, 2 ^ 60 + 2 ^ 44), (18, 0x0001000100010010), (19, 1), (22, 0xFF00), (23, 9 * 2 ^ 60)]).putBytes (sramKey 0 0 0 0) [5, 6]
  (ran (.scpy 6 16 7 0) s).getD State.reset

theorem test_streams_move :
    let s := (ran (.streamCommandStart 0 0 0) streamState).getD State.reset
    (s.engine 0 0).cmds.map (·.started) = [true] ∧ ((ran (.streamCompletion 0 0 0) s).map (fun t => (t.engine 0 0).state 1)) = some 1 ∧
    (ran (.streamCompletion 0 0 0) s).map (fun t => t.bytes (sramKey 0 0 1 0) 2) = some [5, 6] := by decide +kernel

/-- A store on its way to a node arrives (R152); a token finds its handler or raises HANDLER (R237). -/
theorem test_arrivals :
    ((ran (.st 0 4 7 0 0 0) (core0 [(7, 2 ^ 60 + 9), (4, 0xAB)])).bind (ran (.nodeStoreArrival 0 0))).map
      (fun t => (t.byte (sramKey 0 0 0 9), t.cc.stq)) = some (0xAB, []) ∧
    (ran (.tokenArrival 0) (let s := core0 []; s.setCc { s.cc with tokIn := [⟨0x42, 0, 0⟩] })).map (fun t => ((t.core 0).trapc.toNat % 256, (t.core 0).trapval)) =
      some (9, 0x42) := by decide +kernel

/-- Base-die engines (R194 to R198): one FP32 addition of two operands, one granule of one element. -/
def baseState (kind : Nat) (blk : List Word) (n : Nat) : State :=
  let c : BCmd := ⟨kind, blk, 0, 0, 1, (List.range n).map (fun i => (stackKey (64 * i), 0)), 0, 0, [], []⟩
  let s := (State.reset.putBytes (stackKey 64) (leBytes 4 0x3F800000)).putBytes (stackKey 128) (leBytes 4 0x40000000)
  s.setBeng 0 kind 0 { q := [c], hist := [(1, 0, 0, 0)] }

theorem test_base_die :
    (ran (.cabinetOperation 0 0) (baseState 0 [0, 0, 0, 1] 3)).map (fun t => (leNat (t.plainBytes (stackKey 0) (some 0) 4), (t.beng 0 0 0).hist)) =
      some (0x40400000, [(1, 1, 0, 0)]) ∧
    (ran (.reductionOperation 0) (baseState 1 [0x101, 0, 0, 0, 0, 0, 0, 0] 3)).map (fun t => leNat (t.plainBytes (stackKey 0) (some 0) 4)) =
      some 0x40400000 ∧
    ran (.optimiserUpdate 0) State.reset = some State.reset := by decide +kernel

/-- Launch steps: a halted launch with nothing left ends with STATUS 1 (R17, R296); one whose fault stops are over with STATUS
6 (R230); without victims a save does nothing (R45). -/
theorem test_launch_ends :
    let s := core0 []
    let halted := s.setCc { s.cc with halted := true }
    (ran (.launchEnd 0) halted).map (fun t => ((t.launch 0).phase, (t.launch 0).status, (t.die 0).launch)) = some (.ended, 1, none) ∧
    ran (.launchEnd 0) s = some s ∧ ran (.launchSave 0) s = some s ∧
    (((ran (.trap 5) halted).map (fun t => { t with cycle := 70 })).bind (ran (.faultRecordWrite 0))).map
      (fun t => ((t.launch 0).status, (t.launch 0).trap)) = some (6, 0x14) ∧
    ran (.regionFaultFreeze 0) s = some s ∧ ran (.collectiveCompletion 0) s = some s ∧ ran (.derivedBuildDone 0 0 0) s = some s ∧
    ran (.xnCommandStart 0 0 3) s = some s := by decide +kernel

/-! ### One step of a placed instruction -/

def stepCore (w : Nat) : Option Core :=
  match step (State.reset.withFetchWord 32 w) with
  | .next t => some (t.core 0)
  | _ => none

/-- ADDI a3, a3, #−2 (0x02030FFE), TRAP #5 and a word that no opcode has, fetched and run from reset (R126, R128, R254, R360). -/
theorem test_step_core : (stepCore 0x02030FFE).map (fun c => ((c.get 3).toNat, c.pc.toNat)) = some (m1 - 1, 4) ∧
    (stepCore 0x63000005).map (fun c => (c.trapc.toNat, c.trapval.toNat, c.trappc.toNat)) = some (0x314, 5, 4) ∧
    (stepCore 0xFF000000).map (fun c => (c.trapc.toNat, c.trapval.toNat, c.trappc.toNat)) = some (0x301, 0xFF000000, 0) := by decide +kernel

/-- A two-word MOVL, a row, an MN entry and an XN entry run as the first instruction (R127, R25, R117, R170). -/
theorem test_step_units :
    (match step (State.reset.withFetchWord 64 0x4B80000319050000) with
     | .next t => some ((t.core 0).pc.toNat, ((t.core 0).get 5).toNat)
     | _ => none) = some (8, 0x4B800003) ∧
    (match step (State.reset.withFetchWord 32 0xB1FFFC01) with
     | .next t => some ((t.region 0 0).pipe.length)
     | _ => none) = some 1 ∧
    (match step (State.reset.withFetchWord 64 0x0CE240FF00000100) with
     | .next t => some ((t.region 0 0).pipe.length)
     | _ => none) = some 1 ∧
    (match step (State.reset.withFetchWord 64 0x0800000000F80000) with
     | .next t => some ((t.xn 0 0 3).flight.length)
     | _ => none) = some 1 := by decide +kernel

/-- With no turn left the next cycle begins and the launch's cycle count goes on (log 4). -/
theorem test_step_cycle : (match step { core0 [] with agenda := [] } with
     | .next t => some t.cycle
     | _ => none) = some 1 := by decide +kernel

/-! ### A state for the hypotheses of every statement that has some (each clause, at boundary values) -/

/-- An operation answers a value. -/
def good {ε α : Type} (x : Except ε α) : Bool := x.toOption.isSome

/-- A state after one instruction. -/
def after (i : Instr) (s : State) : State := (ran i s).getD State.reset

theorem test_witness_EncodeThenDecode : ([.xwb 3 0xFF 63 0 11 1 1 1 0, .amcas 3 63 63 62 15, .qenc 31 31 31 14 6,
    .stx 12 2 6 1 63 0xFFFFFFFF] : List Instr).all (fun i => decide (defect i = none ∧ encode i ≠ .event)) = true := by decide +kernel

theorem test_witness_DecodedIsWellFormed : good (decodeRow 0xB1FFFD02) = true ∧ good (decodeMn 0x0CE240FF00000100) = true ∧
    good (decodeXn 0x0800000000F80000) = true ∧ good (decodeCore 0x19050000 0x4B800003) = true := by decide +kernel

/-- The state of a turn after it has been taken from the agenda. -/
def turned (s : State) : State :=
  { s with
    agenda := s.agenda.tail
    cur := match s.agenda with
      | .core d :: _ => (d, 0, 0)
      | .unit d r sl :: _ => (d, r, sl)
      | _ => s.cur }

theorem test_witness_StepRunsFetchedInstruction :
    let s := State.reset.withFetchWord 32 0x02030FFE
    let u := turned s
    s.agenda = [.core 0] ∧ (u.core 0).halted = false ∧ (u.core 0).running = true ∧ pathOf (u.core 0).pc = 0 ∧
    (u.core 0).pc.toNat % 4 = 0 ∧ ((u.genLoc 0 none (u.core 0).pc .fetch (u.core 0).smode).toOption.bind
      (fun loc => (u.readLoc loc (u.core 0).pc 4).toOption)).map (fun l => (leNat l, isLong (BitVec.ofNat 32 (leNat l)))) =
        some (0x02030FFE, false) ∧ decoded (decodeCore 0x02030FFE 0) = some (.addi 3 3 0x3FE) := by decide +kernel

theorem test_witness_StepRunsOtherTurns :
    (let s := State.reset.withFetchWord 64 0x4B80000319050000
     let u := turned s
     s.agenda = [.core 0] ∧ (u.core 0).halted = false ∧ (u.core 0).running = true ∧
     (u.fetchWord 0 (u.core 0).pc).toOption.bind (fun f =>
       (f.2.fetchWord 0 ((u.core 0).pc + 4)).toOption.map (fun h => (f.1, isLong f.1, decoded (decodeCore f.1 h.1)))) =
       some (0x19050000, true, some (.movl 5 0 0x4B800003))) ∧
    (let u := turned (State.reset.withFetchWord 32 0xB1FFFC01)
     (State.reset.withFetchWord 32 0xB1FFFC01).agenda = [.unit 0 0 2] ∧ isCe 2 = true ∧
     (u.rowCtx 0 0 2).map (fun c => decoded (decodeRow (tget nopWord ((u.die 0).act.ceCfg 0 2).rows c.mc))) =
       some (some (.iter 0 0 1))) ∧
    (let u := turned (State.reset.withFetchWord 64 0x0CE240FF00000100)
     (State.reset.withFetchWord 64 0x0CE240FF00000100).agenda = [.unit 0 0 1] ∧ isMn 1 = true ∧
     (u.rowCtx 0 0 1).map (fun c => (decoded (decodeMn (u.mnEntry c))).isSome) = some true) ∧
    (let u := turned (State.reset.withFetchWord 64 0x0800000000F80000)
     (State.reset.withFetchWord 64 0x0800000000F80000).agenda = [.unit 0 0 3] ∧ isXn 3 = true ∧
     (u.xnSlot).map (fun c => decoded (decodeXn (tget 0 ((u.die 0).act.xnCfg 0 3).rows c.1.idx))) = some (some (.xclr 0 0 0xF8))) ∧
    (isXn 2 = false ∧ (isCe 2 || isMn 2) = true ∧ (turned { core0 [] with agenda := [.unit 0 0 2] }).rowCtx 0 0 2 = none) := by
  decide +kernel

theorem test_witness_RefusedWordsRaiseIll :
    (let s := State.reset.withFetchWord 32 0x1B000000
     let u := turned s
     s.agenda = [.core 0] ∧ (u.core 0).halted = false ∧ (u.core 0).running = true ∧
     ((u.fetchWord 0 (u.core 0).pc).toOption.map (fun f => (f.1, isLong f.1, good (decodeCore f.1 0)))) = some (0x1B000000, false, false)) ∧
    (let s := State.reset.placeRow 2 (fun b => { b with ce := [(2, { rows := [(0, 0x02000000)], named := true })] })
     let u := turned s
     s.agenda = [.unit 0 0 2] ∧ isCe 2 = true ∧
     (u.rowCtx 0 0 2).map (fun c => (good (decodeRow (tget nopWord ((u.die 0).act.ceCfg 0 2).rows c.mc)), (u.region 0 c.reg).fstop.isNone)) =
       some (false, true)) ∧
    ([0x1B, 0x1F, 0x25, 0x27, 0x33, 0x37, 0x3E, 0x3F, 0x4B, 0x4F, 0x56, 0x57, 0x5A, 0x5F, 0x6A, 0xFF] : List (BitVec 8)).all
      (fun op => !good (decodeCore (op ++ (0x123456 : BitVec 24)) 0)) = true := by decide +kernel

theorem test_witness_RegisterArithmeticResults : (core0 []).cc.guard 0 = true ∧ (core0 []).cc.guard 9 = true := by decide +kernel

theorem test_witness_DivisionResultsAndTrap :
    let s := core0 [(4, m1 - 6), (5, 2)]
    s.cc.guard 0 = true ∧ s.cc.guard 1 = false ∧ s.cc.get 5 ≠ 0 ∧ s.cc.get 6 = 0 ∧ (s.cc.get 4).toInt = -7 ∧ s.cc.get 5 = 2 := by
  decide +kernel

theorem test_witness_MovesOfRegistersAndConstants : (core0 []).cc.guard 0 = true ∧ (core0 []).cc.guard 1 = false ∧
    (0x19000000 : BitVec 32).toNat / 2 ^ 24 = 0x19 ∧ (0x1AFFFFFF : BitVec 32).toNat / 2 ^ 24 = 0x1A ∧
    ((0x00000010 : BitVec 32).toNat / 2 ^ 24 = 0 ∧ (0x00000010 : BitVec 32).toNat / 2 ^ 4 % 2 ^ 20 ≠ 0) ∧
    (0x00000008 : BitVec 32).toNat % 2 ^ 4 = 8 ∧ decoded (decodeCore 0x17D06000 0) = some (.mov 3 16 24 0) := by decide +kernel

theorem test_witness_PredicateResults : (core0 []).cc.guard 0 = true ∧ (1 : BitVec 3) ≠ 0 ∧ (7 : BitVec 3) ≠ 0 ∧
    decoded (decodeCore 0x1C1C1051 0) = some (.cmp 3 4 4 5 1) := by decide +kernel

theorem test_witness_BranchAndGuardResults :
    let s := core0 [(63, 0x40), (4, 4), (5, 2)]
    s.cc.guard 0 = true ∧ s.cc.guard 1 = false ∧ (s.cc.get 63).toNat % 4 = 0 ∧ (s.cc.get 4).toNat % 4 = 0 ∧ (s.cc.get 5).toNat % 4 ≠ 0 ∧
    ((core0 [(63, 3)]).cc.get 63).toNat % 4 ≠ 0 ∧ Claims.guardOf (.movl 3 1 0) = some (1, 8) ∧ Claims.guardOf (.sendt 1 2 3 1) = some (1, 4) ∧
    (core1 []).cc.smode = true ∧ (core1 []).cc.guard 1 = false := by decide +kernel

/-- A load that fits (S mode, the STACK path), one of four registers, one that is misaligned and one that no path allows. -/
theorem test_witness_LoadResults :
    let s := core1 [(7, 6 * 2 ^ 60 + 64), (8, 2 ^ 60), (9, 15 * 2 ^ 60)]
    s.cc.guard 0 = true ∧ (Claims.mAddr s 7 3 0).toNat % Claims.mBytes 0 3 = 0 ∧
    good (s.loadBytes s.cdie (Claims.mAddr s 7 3 0) 8) = true ∧ (Claims.mAddr s 7 3 0).toNat % Claims.mBytes 2 3 = 0 ∧
    good (s.loadBytes s.cdie (Claims.mAddr s 7 3 0) 32) = true ∧ (Claims.mAddr s 7 0 1).toNat % Claims.mBytes 0 0 = 0 ∧
    (Claims.mAddr s 7 3 1).toNat % Claims.mBytes 1 3 ≠ 0 ∧ (Claims.mAddr s 9 3 0).toNat % 8 = 0 ∧
    good (s.loadBytes s.cdie (Claims.mAddr s 9 3 0) 8) = false := by decide +kernel

def locTgt (s : State) (a : Word) (k : Use) : Option Nat := (s.locate s.cdie none a k s.cc.smode).toOption.map (·.tgt)

theorem test_witness_StoreResults :
    let s := core1 [(7, 6 * 2 ^ 60 + 64), (8, 2 ^ 60), (9, 15 * 2 ^ 60)]
    s.cc.guard 0 = true ∧ (Claims.mAddr s 7 0 1).toNat % Claims.mBytes 0 1 = 1 ∧
    (Claims.mAddr s 9 3 0).toNat % 8 = 0 ∧ locTgt s (Claims.mAddr s 9 3 0) .st = none ∧
    (Claims.mAddr s 7 3 1).toNat % 8 = 0 ∧ (locTgt s (Claims.mAddr s 7 3 1) .st).isSome = true ∧ locTgt s (Claims.mAddr s 7 3 1) .st ≠ some 2 ∧
    (Claims.mAddr s 8 3 1).toNat % 8 = 0 ∧ locTgt s (Claims.mAddr s 8 3 1) .st = some 2 := by decide +kernel

theorem test_witness_StoreThenLoadReturnsValue :
    let s := core1 [(7, 6 * 2 ^ 60 + 0x7FFFFFFFC0), (4, m1)]
    s.cc.smode = true ∧ s.poison = [] ∧ pathOf (Claims.mAddr s 7 3 7) = 6 ∧ bitsOf (Claims.mAddr s 7 3 7) 40 20 = 0 ∧
    (Claims.mAddr s 7 3 7).toNat % 8 = 0 ∧ (ran (.st 0 4 7 3 7 0) s).isSome = true ∧
    pathOf (Claims.mAddr s 7 0 15) = 6 ∧ (ran (.st 0 4 7 0 15 0) s).isSome = true := by decide +kernel

/-- An atomic on the STACK path, one on a node, a misaligned one; a waiting load of both outcomes and on CONST and VIEW. -/
theorem test_witness_AtomicAndWaitvResults :
    let s := stackCore [(9, 6 * 2 ^ 60 + 68), (10, 2), (11, 2 * 2 ^ 60), (12, 3 * 2 ^ 60), (14, 2 ^ 60 + 8)]
    let ok (a : Word) (n : Nat) : Bool := match s.locate s.cdie none a .amo s.cc.smode with
      | .ok loc => !s.inFlight s.cdie (pathOf a) loc n && good (s.readLoc loc a n)
      | .error _ => false
    s.cc.guard 0 = true ∧ (s.cc.get 9).toNat % 8 ≠ 0 ∧ (s.cc.get 9).toNat % 4 = 0 ∧ ok (s.cc.get 9) 4 = true ∧
    (s.cc.get 7).toNat % 8 = 0 ∧ ok (s.cc.get 7) 8 = true ∧ (s.cc.get 14).toNat % 8 = 0 ∧ ok (s.cc.get 14) 8 = true ∧
    pathOf (s.cc.get 11) = 2 ∧ pathOf (s.cc.get 12) = 3 ∧ (s.cc.get 11).toNat % 8 = 0 ∧
    ((s.loadBytes s.cdie (s.cc.get 7) 8 true).toOption.map (fun x => leNat x.1)) = some (2 ^ 63 + 5) ∧
    (s.cc.get 10 = 2) := by decide +kernel

/-- The value of that load under conditions 0 and 1 against a10. -/
theorem test_witness_waits : ¬ Claims.waits 0 0x8000000000000005 2 ∧ Claims.waits 1 0x8000000000000005 2 :=
  ⟨by show ¬((0x8000000000000005 : Word) = 2); decide, by show (0x8000000000000005 : Word) ≠ 2; decide⟩

/-- A fence with nothing before it, with a store of the core in flight, in the CORE scope, behind another fence; what each set waits
for; the accesses that one holds back. -/
theorem test_witness_FenceResults :
    let s := core0 [(7, 2 ^ 60), (8, 4 * 2 ^ 60), (9, 5 * 2 ^ 60)]
    let t := after (.st 0 4 7 3 0 0) s
    let u := after (.fence 0xFF 0xFF 1) t
    let sent := after (.sendt 5 6 7 0) (core0 [(6, 0), (7, 1)])
    let line := s.setCc { s.cc with stq := [⟨{ tgt := 0, key := 0 }, [1], 5 * 2 ^ 60, false, 0, false⟩], stSeq := 1 }
    let strm := after (.scpy 6 16 7 0) (core0 [(7, 3)])
    let old : State := { s with stale := [⟨0, 0, 0, none, [0], [1], false⟩] }
    let done (s : State) (p q : BitVec 8) (k : Nat) : Bool := s.fenceDone s.cdie (s.fenceNow s.cdie p q k)
    s.cc.fences = [] ∧ done s 0xFF 0xFF 1 = true ∧ done t 0x02 0x02 1 = false ∧ done t 0x02 0x02 0 = true ∧ u.cc.fences ≠ [] ∧
    (t.cc.stq.map (·.seq) = [0] ∧ (t.fenceNow t.cdie 2 2 1).upto = 1) ∧ (line.cc.stq.map (fun e => pathOf e.addr) = [5] ∧ done line 0x40 1 1 = false) ∧
    (sent.cc.tokIn.map (fun k => (k.src, k.seq)) = [(0, 0)] ∧ sent.dies.map (·.1) = [0] ∧ done sent 2 2 1 = false) ∧
    (old.stale.map (fun e => (e.die, e.host)) = [(0, false)] ∧ (old.setCc { old.cc with stSeq := 1 }).fenceStores 0 ⟨2, 2, 2, 1, [], [], [], none⟩ = false) ∧
    ((strm.fenceNow 0 8 8 1).strm ≠ [] ∧ (strm.fenceNow 0 8 8 1).strm = (strm.die 0).streamCmds) ∧ (0x25 : BitVec 8) &&& 0x42 = 0 ∧
    (u.cc.wait = .none ∧ u.cc.guard 0 = true ∧ u.cc.guard 1 = false ∧ pathOf (Claims.mAddr u 7 3 0) = 1 ∧ pathOf (Claims.mAddr u 8 3 0) = 4 ∧
      u.members (.cnop 0) = 0) := by decide +kernel

/-- A store on the STACK path has its turn; a second one to its bytes waits behind it. -/
theorem test_witness_StorePerforms :
    let s := core1 [(7, 6 * 2 ^ 60 + 64), (8, 5)]
    let t := after (.st 0 8 7 0 0 0) (after (.st 0 8 7 3 0 0) s)
    let u : State := { t with agenda := [.perform 0 0] }
    u.agenda = [.perform 0 0] ∧ (u.core 0).stq.length = 2 ∧ (u.core 0).stq.all (fun e => e.loc.tgt != 2) = true ∧
    (u.core 0).mayArrive 0 = true ∧ (u.core 0).mayArrive 1 = false := by decide +kernel

theorem test_witness_FeatureWords : (0 : BitVec 10).toNat < 4 ∧ (3 : BitVec 10).toNat < 4 := by decide +kernel

theorem test_witness_SystemRegisterResults :
    ([0, 3, 0x010, 0x011, 0x012, 0x018] : List Nat).all (fun n => decide ((Claims.sysValue (core0 []) n).map (·.1) = some true)) = true ∧
    ([0x020, 0x021, 0x022, 0x028, 0x029, 0x030, 0x038, 0x039, 0x040] : List Nat).all
      (fun n => decide ((Claims.sysValue (core0 []) n).map (·.1) = some false)) = true ∧
    ([4, 0x013, 0x023, 0x3FF] : List Nat).all (fun n => (Claims.sysValue (core0 []) n).isNone) = true ∧
    (core0 []).cc.smode = false ∧ (core1 []).cc.smode = true := by decide +kernel

theorem test_witness_SoftTrapEntry :
    let s := core0 []
    s.cc.smode = false ∧ s.launchOf s.cdie = some 0 ∧ (s.launch 0).phase ≠ .ended ∧
    (s.launch 0).faults.any (fun f => f.die == s.cc.dien.toNat) = false := by decide +kernel

theorem test_witness_TrapReturnAndHalt :
    let h := (core0 []).setCc { (core0 []).cc with halted := true }
    (core1 []).cc.guard 0 = true ∧ (core1 []).cc.smode = true ∧ (ran (.trap 0x3FF) (core0 [])).isSome = true ∧
    h.agenda = [.core 0] ∧ (h.core 0).halted = true := by decide +kernel

theorem test_witness_PrivilegedInstructionsTrap : (core0 []).cc.smode = false := by decide +kernel

/-- The launch of `core0` on dies 0 and 1. -/
def twoOf (c : Core) : State :=
  let s := core0 []
  (s.setLaunch 0 { s.launch 0 with w := 2 }).setDie 1 { launch := some 0, core := c }

/-- SENDT: set zero bits, dies 1 and 0 of a launch of one die, an empty queue and one of 16; a die of another package in a
launch of 3 × 1; WAITE with a token, with one on its way, and alone. -/
theorem test_witness_TokenInstructionResults :
    let s := core0 [(6, 2 ^ 16), (8, 1), (9, 2 ^ 38), (10, 2 ^ 38 - 1), (11, 0xFFFF), (12, 2)]
    let full := s.setCc { s.cc with evq := List.replicate 15 (1, 0), tokIn := [⟨1, 0, 0⟩] }
    let wide := s.setLaunch 0 { s.launch 0 with w := 3 }
    let one := s.setCc { s.cc with evq := [(0x123, 0x80)] }
    let due := s.setCc { s.cc with tokIn := [⟨1, 0, 0⟩] }
    let two := twoOf {}
    s.cc.guard 0 = true ∧ 2 ^ 16 ≤ (s.cc.get 6).toNat ∧ 2 ^ 38 ≤ (s.cc.get 9).toNat ∧ (s.cc.get 10).toNat < 2 ^ 38 ∧
    (s.cc.get 11).toNat < 2 ^ 16 ∧ s.physDie (s.launchAt s.cdie) (s.cc.get 8).toNat = none ∧
    s.physDie (s.launchAt s.cdie) (s.cc.get 0).toNat = some (some 0) ∧ (s.core 0).evq.length + (s.core 0).tokIn.length < 16 ∧
    16 ≤ (full.core 0).evq.length + (full.core 0).tokIn.length ∧
    wide.physDie (wide.launchAt wide.cdie) (wide.cc.get 12).toNat = some none ∧
    one.cc.evq = [(0x123, 0x80)] ∧ (5 : BitVec 6) ≠ 6 ∧ (due.cc.evq = [] ∧ due.cc.tokIn ≠ []) ∧
    (s.cc.evq = [] ∧ s.cc.tokIn = [] ∧ s.isLocal (s.launchAt s.cdie) = true ∧
      (s.localDies (s.launchAt s.cdie)).all (fun e => e.2 == s.cdie || (s.core e.2).halted) = true) ∧
    (two.cc.evq = [] ∧ (1, 1) ∈ two.localDies (two.launchAt two.cdie) ∧ 1 ≠ two.cdie ∧ (two.core 1).halted = false) ∧
    ((0x66051450 : BitVec 32).toNat / 2 ^ 24 = 0x66 ∧ (0x66051450 : BitVec 32).toNat / 2 ^ 16 % 2 ^ 6 = (0x66051450 : BitVec 32).toNat / 2 ^ 10 % 2 ^ 6) := by decide +kernel

/-- KEYLD and ATTQ on the STACK path in S mode; whether the 72 bytes unwrap is left open by the spec (log 8). -/
theorem test_witness_KeyAndAttestationResults :
    let s := core1 [(6, 2 ^ 20), (7, 1), (8, 1023 * 1024 + 1023), (9, 6 * 2 ^ 60 + 64), (10, 6 * 2 ^ 60 + 4), (11, 6 * 2 ^ 60 + 4096)]
    let spent : State := { s with mgmt := { s.mgmt with sigs := 2 ^ 20 } }
    s.cc.guard 0 = true ∧ s.cc.smode = true ∧ bitsOf (s.cc.get 6) 20 44 ≠ 0 ∧
    (bitsOf (s.cc.get 7) 10 10 = 0 ∧ bitsOf (s.cc.get 7) 0 10 ≠ 0) ∧ (bitsOf (s.cc.get 8) 20 44 = 0 ∧ bitsOf (s.cc.get 8) 10 10 ≠ 0) ∧
    (s.cc.get 10).toNat % 8 ≠ 0 ∧ (s.cc.get 9).toNat % 8 = 0 ∧ good (s.loadRange s.cdie true false 72 (s.cc.get 9) 72) = true ∧
    2 ^ 20 ≤ spent.mgmt.sigs ∧ s.mgmt.sigs < 2 ^ 20 ∧ (s.cc.get 11).toNat % 8 = 0 ∧
    good (s.loadRange s.cdie false false 64 (s.cc.get 9) 64) = true := by decide +kernel

/-- And the 2,956 bytes of the quote of a nonce of 64 bytes are stored there, whatever they are. -/
theorem test_witness_quote_stored (l : List Byte) (h : l.length = 64) (n : Nat) :
    let s := core1 []
    ∃ t, s.storeRange s.cdie 2956 0x6000000000001000 (s.quoteHead l ++ Config.xmssSign (digestOf (s.quoteHead l)) n) = .ok t := by
  apply State.storeRange_stack
  · decide +kernel
  · decide
  · decide
  · have k := shake256_length (Config.fuses ++ leBytes 8 (core1 []).mgmt.alarmLevel.toNat ++
      ((core1 []).mgmt.enrolled.map (fun h => leBytes 32 h.toNat)).flatten)
    simp only [State.quoteHead, Config.xmssSign, List.length_append, List.length_map, List.length_range, leBytes_length, h]
    simp only [List.length_cons, List.length_nil, show (0x6000000000001000 : Word).toNat % 2 ^ 40 = 4096 from rfl]
    omega

def cmd0 : SCmd := ⟨[], 0, 0, 0, none, false, false, false, [], false, none, none, false⟩

/-- Engine `n` of die 0 with commands and a history. -/
def withEngine (s : State) (n : Nat) (e : Engine) : State := s.setEngine 0 n e

theorem test_witness_StreamCommandIssue :
    let s := core0 [(7, 0x1F)]
    let at63 := withEngine s 15 { cmds := List.replicate 63 cmd0 }
    let full := withEngine s 15 { cmds := List.replicate 64 cmd0 }
    s.cc.guard 0 = true ∧ ((s.die s.cdie).engine 15).cmds.length < 64 ∧ ((at63.die at63.cdie).engine 15).cmds.length < 64 ∧
    64 ≤ ((full.die full.cdie).engine 15).cmds.length := by decide +kernel

def bindRegs : List (BitVec 6 × Nat) :=
  [(16, 2 ^ 60), (17, 2 ^ 60 + 2 ^ 44), (18, 0x0001000100010010), (19, 1), (22, 0xFF00), (23, 9 * 2 ^ 60)]

theorem test_witness_TicketAndBindResults :
    let s := withEngine (core0 ([(6, 15 * 2 ^ 28 + 5), (7, 2 ^ 10), (8, 0x40), (9, 0x3F), (10, 0x23F), (11, 0x80)] ++ bindRegs)) 15
      { count := 5, hist := [(5, 3, 2), (4, 0, 0)] }
    let h (t : Nat) : Option (Nat × Byte × Byte) := ((s.die s.cdie).engine (t / 2 ^ 28 % 16)).hist.find? (fun h => h.1 == t % 2 ^ 28)
    let bad := s.setCc (s.cc.set 18 0)
    let gen := s.setCc (s.cc.set 17 5)
    let full := withEngine s 15 { cmds := List.replicate 64 cmd0 }
    let fits (s : State) (b : BitVec 6) : Nat × Bool :=
      ((s.bindCheck s.cdie 3 (s.cc.getN 16 8) (s.cc.get b) s.cc.smode).1, (s.bindCheck s.cdie 3 (s.cc.getN 16 8) (s.cc.get b) s.cc.smode).2.isSome)
    s.cc.guard 0 = true ∧ h (15 * 2 ^ 28 + 6) = none ∧ h 5 = none ∧ h (15 * 2 ^ 28 + 5) = some (5, 3, 2) ∧ h (15 * 2 ^ 28 + 4) = some (4, 0, 0) ∧
    2 ^ 10 ≤ (s.cc.get 7).toNat ∧ (s.cc.get 8).toNat / 64 % 4 ≠ 0 ∧ (s.cc.get 11).toNat / 64 % 4 ≠ 0 ∧
    fits s 9 = (1, true) ∧ fits s 10 = (1, true) ∧ fits s 7 = (2, false) ∧ fits bad 9 = (1, true) ∧ fits gen 9 = (3, false) ∧
    ((s.die s.cdie).engine 15).cmds.length < 64 ∧ 64 ≤ ((full.die full.cdie).engine 15).cmds.length := by decide +kernel

theorem test_witness_ShadowConfigurationResults :
    let s := core0 [(5, 256), (6, 255), (10, 0x83), (11, m1 % 2 ^ 32), (12, 2 ^ 18), (14, 6), (16, 0x08), (18, 0x40), (20, 63 * 64 * 64 + 0x80), (22, 0x83), (23, 2 ^ 32)]
    let y := s.setLaunch 0 { s.launch 0 with items := [⟨255, 16, .circuit circuit0⟩] }
    let busy := s.setDie 0 { s.die 0 with prefetch := some 1 }
    let bad (r : BitVec 6) : Bool := decide (2 ^ 18 ≤ (s.cc.get r).toNat ∨ (s.cc.get r).toNat / 8 % 8 ≠ 0 ∨
      2 ^ 32 ≤ (s.cc.get (r + 1)).toNat ∨ 5 < (s.cc.get r).toNat % 8)
    let out (r : BitVec 6) : Bool := let w := (s.cc.get r).toNat
      decide (w / 2 ^ 6 % 64 % 2 ≠ 0 ∨ slotsOf (s.die 0).g2 ≤ w / 2 ^ 6 % 64 ∨ ringsOf (s.die 0).g2 ≤ w / 2 ^ 12 % 64)
    s.cc.guard 0 = true ∧ 256 ≤ (s.cc.get 5).toNat ∧ (s.cc.get 6).toNat < 256 ∧ (s.launchAt s.cdie).hasLoad 255 = false ∧
    (y.launchAt y.cdie).hasLoad 255 = true ∧ (busy.die busy.cdie).prefetch.isSome = true ∧ (s.die s.cdie).prefetch = none ∧
    bad 12 = true ∧ bad 14 = true ∧ bad 16 = true ∧ bad 22 = true ∧ (bad 18 = false ∧ out 18 = true) ∧ (bad 20 = false) ∧
    (bad 10 = false ∧ out 10 = false) := by decide +kernel

theorem test_witness_TableLoadResults :
    let s := core0 [(10, 2 ^ 60), (11, 0xC1), (12, 5 * 2 ^ 60), (13, 0x80), (14, 2 ^ 60 + 8), (15, 0xBF), (16, 2 ^ 60), (17, 0x80)]
    let busy := s.setDie 0 { s.die 0 with prefetch := some 1 }
    let te := s.setDie 0 { s.die 0 with act := { (s.die 0).act with ce := [(2, { fcfg := 0x100000 })] } }
    let record (s : State) (r : BitVec 6) : Option Nat := (s.loadRange s.cdie false false 1040 (s.cc.get r) 1040).toOption.map
      (fun x => tlRecord ((s.cc.get (r + 1)).toNat % 4) (BitVec.ofNat 8320 (leNat x.1)))
    s.cc.guard 0 = true ∧ (busy.die busy.cdie).prefetch.isSome = true ∧ (s.die s.cdie).prefetch = none ∧
    tlTargetOk (s.die s.cdie).g2 (s.cc.get 15) = false ∧ tlTargetOk (s.die s.cdie).g2 (s.cc.get 11) = true ∧
    tlTargetOk (s.die s.cdie).g2 (s.cc.get 13) = true ∧ pathOf (s.cc.get 12) = 5 ∧ (s.cc.get 14).toNat % 16 ≠ 0 ∧
    pathOf (s.cc.get 10) = 1 ∧ (s.cc.get 10).toNat % 16 = 0 ∧ record s 10 = some 1 ∧ record s 16 = some 2 ∧ record te 16 = some 2 ∧
    (teOf ((s.die s.cdie).act.tlFcfg (s.cc.get 17))).getLsbD 0 = false ∧ (teOf ((te.die te.cdie).act.tlFcfg (te.cc.get 17))).getLsbD 0 = true := by
  decide +kernel

/-- Die 0 with cell 0 a root of one region, region 0, whose trip count a3 holds. -/
def goState (c : CellRun) : State :=
  let s := core0 [(3, 7), (9, 64), (10, 1)]
  s.setDie 0 { s.die 0 with
    act := { rdesc := [(0, some 0x10000000003)], cells := [(0, (BitVec.ofNat 64 (2 ^ 62 + 2 ^ 48 + 2), 0x80))] }
    cellRuns := [(0, c)] }

theorem test_witness_GoResults :
    let s := goState {}
    let x := s.die s.cdie
    let busy := s.setDie 0 { x with token := some ⟨1, 0⟩ }
    let on := goState { active := true }
    s.cc.guard 0 = true ∧ busy.goReady busy.cdie = false ∧ s.goReady s.cdie = true ∧ on.goReady on.cdie = true ∧
    64 ≤ (s.cc.get 9).toNat ∧ (x.cell 1).1.toNat / 2 ^ 62 = 0 ∧ ((on.die on.cdie).cellRun 0).active = true ∧
    (x.cell 0).1.toNat / 2 ^ 62 ≠ 0 ∧ (x.cell 0).1.toNat / 2 ^ 56 % 64 = 0 ∧ (x.cellRun 0).active = false ∧
    x.treeRegions 0 = [0] ∧ (x.act.rdesc = [(0, some 0x10000000003)]) ∧ x.token = none ∧ (busy.die busy.cdie).token.isSome = true := by
  decide +kernel

/-- `twoOf` with what the core of die 0 waits for. -/
def twoCores (a b : Core) : State :=
  let s := twoOf b
  s.setCc { s.cc with wait := a.wait, pbars := a.pbars, colls := a.colls, stq := a.stq }

theorem test_witness_DrainAndBarrierResults :
    let s := core0 []
    let busy := s.setDie 0 { s.die 0 with token := some ⟨6, 0⟩ }
    let d1 := s.setCc { s.cc with wait := .drain }
    let d2 := s.setCc { s.cc with wait := .drained 0x3F }
    let short := twoCores { wait := .pbar, pbars := 2 } { halted := true, pbars := 1 }
    let later := twoCores { wait := .pbar, pbars := 2 } { pbars := 1 }
    let both := twoCores { wait := .pbar, pbars := 2 } { wait := .pbar, pbars := 2 }
    let open_ := twoCores { wait := .pbar, pbars := 2 } { wait := .pbar, pbars := 2, fences := [⟨0xFF, 0xFF, 3, 1, [], [], [], none⟩] }
    let dies (s : State) : List Nat := (s.localDies (s.launchAt s.cdie)).map (·.2)
    s.cc.guard 0 = true ∧ (s.cc.wait = .none ∧ (s.die s.cdie).token = none) ∧ (busy.cc.wait = .none ∧ (busy.die busy.cdie).token ≠ none) ∧
    d1.cc.wait = .drain ∧ (d2.cc.wait = .drained 0x3F ∧ d2.cc.fences = []) ∧ s.cc.wait ≠ .pbar ∧
    (short.cc.wait = .pbar ∧ short.isLocal (short.launchAt short.cdie) = true ∧ 1 ∈ dies short ∧ (short.core 1).halted = true ∧
      (short.core 1).pbars < short.cc.pbars) ∧
    (both.cc.wait = .pbar ∧ both.isLocal (both.launchAt both.cdie) = true ∧ dies both = [0, 1] ∧
      (dies both).all (fun e => decide (both.cc.pbars ≤ (both.core e).pbars ∧ (both.core e).fences = [])) = true) ∧
    (open_.cc.wait = .pbar ∧ (open_.core 1).halted = false ∧ (open_.core 1).wait = .pbar ∧ (open_.core 1).pbars = open_.cc.pbars ∧
      (open_.core 1).fences ≠ []) ∧
    (later.cc.wait = .pbar ∧ (dies later).all (fun e => !(later.core e).halted) = true ∧ 1 ∈ dies later ∧
      (later.core 1).pbars < later.cc.pbars) := by decide +kernel

/-- `matrixState` with an XCLR, a reserved entry and the descriptors of R175 in registers. -/
def pend : PendSt := ⟨{ tgt := 2, key := 0 }, [1], 2 ^ 60, false, 0, false⟩

def xcmdState (n : Nat) : State :=
  let s := { matrixState with cur := (0, 0, 0) }
  let s := s.setCc (([(10, 2 ^ 25 + 7 * 2 ^ 22), (11, 0x0800000000F80000), (12, 2 ^ 26), (13, 0x0800000000F80000), (14, 0), (15, 0), (16, 2 ^ 13),
    (17, 0x0800000000F80000), (18, 63 * 8), (19, 0x0800000000F80000), (20, 0xFF), (21, 0x7F)] : List (BitVec 6 × Nat)).foldl
    (fun c r => c.set r.1 (BitVec.ofNat 64 r.2)) s.cc)
  s.setXn 0 0 3 { cmds := List.replicate n (0, 0x0800000000F80000) }

theorem test_witness_CollectiveAndCommandResults :
    let s := core0 [(6, 2 ^ 60), (7, 0x10001), (8, 2 ^ 60 + 2 ^ 21)]
    let late := s.setCc { s.cc with stq := [pend], stSeq := 1 }
    let trap (s : State) (r : BitVec 6) : Option Trap := s.collTrap s.cdie (s.cc.get r) (s.cc.get 7)
    let fence (s : State) : Bool := s.fenceDone s.cdie (s.fenceNow s.cdie 0x03 0x03 3)
    let sh := (core0 [(6, 2 ^ 60), (7, 0x10001)]).setDeriv 0 0 0 0 (some (newDerived [0x100000, 2 ^ 32 + 4, 16 * 2 ^ 21, 0] false))
    let done := s.setCc { s.cc with wait := .collDone 5 }
    let short := twoCores { wait := .coll, colls := 1 } { halted := true }
    let x := xcmdState 3
    let full := xcmdState 4
    let bad (r : BitVec 6) : Bool := decide (2 ^ 26 ≤ (x.cc.get r).toNat ∨ (x.cc.get r).toNat / 2 ^ 9 % 32 ≠ 0 ∨
      commandOk (x.die 0).g2 (x.cc.get (r + 1)) = false)
    let out (r : BitVec 6) : Bool := decide ((x.die 0).act.regionAt ((x.cc.get r).toNat / 8 % 64) = none ∨
      slotsOf (x.die 0).g2 ≤ 6 * ((x.cc.get r).toNat % 8) + 3)
    let w := x.setCc { x.cc with slots := 0x7F }
    s.cc.guard 0 = true ∧ done.cc.wait = .collDone 5 ∧ (s.cc.wait = .none ∧ trap s 6 = none ∧ fence s = true) ∧
    (trap late 6 = none ∧ fence late = false ∧ late.cc.stq.map (fun e => decide (e.seq < late.cc.stSeq)) = [true]) ∧ (trap s 8).isSome = true ∧
    sh.collShadow sh.cdie (sh.cc.get 6) (sh.cc.get 7) = true ∧
    (short.cc.wait = .coll ∧ (1, 1) ∈ short.localDies (short.launchAt short.cdie) ∧ (short.core 1).halted = true ∧
      (short.core 1).colls < short.cc.colls) ∧
    x.cc.guard 0 = true ∧ bad 12 = true ∧ bad 14 = true ∧ bad 16 = true ∧ (bad 18 = false ∧ out 18 = true) ∧ (bad 10 = false ∧ out 10 = false) ∧
    (x.xn 0 0 3).cmds.length < 4 ∧ 4 ≤ (full.xn 0 0 3).cmds.length ∧ x.cc.wait = .none ∧
    (x.cc.slots = 0xFF) ∧ (w.cc.slots.getLsbD 7 = false ∧ (w.cc.get 20).getLsbD 7 = true) ∧
    ((x.setCc { x.cc with wait := .xwait 0x80 }).cc.wait = .xwait 0x80) := by decide +kernel

/-- DDECL record for node 0 of ring 0: one row of four FP32 elements at offset 0, kind `k` at index `dix` with shadow storage
at 0x1000. -/
def declWords (k dix cols : Nat) : List Nat := [2 ^ 60, 2 ^ 32 + cols, 16 * 2 ^ 21 + 0x1000, dix * 2 ^ 20 + k * 2 ^ 16]

def declCore (w : List Nat) : State :=
  let s := core0 ((List.range 4).map (fun i => (BitVec.ofNat 6 (16 + i), (w[i]?).getD 0)) ++ [(6, 2 ^ 62), (7, 2 ^ 62 + 7 * 2 ^ 40), (8, 2 ^ 62 + 8 * 2 ^ 40), (9, 2 ^ 60)])
  s.setDie 0 { s.die 0 with act := { mn := [(1, { ncfg := 2 })] } }

theorem test_witness_DerivedRegionResults_declare :
    let s := declCore (declWords 2 7 4)
    let w := s.cc.getN 16 8
    let y : Derived := newDerived w false
    let off := s.setDie 0 { s.die 0 with act := {} }
    let storing := s.setCc { s.cc with stq := [pend] }
    let b := declCore (declWords 2 7 0)
    let p := s.setCc (s.cc.set 16 0)
    s.cc.guard 0 = true ∧ s.nodeOf (s.cc.get 16) = some (some (0, 0, 0)) ∧ s.cc.wait = .none ∧
    derivFieldsBad (nodeSize (s.die 0).g2) w = false ∧ (newDerived w true).dix = 7 ∧ pathOf (s.cc.get 16) = 1 ∧
    b.nodeOf (b.cc.get 16) = some (some (0, 0, 0)) ∧ derivFieldsBad (nodeSize (b.die 0).g2) (b.cc.getN 16 8) = true ∧
    p.nodeOf (p.cc.get 16) = some (some (0, 0, 0)) ∧ derivFieldsBad (nodeSize (p.die 0).g2) (p.cc.getN 16 8) = false ∧ pathOf (p.cc.get 16) ≠ 1 ∧
    off.declStatus 0 0 0 w = 4 ∧ (s.setDeriv 0 0 0 7 (some y)).declStatus 0 0 0 w = 5 ∧ s.declStatus 0 0 0 w = 1 ∧
    s.storing 0 0 0 0 = false ∧ storing.declStatus 0 0 0 w = 1 ∧ storing.storing storing.cdie 0 0 0 = true := by decide +kernel

theorem test_witness_DerivedRegionResults_drop :
    let s := declCore (declWords 2 7 4)
    let y : Derived := newDerived (s.cc.getN 16 8) false
    let hold (y : Derived) : State := s.setDeriv 0 0 0 7 (some y)
    let node (r : BitVec 6) : Bool := decide (s.nodeOf (s.cc.get r) = some (some (0, 0, 0)))
    let seen (s : State) : Option (Bool × Bool) := (s.deriv 0 0 0 7).map (fun z => (z.quiet false 0, z.building))
    let late : Derived := { y with undo := [⟨0, [(0, 1)], false, false⟩] }
    let asked (n : Nat) : State := (hold { late with dropAt := some n }).setCc { s.cc with wait := .ddrop }
    s.cc.guard 0 = true ∧ ((hold y).setCc { s.cc with wait := .ddecl }).cc.wait = .ddecl ∧
    seen ((hold { y with building := true }).setCc { s.cc with wait := .ddecl }) = some (true, true) ∧
    seen ((hold y).setCc { s.cc with wait := .ddecl }) = some (true, false) ∧
    (node 6 = true ∧ pathOf (s.cc.get 6) = 4 ∧ (s.cc.get 6).toNat % 2 ^ 40 = 0 ∧ (s.deriv 0 0 0 0).isNone = true) ∧
    (node 8 = true ∧ (s.cc.get 8).toNat / 2 ^ 40 % 16 = 8) ∧ (node 9 = true ∧ pathOf (s.cc.get 9) ≠ 4) ∧
    (node 7 = true ∧ (s.cc.get 7).toNat / 2 ^ 40 % 16 = 7) ∧ s.cc.wait ≠ .ddrop ∧ y.dropAt = none ∧ seen (hold late) = some (false, false) ∧
    seen (hold y) = some (true, false) ∧ (s.setCc { s.cc with wait := .ddrop }).cc.wait = .ddrop ∧
    (asked 3).cc.wait = .ddrop ∧ (asked 3).cycle < 3 ∧ seen (asked 3) = some (false, false) ∧ seen (asked 0) = some (true, false) := by decide +kernel

/-- R274: a store after the DDROP request changes nothing in what the region shows. -/
theorem test_ddrop_keeps_what_it_shows :
    let s := declCore (declWords 2 7 4)
    let y : Derived := newDerived (s.cc.getN 16 8) false
    let u := s.setDeriv 0 0 0 7 (some { y with undo := [⟨0, [(0, 1)], false, false⟩], dropAt := some 6 })
    let v := u.nodeStore 0 0 0 4 [9]
    let shown (s : State) : Option (List Byte) := (s.deriv 0 0 0 7).map (fun z => (s.derivRead 0 0 0 7 0 16 z).1)
    shown v = shown u ∧ (shown u).isSome = true ∧ v.byte (sramKey 0 0 0 4) = 9 := by decide +kernel

theorem test_witness_DigestResults :
    let s := core1 [(10, 6 * 2 ^ 60), (11, 4), (12, 2 ^ 60 + 32), (14, 2 ^ 60), (15, 2), (16, 2 ^ 60), (17, 12 * 2 ^ 32), (18, 2 ^ 60), (19, 2 ^ 37), (20, 5 * 2 ^ 60),
      (21, 11 * 2 ^ 32 + 3), (22, 2 ^ 60), (23, 16), (24, 2 ^ 60 + 16), (25, 3 * 2 ^ 60)]
    let bad (r : BitVec 6) : Bool :=
      let w := (s.cc.get (r + 1)).toNat
      let fmt := w / 2 ^ 32 % 32
      let size := if fmt = 0 then 4 else if fmt = 1 ∨ fmt = 2 then 2 else 1
      decide (2 ^ 37 ≤ w ∨ 11 < fmt ∨ w % 2 ^ 32 % (if fmt < 5 then size else 1) ≠ 0)
    let digests (s : State) (r x : BitVec 6) (n fmt : Nat) : Bool := match s.loadRange s.cdie false true n (s.cc.get r) n with
      | .ok (l, u) => good (u.storeBytes s.cdie (s.cc.get x) (shake256 (canonBytes fmt l)))
      | .error _ => false
    s.cc.guard 0 = true ∧ bad 14 = true ∧ bad 16 = true ∧ bad 18 = true ∧ bad 10 = false ∧ bad 20 = false ∧ bad 22 = false ∧
    (pathOf (s.cc.get 10) = 6 ∧ s.cc.smode = true ∧ (s.setCc { s.cc with smode := false }).cc.smode = false) ∧
    pathOf (s.cc.get 20) = 5 ∧ pathOf (s.cc.get 25) = 3 ∧ pathOf (s.cc.get 12) = 1 ∧ (s.cc.get 24).toNat % 32 ≠ 0 ∧
    (s.cc.get 12).toNat % 32 = 0 ∧ digests s 10 12 4 0 = true ∧ digests s 22 12 16 0 = true := by decide +kernel

/-- A core with CCAP pages at virtual 0x200000 (linear offset 0 of stack 0) and 0x208000 (2^21 + 0x8000), a key in slot 0 and a
grant of two drawers on stack 0. -/
def ccapCore (regs : List (BitVec 6 × Nat)) : State :=
  let s := (core0 regs).putBytes (stackKey (linOf (0x10000 + 8 * 64))) (wordsBytes [0x4000000000FF, 0x4000100000FF])
  { s.setLaunch 0 { s.launch 0 with words := [0, 0, 0, 2] } with keys := [(0, some ⟨0, 0⟩)] }

theorem test_witness_DrawerResults_open :
    let s := ccapCore [(6, 0x200000), (7, 2), (8, 1), (9, 2 ^ 60), (10, 6 * 2 ^ 60)]
    let with_ (l : Tab Drawer) : State := s.setStack 0 { drawers := l }
    let row (r : BitVec 6) : Option (Option Nat) := (s.rowAddr (s.cc.get r)).toOption.map (fun o => o.map (·.1))
    let free (s : State) (n : Nat) : Bool := (Claims.drawerAt s 0 0 0 n).row.isNone && !(Claims.drawerAt s 0 0 0 n).resv
    s.cc.guard 0 = true ∧ row 10 = none ∧ row 6 = some (some 0) ∧ row 9 = some none ∧ 2 ≤ (s.cc.get 7).toNat ∧ (s.cc.get 8).toNat < 2 ∧
    s.launchOf s.cdie = some 0 ∧ (s.launch 0).drw 0 = 2 ∧
    (let t := with_ [(3, { row := some 0, gen := 3 })]
     (Claims.drawerAt t 0 0 0 3).row = some 0 ∧ (Claims.drawerAt t 0 0 0 3).owner = 0) ∧
    (let t := with_ [(70, { row := some 5 }), (80, { resv := true })]
     (t.launch 0).drw 0 ≤ t.drawersUsed 0 0) ∧
    (let t := with_ [(2, { row := some 1023, owner := 9 })]
     t.drawersUsed 0 0 < 2 ∧ (Claims.drawerAt t 0 0 0 2).row = some 1023 ∧ 1023 / 2 ^ 10 = 0) ∧
    (let t := with_ ((List.range 4).map (fun i => (i, { row := some (1024 * (i + 1)), owner := 9 })))
     t.drawersUsed 0 0 < 2 ∧ (List.range 4).all (fun n => !free t n) = true) ∧
    (let t := with_ [(0, { row := some 1024, owner := 9 }), (1, { resv := true, owner := 9 })]
     t.drawersUsed 0 0 < 2 ∧ free t 0 = false ∧ free t 1 = false ∧ free t 2 = true) := by decide +kernel

theorem test_witness_DrawerResults_close :
    let s := ccapCore [(6, 0x200000), (12, 5 * 2 ^ 60), (13, 5 * 2 ^ 60 + 2 ^ 56), (14, 5 * 2 ^ 60 + 2 ^ 10), (15, 5 * 2 ^ 60 + 3 * 2 ^ 40)]
    let held (g : BitVec 4) (o : Nat) : State := s.setStack 0 { drawers := [(0, { row := some 2, gen := g, owner := o })] }
    let busy := (held 3 0).setBeng 0 0 0 { q := [⟨0, [0, 0, 0, 1], 0, 0, 1, [(stackKey (linAt 0 0 0 2 0), 0)], 0, 0, [], []⟩] }
    (pathOf (s.cc.get 6) ≠ 5 ∧ (s.cc.get 13).toNat / 2 ^ 56 % 2 ≠ 0 ∧ (s.cc.get 14).toNat / 2 ^ 10 % 2 ^ 30 ≠ 0) ∧
    (pathOf (s.cc.get 12) = 5 ∧ (s.cc.get 12).toNat / 2 ^ 40 % 2 ^ 16 = 0 ∧ (Claims.drawerAt s 0 0 0 0).row = none) ∧
    s.launchOf s.cdie = some 0 ∧ (s.cc.get 15).toNat / 2 ^ 40 % 2 ^ 16 = 3 ∧ (s.cc.get 15).toNat / 2 ^ 10 % 2 ^ 30 = 0 ∧
    (Claims.drawerAt (held 4 0) 0 0 0 0).gen.toNat ≠ 3 ∧ (Claims.drawerAt (held 3 0) 0 0 0 0).gen.toNat = 3 ∧
    (Claims.drawerAt (held 3 0) 0 0 0 0).owner = 0 ∧ (Claims.drawerAt (held 3 5) 0 0 0 0).owner ≠ 0 ∧
    (busy.beng 0 0 0).q.any (fun c => c.touches (stackKey (linAt 0 0 0 2 0))) = true ∧ ((held 3 0).beng 0 0 0).q = [] := by decide +kernel

/-- Blocks of an addition of one FP32 element, of a reduction of two and of an optimiser step of one. -/
def nbCore (b : List Nat) : State :=
  let s := ccapCore ([(6, 2 ^ 60), (7, 2 ^ 60 + 128), (8, 5 * 2 ^ 60), (9, 2 ^ 60 + 64), (10, 2 ^ 60 + 8), (11, 3 * 2 ^ 21), (12, 5)] ++
    b.zipIdx.map (fun e => (BitVec.ofNat 6 (20 + e.2), e.1)))
  (s.putBytes (sramKey 0 0 0 0) (wordsBytes [0x101, 0x200000, 0x200040, 0x40, 0, 0, 0, 0])).putBytes (sramKey 0 0 0 128)
    (wordsBytes [0x100, 0x200000, 0x200040, 0x200080, 0, 0, 0x004004004, 0, 0, 0, 0, 0, 0, 0, 0, 0])

/-- A status; a crossing; or the operands that are checked. -/
def kindOf (r : Checked) : Nat × Nat :=
  match r with
  | .status n => (0, n)
  | .rej _ => (1, 0)
  | .ok l => (2, l.length)

theorem test_witness_BaseDieCommandResults_blocks :
    let nb (b : List Nat) : Nat × Nat := let s := nbCore b; kindOf (s.nbCheck s.cdie (s.cc.getN 20 4))
    nb [0x200000, 0x200040, 0x200080, 1] = (2, 3) ∧ nb [0x200000, 0x200040, 0x200080, 5 * 2 ^ 34] = (0, 2) ∧
    nb [0x200000, 2 ^ 60, 0x200080, 1] = (0, 3) ∧ nb [0x200000, 0x200040, 0x200080, 0] = (2, 3) ∧
    nb [0x200000, 0x208000, 0x200080, 2 ^ 37 + 1] = (1, 0) ∧
    (let s := nbCore []
     s.cc.guard 0 = true ∧ (s.cc.get 6).toNat % 64 = 0 ∧ ((s.loadRange s.cdie true false 64 (s.cc.get 6) 64).toOption.map
       (fun x => kindOf (x.2.rdCheck x.2.cdie (bytesWords 8 x.1)))) = some (2, 3) ∧
     (s.cc.get 7).toNat % 128 = 0 ∧ ((s.loadRange s.cdie true false 128 (s.cc.get 7) 128).toOption.map
       (fun x => kindOf (x.2.opCheck x.2.cdie (bytesWords 16 x.1)))) = some (2, 3)) := by decide +kernel

theorem test_witness_BaseDieCommandResults_queues :
    let s := nbCore []
    let full := s.setBeng 0 0 0 { q := List.replicate 16 ⟨0, [], 0, 0, 1, [], 0, 0, [], []⟩ }
    (s.beng 0 0 0).q.length < 16 ∧ 16 ≤ (full.beng 0 0 0).q.length ∧ (s.beng 0 0 0).q.all (fun c => decide (c.die ≠ s.cdie)) = true ∧
    pathOf (s.cc.get 8) = 5 ∧ pathOf (s.cc.get 6) = 1 ∧ (s.cc.get 10).toNat % 64 ≠ 0 ∧ (s.cc.get 9).toNat % 128 ≠ 0 ∧
    (s.cc.get 11).toNat / 2 ^ 21 % 4 = 3 ∧ ((s.beng 0 0 0).hist.find? (fun h => h.1 == 5)) = none ∧
    (((s.setBeng 0 0 0 { hist := [(5, 2, 0x0E, 0)] }).beng 0 0 0).hist.find? (fun h => h.1 == (s.cc.get 12).toNat % 2 ^ 21)) = some (5, 2, 0x0E, 0) := by
  decide +kernel

/-- The current unit's row is live for a DIR. -/
def liveRow (s : State) (d : BitVec 4) : Bool :=
  match s.curRow with
  | some c => decide ((s.fcfg c).toNat % 32 ≤ 20 ∧ (s.fcfg c).toNat / 2 ^ 8 % 32 ≤ 20 ∧ ¬(d = 14 ∧ c.sl % 6 = 0))
  | none => false

def ctxOf (s : State) (f : RowCtx → Bool) : Bool := (s.curRow.map f).getD false

/-- Live rows with DIR 0, 12 and 14, an element below and above the vector's end, an INT4 vector, a last and a not last instance. -/
theorem test_witness_MoveAndPredicateRowResults :
    let s := rowState 10 0 [5]
    let more := s.setRegion 0 0 { s.region 0 0 with tasks := [(0, 2)] }
    liveRow s 0 = true ∧ liveRow s 12 = true ∧ liveRow s 14 = true ∧ liveRow (rowState 20 20 []) 0 = true ∧
    ctxOf s (fun c => decide (s.faW c = 32 ∧ 0 * 32 + 15 < 512 / s.faW c)) = true ∧
    ctxOf (rowState 3 0 []) (fun c => decide (3 * 32 + 31 ≥ 512 / (rowState 3 0 []).faW c ∧ 1 * 32 + 31 < 512 / (rowState 3 0 []).faW c)) = true ∧
    ctxOf (rowState 9 0 []) (fun c => decide ((rowState 9 0 []).faW c = 4)) = true ∧
    ctxOf s (fun c => decide (c.inst + 1 = c.trip)) = true ∧ ctxOf more (fun c => decide (c.inst + 1 ≠ c.trip)) = true := by decide +kernel

theorem test_witness_IntegerRowResults :
    liveRow (rowState 8 0 []) 0 = true ∧ liveRow (rowState 9 0 []) 0 = true ∧ liveRow (rowState 10 0 []) 5 = true ∧ liveRow (rowState 11 0 []) 0 = true ∧
    ctxOf (rowState 8 0 []) (fun c => decide (7 < (rowState 8 0 []).faW c ∧ ¬ 8 < (rowState 8 0 []).faW c)) = true ∧ (1 : BitVec 4) ≠ 0 := by decide +kernel

theorem test_witness_FloatRowResults :
    ([0, 7] : List Nat).all (fun fa => liveRow (rowState fa 0 []) 0 &&
      ctxOf (rowState fa 0 []) (fun c => decide (((rowState fa 0 []).fcfg c).toNat % 32 ≤ 7))) = true := by decide +kernel

theorem test_witness_BuiltinRowResults :
    let s := rowState 0 0 []
    let t := s.setDie 0 { s.die 0 with act := { (s.die 0).act with ftabs := [(8, some 1)] } }
    liveRow s 0 = true ∧ (tget none (s.die 0).act.ftabs (4 * (48 * 0 + 2) + 0)).isNone = true ∧ liveRow t 0 = true ∧
    (tget none (t.die 0).act.ftabs (4 * (48 * 0 + 2) + 0)).isSome = true := by decide +kernel

theorem test_witness_ReductionRowResults : liveRow (rowState 7 0 []) 12 = true ∧ liveRow (rowState 0 0 []) 0 = true ∧
    ctxOf (rowState 7 0 []) (fun c => decide (0 < 512 / (rowState 7 0 []).faW c)) = true := by decide +kernel

/-- Every case of the block rows has formats that meet it. -/
theorem test_witness_BlockRowResults :
    ([(0, 7), (7, 0), (11, 11), (20, 1), (19, 2), (12, 12), (18, 19), (19, 18), (2, 17), (1, 20), (2, 20)] : List (Nat × Nat)).all
      (fun f => liveRow (rowState f.1 f.2 []) 14) = true ∧
    (laneWidth 7 < laneWidth 0 ∧ 7 < laneWidth 0 / laneWidth 7 ∧ laneWidth 0 ≤ laneWidth 0 ∧ 0 < laneWidth 0 / laneWidth 0) ∧
    (1 : Nat) < (64 + 512 / laneWidth 1 - 1) / (512 / laneWidth 1) ∧ (0 : Nat) < (32 + 512 / laneWidth 2 - 1) / (512 / laneWidth 2) ∧
    ((18 = 18 ∨ 18 = 19) ↔ (19 = 18 ∨ (19 : Nat) = 19)) ∧ ((31 : BitVec 5) = 31) := by decide +kernel

theorem test_witness_RowNullificationAndFaults :
    let s := State.reset.placeRow 0 (fun b => { b with ce := [(0, { named := true })] })
    let s := { s with cur := (0, 0, 0), agenda := [] }
    Claims.rowDir (.copy 0 14 0) = some 14 ∧ Claims.rowDir .nop = some 0 ∧ (core0 []).curRow.isNone = true ∧
    ctxOf s (fun c => decide (c.sl % 6 = 0) && (s.region c.d c.reg).fstop.isNone) = true ∧
    ctxOf (rowState 21 0 []) (fun c => decide (20 < ((rowState 21 0 []).fcfg c).toNat % 32)) = true ∧
    Claims.readsFd .done = true ∧ ctxOf (rowState 0 21 []) (fun c => decide (20 < ((rowState 0 21 []).fcfg c).toNat / 2 ^ 8 % 32)) = true := by decide +kernel

/-- Regions that stand still, run, finish a result of each kind, and a GO that is due or not. -/
theorem test_witness_RegionCycleEnds :
    let s := rowState 0 0 []
    let w : Word := 0x00F0000000000001
    let p (left : Nat) (e : Eff) : Pend := ⟨left, 0, 2, 0, 0, e⟩
    let lanes := s.setDie 0 { s.die 0 with lanes := [(laneKey 0 11 47, 7)] }
    (s.region 0 1).run = false ∧ (s.region 0 0).run = true ∧ (s.region 0 0).halted = false ∧ (s.region 0 0).frz = none ∧
    (s.region 0 0).fstop = none ∧ (s.region 0 0).pipe = [] ∧ (lanes.die 0).lanes = [(laneKey 0 11 47, 7)] ∧ (lanes.die 0).g2 = false ∧
    w.toNat / 2 ^ 58 = 0 ∧ w.toNat / 2 ^ 52 % 64 = 15 ∧ (p 2 (.pred 3)).ring ≤ 15 ∧ 1 < (p 2 (.pred 3)).left ∧ (p 1 (.pred 3)).left ≤ 1 ∧
    (p 1 (.result 1 2 12 0)).eff = .result 1 2 12 0 ∧ (p 0 (.rot 7 1 2 0)).eff = .rot 7 1 2 0 ∧
    ({ goAt := some 5 } : Region).goAt = some 5 ∧ ({ halted := true } : Region).halted = true := by decide +kernel

/-- The entry of the current node is live, legal and free of a cause. -/
def liveEntry (s : State) (i : Instr) : Bool := ctxOf s (fun c => !s.mnIllegal c i && !s.mnCause c i)

theorem test_witness_NodeAccessResults :
    let s := nodeState 1 [1, 2, 3, 4]
    let e := nodeState 1 [] 0
    let t := s.setBuf 0 0 1 3 { full := 1, tags := [(0, 5)] }
    let der := (newDerived [0, 2 ^ 32 + 4, 16 * 2 ^ 21 + 0x1000, 0, 0, 0, 0, 0] false)
    let dv := s.setDeriv 0 0 0 0 (some der)
    (liveEntry s (.lds 0 0 0 0 0xFF) = true ∧ ctxOf s (fun c => decide (agLsz (s.agRec c 0) < 7) &&
      good (s.entryAt c 0xFF false (agOffset (s.agRec c 0) (s.agPos c 0)) (2 ^ agLsz (s.agRec c 0))) && good (s.tagCheck c 0 0xFF) &&
      (match s.entryAt c 0xFF false (agOffset (s.agRec c 0) (s.agPos c 0)) (2 ^ agLsz (s.agRec c 0)) with
       | .ok a => !s.nodePoison c a (2 ^ agLsz (s.agRec c 0))
       | .error _ => false)) = true) ∧
    (liveEntry t (.lds 0 0 0 1 3) = true ∧ ctxOf t (fun c => good (t.tagCheck c 1 3)) = true) ∧
    (liveEntry s (.ldx 0 0 6 0 0 0xFF 0x40) = true ∧ ctxOf s (fun c => match s.indexedAt c 0 0xFF false 0x40 64 with
       | .ok a => !s.nodePoison c a 64
       | .error _ => false) = true) ∧
    (liveEntry dv (.drd 0 0 0 0) = true ∧ (dv.deriv 0 0 0 0).map (fun x => (x.building, decide (0 < x.arrayLen))) = some (false, true)) ∧
    (liveEntry s (.sts 1 0 0 0xFF) = true ∧ ctxOf s (fun c =>
      good (s.entryAt c 0xFF true (agOffset (s.agRec c 0) (s.agPos c 0)) (2 ^ agLsz (s.agRec c 0)))) = true) ∧
    (liveEntry e (.stx 1 0 6 0 3 0xFC0) = true ∧ ctxOf e (fun c => good (e.indexedAt c 0 3 true 0xFC0 64)) = true) := by decide +kernel

theorem test_witness_NodeAtomicAndShelfResults :
    let s := nodeState 1 [1, 2, 3, 4]
    let none_ := (s.setCe 0 0 0 { p := 0 }).setCe 0 0 2 { p := 0 }
    let e := nodeState 1 [] 0
    let bad := s.setDie 0 { s.die 0 with act := { (s.die 0).act with mn := [(1, { (s.die 0).act.mnCfg 0 1 with ncfg := 3 })] } }
    (liveEntry s (.amoO 1 0 0 0 0xFF 0x40) = true ∧ ctxOf s (fun c => (s.predBit c 0 32 0) && (match s.indexedAt c 0 0xFF true 0x40 4 with
       | .ok a => !s.nodePoison c a 4
       | .error _ => false)) = true) ∧
    (liveEntry s (.amoU 1 0 1 0 0xFF 0x40) = true ∧ ctxOf s (fun c => good (s.indexedAt c 0 0xFF true 0x40 8)) = true) ∧
    (liveEntry none_ (.amoO 1 1 0 0 0xFF 0x40) = true ∧ ctxOf none_ (fun c => ((List.range 16).filter (none_.predBit c 1 32)).isEmpty) = true) ∧
    liveEntry s .mnop = true ∧ liveEntry s (.mfence 0 0x020200) = true ∧
    (liveEntry e (.shpub 3) = true ∧ (e.shelf 0 0 1 3).getLsbD 42 = true ∧ liveEntry s (.shpub 4) = true ∧ (s.shelf 0 0 1 4).getLsbD 42 = false) ∧
    (liveEntry s (.shrel 3) = true ∧ (s.buf 0 0 1 3).full.getLsbD ((s.buf 0 0 1 3).cc % ((s.shelf 0 0 1 3).toNat / 2 ^ 45 % 8 + 1)) = true ∧
      liveEntry e (.shrel 3) = true ∧ (e.buf 0 0 1 3).full.getLsbD 0 = false) ∧
    (ctxOf bad (fun c => bad.mnIllegal c (.lds 0 0 0 0 0xFF)) = true) ∧
    (ctxOf e (fun c => !e.mnIllegal c (.lds 0 0 0 0 3) && e.mnCause c (.lds 0 0 0 0 3) && (e.region c.d c.reg).frz.isNone) = true) := by decide +kernel

/-- An XN's slot with its entry: live, late, with a cause (an empty operand shelf), with a fault (a missing map), nullified. -/
def xnAt (s : State) (w : Word) : Option (Bool × Bool × Bool × Nat) :=
  match s.xnSlot, xnInstr w with
  | some (c, served), some i => some (served, s.xnCause c w, (s.xnFaultOf 0 0 3 i w).isSome, (Claims.cycles s c i).getD 0)
  | _, _ => none

theorem test_witness_MatrixEntryResults :
    let xmm : Word := 0x0400010101000000
    let late := (matrixEntry xmm).setXn 0 0 3 { ev := [(0, 0x80)] }
    let empty := (matrixEntry xmm).setBuf 0 0 1 1 { full := 0 }
    let null := (matrixEntry xmm).setRegion 0 0 { run := true, tasks := [] }
    Claims.fires (.xmm 0 0 1 1 1 0) = true ∧ Claims.fires (.xtrq 1 2) = true ∧ Claims.versioned false (.xdbw 0 0 0 1 0 0 0) = some 0 ∧
    xnAt (matrixEntry xmm) xmm = some (true, false, false, 32) ∧ xnAt (matrixEntry 0x1000010101000000) 0x1000010101000000 = some (true, false, true, 32) ∧
    (xnAt empty xmm).map (fun x => (x.1, x.2.1)) = some (true, true) ∧ (xnAt late xmm).map (·.1) = some true ∧
    128 ≤ (tget 0 (late.xn 0 0 3).ev 0 - (late.xn 0 0 3).ver 0).toNat ∧ ¬ 128 ≤ (0x7F - (0 : Byte)).toNat ∧
    (xnAt null xmm).map (·.1) = some false ∧ (null.xn 0 0 3).nulls = [] ∧ (null.xn 0 0 3).ver 0 = tget 0 (null.xn 0 0 3).ev 0 := by decide +kernel

/-- The XN with one operation of that entry in flight, `left` cycles from its end, for a command or not. -/
def inFlight (w : Word) (left : Nat) (cmd : Option Word) : State :=
  let t := ((xnInstr w).bind (fun i => ran i (matrixEntry w))).getD State.reset
  t.setXn 0 0 3 { t.xn 0 0 3 with flight := (t.xn 0 0 3).flight.map (fun f => { f with left, busy := left, cmd }) }

theorem test_witness_MatrixCompletionResults :
    let done (w : Word) (cmd : Option Word) : Bool :=
      let s := inFlight w 0 cmd
      match (s.xn 0 0 3).flight[0]? with
      | some f => (xnInstr f.entry).isSome && !f.applied && f.left == 0 && f.busy == 0 && f.cmd == cmd && (s.xn 0 0 3).nulls.isEmpty &&
          decide (teOf ((s.die 0).act.xnCfg 0 3).fcfg = 0)
      | none => false
    let c := (xcmdState 1).setRegion 0 0 {}
    let u := c.setXn 0 0 3 { c.xn 0 0 3 with cmds := [] }
    done 0x0800000000F80000 none = true ∧ done 0x0400010101000000 none = true ∧ done 0x2400020000000000 none = true ∧
    done 0x0800000000F80000 (some (2 ^ 25 + 7 * 2 ^ 22)) = true ∧ (BitVec.ofNat 64 (2 ^ 25 + 7 * 2 ^ 22) : Word).getLsbD 25 = true ∧
    ((c.die 0).act.regionAt 0).map (·.1) = some 0 ∧ ((xcmdState 0).xnHead 0 0 3).isNone = true ∧
    (c.xnHead 0 0 3).map (fun h => (h.2.1, h.2.2.2, (u.xnFaultOf 0 0 3 h.2.2.1 h.2.1).isNone)) = some (0x0800000000F80000, false, true) := by
  decide +kernel

theorem test_witness_FirmwareAndLinkEvents :
    let s := core0 []
    let up : State := { s with mgmt := { s.mgmt with meshUp := 0xFFFF } }
    let used := up.setLaunch 0 { up.launch 0 with circuits := [{ circuit0 with hops := [0x12000] }], w := 3 }
    let down : State := { s with mgmt := { s.mgmt with meshRetrain := 0x8001 } }
    spaceOf (sramKey 0 0 0 13) ≤ 2 ∧ spaceOf (stackKey 70) ≤ 2 ∧ spaceOf (capKey 64) ≤ 2 ∧ sramKey 0 0 0 13 < 2 ^ 60 ∧ ¬ stackKey 70 < 2 ^ 60 ∧
    up.linkUsers 15 = [] ∧ used.linkUsers 12 = [0] ∧ linkDie 12 = 1 ∧
    (used.launch 0).phase ≠ .ended ∧ (used.launch 0).faults = [] ∧ down.mgmt.meshRetrain.getLsbD 15 = true ∧ down.linkUsers 15 = [] ∧
    down.mgmt.meshRetrain.getLsbD 1 = false := by decide +kernel

theorem test_witness_RefreshAndRemoteEvents :
    let s (x : Stack) (now : Nat) : State := { State.reset.setStack 1 x with cycle := now }
    let seen (t : State) : Bool × Nat × Option Nat := ((t.stack 1).takenOver, (t.stack 1).lastBeat, (t.stack 1).resumed)
    let a : Stack := { act := [(3, (0xC001100000000001, 2))], denials := 63 }
    seen (s {} 10000) = (false, 0, none) ∧ (0 + 10000 ≤ (s {} 10000).cycle) ∧ ((s {} 9999).cycle < 0 + 10000) ∧
    seen (s { takenOver := true } 20000) = (true, 0, none) ∧ seen (s { takenOver := true, resumed := some 5, lastBeat := 9 } 10005) = (true, 9, some 5) ∧
    5 + 10000 ≤ (s { takenOver := true, resumed := some 5, lastBeat := 9 } 10005).cycle ∧ (10005 < 9 + 10000) ∧
    (a.actMatch 0x11 0x8000 = some 0 ∧ a.actMatch 0x11 0x17FFF = some 0 ∧ a.actMatch 0x11 0x18000 = none ∧ a.actMatch 0x12 0x8000 = none) ∧
    a.denials + 1 = 64 ∧ ({} : Stack).denials + 1 ≠ 64 ∧ a.act = [(3, (0xC001100000000001, 2))] ∧ (255 < 256) := by decide +kernel

theorem test_witness_BaseDieStepResults_commands :
    let s := baseState 0 [0, 0, 0, 1] 3
    let c : Option BCmd := (s.beng 0 0 0).q[0]?
    let two := (baseState 0 [0, 0, 0, 17] 3).beng 0 0 0
    let past : BCmd := { (c.getD ⟨0, [], 0, 0, 0, [], 0, 0, [], []⟩) with pos := 1 }
    let bad : State := { s with poison := [(stackKey 64, true)] }
    (State.reset.beng 0 1 0).q = [] ∧ (s.beng 0 0 0).q.length = 1 ∧
    c.map (fun c => (c.granules, c.span 0, c.flag.isNone, s.opPoison c 0, bad.opPoison c 0)) = some (1, [0], true, false, true) ∧
    c.map (fun c => (c.skipped, c.carry.length)) = some ([], 0) ∧
    (past.granules ≤ past.pos ∧ past.flag.isNone = true) ∧ two.q.map (fun c => decide (c.pos < c.granules)) = [true] := by decide +kernel

/-- A granule of one element that is not the last of its command: two FP32 sums whose first ends a granule. -/
theorem test_witness_BaseDieStepResults_elements :
    let c : BCmd := ⟨0, [0, 0, 0, 2], 0, 0, 1, [(stackKey 60, 0), (stackKey 4096, 0), (stackKey 8192, 0)], 0, 0, [], []⟩
    c.span 0 = [0] ∧ c.pos + 1 < c.granules ∧ c.skipped = [] ∧ c.carry.length = 0 ∧ c.kind = 0 ∧
    (State.reset.opResult c 0).1.map (fun w => (w.1, w.2.1, w.2.2.length)) = [(0, 0, 4)] ∧
    (c.first + 0 + 3) / 64 = c.first / 64 + c.pos ∧
    (blkWord [0x200, 0, 0, 0, 0, 0, 0x080080080] 0).toNat % 4 = 0 ∧ blkWord [0x200, 0, 0, 0, 0, 0, 0x080080080] 5 = 0 ∧
    State.reset.opPoison c 0 = false ∧
    ([0, 1, 2, 3, 4] : List Nat).all (fun o => decide ((BitVec.ofNat 64 (o * 2 ^ 34 + 1)).toNat / 2 ^ 34 % 8 = o)) = true ∧
    (blkWord [0x101] 0).toNat % 16 = 1 ∧ (blkWord [0x101] 0).toNat / 16 % 4 = 0 := by decide +kernel

theorem test_witness_StartUpAndHostAccess :
    let s := started 0
    State.reset.starting = true ∧ State.reset.mgmt.powered = true ∧ s.starting = false ∧ State.reset.mgmt.linkUp = false ∧ s.mgmt.linkUp = true ∧
    s.poisoned (stackKey (linOf (2 ^ 39 - 1))) 1 = false ∧ s.poisoned (capKey (2 ^ 40 - 1)) 1 = false ∧ (60 % 64 + 4 ≤ 64) ∧
    ([1, 2, 3, 4] : List Byte).length = 4 ∧ (2 ^ 39 + 2 ^ 40 + 2 ^ 18 - 1 < 2 ^ 39 + 2 ^ 40 + 2 ^ 18) ∧ 0x1FFF % 0x4000 < 0x2000 ∧ ¬ 0x2000 % 0x4000 < 0x2000 := by
  decide +kernel

theorem test_witness_QueueAndSchedulerEvents_records :
    let s := hostWrote
    let t := after (.launchRecordAcceptance 0) s
    let l (words : List Word) : State := t.setLaunch 0 { t.launch 0 with words }
    let word (n : Nat) (v : Word) : List Word := recordWords.set n v
    ((s.queue 0).qstate = 1 ∧ (s.queue 0).nextseq ≠ 0 ∧ (s.recordAt 0 ((s.queue 0).nextseq.toNat % 64))[15]? = some (s.queue 0).nextseq) ∧
    ((s.queue 1).qstate = 1 ∧ (s.recordAt 1 1)[15]? ≠ some (s.queue 1).nextseq) ∧
    ((t.launch 0).phase = .accepted ∧ 0 < t.nLaunch) ∧ t.recordStatus 0 = some 5 ∧ (t.launch 0).formBad = false ∧ t.origins (t.launch 0) ≠ [] ∧
    (l (word 0 0)).recordStatus 0 = some 2 ∧ ((l (word 0 0)).launch 0).formBad = true ∧
    (l (word 4 0x1FFFFFF)).recordStatus 0 = some 4 ∧ ((l (word 4 0x1FFFFFF)).launch 0).formBad = false := by decide +kernel

theorem test_witness_QueueAndSchedulerEvents_passes :
    let s := queuedLaunch
    let x := s.launch 0
    let old : State := { s with cycle := 2 ^ 24 }
    let g := s.setLaunch 0 { x with phase := .asking, words := recordWords, w := 3 }
    (s.mgmt.passDue = true ∧ s.mgmt.powered = true) ∧ (started 0).mgmt.passDue = false ∧
    (x.queue = 2 ∧ (s.queue 2).items = [0] ∧ (List.range 16).all (fun p => p == 2 || (s.queue p).items.isEmpty) = true ∧
      s.launches.all (fun e => !(s.launch e.1).resv) = true ∧ x.phase = .queued ∧ x.resv = false ∧ x.prio ≤ 3 ∧ s.firstFit 0 = some (0, 0) ∧
      s.isLocal { x with gx := 0, gy := 0 } = true) ∧
    (0 < old.nLaunch ∧ x.aged = false ∧ x.since + old.mgmt.ageInUse.toNat ≤ old.cycle ∧ ¬ x.since + s.mgmt.ageInUse.toNat ≤ s.cycle) ∧
    s.fits s.nLaunch [5, 7] (fun _ => 0) [] = true ∧ (core0 []).fits 1 [0] (fun _ => 0) [] = false ∧ (core0 []).removals 1 0 [0] (fun _ => 0) = [] ∧
    (g.launch 0).phase = .asking ∧ (g.otherPackages (g.launch 0)).isEmpty = false := by decide +kernel

theorem test_witness_LaunchLifeEvents :
    let s := core0 []
    let halted := s.setCc { s.cc with halted := true }
    let adm := s.setLaunch 0 { s.launch 0 with phase := .admitted }
    let back := s.setLaunch 0 { s.launch 0 with phase := .admitted, saved := some ⟨[(0, s.die 0)], [], [], []⟩ }
    let victim := halted.setLaunch 0 { s.launch 0 with phase := .stopping, preemptor := some 1 }
    let fault : FaultInfo := ⟨3, 0x14, 0, none, 0, 0, 5, 0, none⟩
    let bad : State := { halted.setLaunch 0 { s.launch 0 with faults := [fault] } with cycle := 75 }
    let alarm (n : BitVec 2) : State := { s with mgmt := { s.mgmt with alarmLevel := n } }
    (adm.launch 0).phase = .admitted ∧ (adm.launch 0).saved.isNone = true ∧ (s.launch 0).phase ≠ .admitted ∧
    ((back.launch 0).saved.map (fun v => (v.dies.find? (fun f => f.1 == 0)).map (·.1)) = some (some 0) ∧ (back.launch 0).circuits = [] ∧
      (0, 0) ∈ back.localDies (back.launch 0)) ∧
    s.savable 0 = false ∧ victim.savable 0 = true ∧ (victim.launch 0).resv = false ∧
    ((halted.launch 0).phase = .running ∧ (halted.launch 0).faults = [] ∧ halted.allHalted 0 = true ∧ (halted.launch 0).transit = [] ∧
      (halted.localDies (halted.launch 0)).all (fun e => halted.dieEnded e.2) = true) ∧ s.allHalted 0 = false ∧
    ((bad.launch 0).faults.map (·.wall)).min? = some 5 ∧ 5 + 70 ≤ bad.cycle ∧ (bad.launch 0).phase.holds = true ∧ bad.allStopped 0 = true ∧
    ([0, 1, 2, 3] : List (BitVec 2)).all (fun n => decide ((alarm n).mgmt.alarmLevel = n) && ((alarm n).launch 0).phase.holds) = true := by decide +kernel

theorem test_witness_RegionAndControllerEvents_tasks :
    let s := regionState { run := true, enables := 2, trip := 5 }
    let zero := regionState { run := true, enables := 1 }
    let held := regionState { run := true, hold := true, enables := 1 }
    (s.desc 0 1).isNone = true ∧ s.desc 0 0 = some 1 ∧ s.admits 0 = true ∧ (s.region 0 0).mayBegin 1 = true ∧ (s.region 0 0).trip ≠ 0 ∧
    (zero.region 0 0).mayBegin 1 = true ∧ (zero.region 0 0).trip = 0 ∧ (held.region 0 0).mayBegin 1 = false ∧
    (∀ l, cellState.launchOf 0 = some l → l = 0) ∧ cellState.allHalted 0 = false ∧ (cellState.die 0).childReady 0 0 = true ∧
    childIsRegion ((cellState.die 0).cell 0).2 0 = true ∧ ((regionState {}).setLaunch 0 { phase := .stopping }).admits 0 = false := by
  refine ⟨by decide +kernel, by decide +kernel, by decide +kernel, by decide +kernel, by decide +kernel, by decide +kernel, by decide +kernel,
    by decide +kernel, ?_, by decide +kernel, by decide +kernel, by decide +kernel, by decide +kernel⟩
  intro l h
  have k : cellState.launchOf 0 = some 0 := by decide +kernel
  exact Option.some.inj (h.symm.trans k)

/-- A cell whose child 1 is cell 1; a freeze that has cleared, one that lasts, a fault stop. -/
theorem test_witness_RegionAndControllerEvents_rest :
    let c := cellState
    let c := c.setDie 0 { c.die 0 with
      act := { rdesc := [(0, some 1)], cells := [(0, (BitVec.ofNat 64 (2 ^ 62 + 2 ^ 48 + 2), 0x01)), (1, (BitVec.ofNat 64 (2 ^ 62 + 1), 0))] }
      cellRuns := [(0, { active := true, n := 2 }), (1, { n := 1 })] }
    let f (clear : Option Nat) (now : Nat) : State := { regionState { frz := some ⟨3, clear, 0, 2, false⟩ } with cycle := now }
    let stop : State := { regionState { run := true, rc := 9, fstop := some ⟨10, 7, 0, 1, 0, 2, 0, 0, 0, 0, [], [], 0⟩ } with cycle := 13 }
    (childIsRegion ((c.die 0).cell 0).2 0, childIdx ((c.die 0).cell 0).2 0, ((c.die 0).cellRun 1).n, (c.die 0).childReady 0 0) = (false, 1, 1, true) ∧
    ((f (some 5) 7).region 0 0).frz.map (fun z => z.clear) = some (some 5) ∧ 5 + 2 ≤ (f (some 5) 7).cycle ∧ (f (some 5) 6).cycle < 5 + 2 ∧
    (f none (3 + 2 ^ 26)).desc 0 0 = some 1 ∧ ((f none (3 + 2 ^ 26)).region 0 0).frz.map (fun z => (z.since, z.thr, z.clear)) = some (3, false, none) ∧
    ((f none (3 + 2 ^ 26)).region 0 0).fstop.isNone = true ∧ (stop.region 0 0).fstop.map (·.wall) = some 10 ∧ stop.desc 0 0 = some 1 ∧
    10 + 3 + ((0 - 0) + (0 - 0)) ≤ stop.cycle := by decide +kernel

/-- Tokens in every step, a derived-region carry that step 5 must refuse, in a region and outside one. -/
theorem test_witness_ReconfigurationAndCircuitEvents :
    let s := core0 []
    let x := s.die 0
    let tok (k now : Nat) : State := { s.setDie 0 { x with token := some ⟨k, 0⟩ } with cycle := now }
    let rec_ := circuitState
    let run := after (.circuitTransferStart 0 0) rec_
    x.token.isNone = true ∧ ((tok 6 8).die 0).token.map (fun k => (k.step, k.since)) = some (6, 0) ∧ (0 + 8 ≤ (tok 6 8).cycle) ∧ ((tok 6 7).cycle < 0 + 8) ∧
    (tok 1 0).stepDone 0 1 = true ∧ ((tok 5 0).die 0).shd.carryBad ((tok 5 0).die 0).act = none ∧ x.prefetch.isNone = true ∧
    ((s.setDie 0 { x with prefetch := some 5 }).die 0).prefetch = some 5 ∧ s.launchOf 0 = some 0 ∧ s.streamOverDerived 0 [] = none ∧
    (rec_.launch 0).circuits[0]? = some circuit0 ∧ rec_.circuitBufs 0 circuit0 = some (0, 0) ∧ rec_.circuitOn 0 0 circuit0 = true ∧
    (tget none (rec_.launch 0).transit 0).isNone = true ∧ tget none (run.launch 0).transit 0 = some (0, 0) ∧
    run.circuitEnd 0 circuit0.sdie circuit0.sring circuit0.snode = some (0, 0, 1) ∧
    run.circuitEnd 0 circuit0.ddie circuit0.dring circuit0.dnode = some (1, 0, 1) ∧ (0 : Nat) ≠ 1 := by decide +kernel

theorem test_witness_StreamAndStoreEvents :
    let s := after (.scpy 6 16 7 0) (core0 [(16, 2 ^ 60), (17, 2 ^ 60 + 2 ^ 44), (18, 0x0001000100010001), (21, 3), (22, 0xFF00), (23, 9 * 2 ^ 60)])
    let t := after (.streamCommandStart 0 0 0) s
    let st := after (.st 0 4 7 0 0 0) (core0 [(7, 2 ^ 60 + 9), (4, 0xAB)])
    let y : Derived := newDerived ((declCore (declWords 2 7 4)).cc.getN 16 8) true
    let sh := st.setDeriv 0 0 0 7 (some { y with words := y.words.set 2 (BitVec.ofNat 64 (16 * 2 ^ 21)) })
    s.mayStart 0 0 0 = true ∧ (s.engine 0 0).cmds.map (fun c => (s.claimNow 0 c).isSome) = [true] ∧ s.mayStart 0 1 0 = false ∧ s.mayFinish 0 0 0 = false ∧
    t.mayFinish 0 0 0 = true ∧ (t.engine 0 0).cmds.map (fun c => (bitsOf (scWord c.words 7) 52 12, bitsOf (scWord c.words 7) 0 5)) = [(0x900, 0)] ∧
    (t.engine 0 0).cmds.map (fun c => (c.reject.isNone, c.started, c.kind, scPub c.words, scTotal c.words)) = [(true, true, 0, false, 1)] ∧
    (t.engine 0 0).cmds.map (fun c => ((t.nodeAddr 0 (scWord c.words 0)).isSome, (t.nodeAddr 0 (scWord c.words 1)).isSome)) = [(true, true)] ∧
    t.inShadow 0 0 0 0 1 = false ∧ t.poison = [] ∧ (st.core 0).stq.length = 1 ∧ (st.core 0).mayArrive 0 = true ∧ (st.core 0).mayArrive 1 = false ∧
    st.inShadow 0 0 0 9 1 = false ∧ sh.inShadow 0 0 0 9 1 = true ∧ (sh.deriv 0 0 0 7).map (·.building) = some true ∧ (st.deriv 0 0 0 7).isNone = true := by
  decide +kernel

/-- A rejected command has ended its wait. -/
theorem test_witness_StreamAndStoreEvents_rejected :
    let s := after (.scpy 6 16 7 0) (core0 [(16, 2 ^ 60), (17, 2 ^ 60 + 2 ^ 44), (18, 0x0001000100010010), (19, 1), (21, 4), (22, 0xFF00), (23, 9 * 2 ^ 60)])
    (s.engine 0 0).cmds.map (fun c => (c.reject.isSome, bitsOf (scWord c.words 7) 52 12)) = [(true, 0x900)] ∧ s.mayFinish 0 0 0 = true := by decide +kernel

/-- Handler tables at node offset 0x200 with a valid entry for index 0, an invalid one for 1; collectives of two cores. -/
def tokenState (tok : Word) (htab : Word) : State :=
  let s := (core0 []).putBytes (sramKey 0 0 0 0x200) (wordsBytes [0x8000000000000080, 0x8000000000000082])
  s.setCc { s.cc with tokIn := [⟨tok, 0, 0⟩], htab }

def collState (dsc : Word) : State :=
  let c (n : Nat) : Core := { (core0 []).cc with wait := .coll, colls := 1, collArgs := (BitVec.ofNat 64 (2 ^ 60 + n * 2 ^ 54), dsc), dien := BitVec.ofNat 64 n }
  let s := core0 []
  ((s.setLaunch 0 { s.launch 0 with w := 2 }).setDie 1 { launch := some 0, core := c 1 }).setCc (c 0)

theorem test_witness_TokenAndCollectiveEvents_tokens :
    let e (s : State) : Option (Bool × Nat × Nat) := ((s.setCore 0 { s.core 0 with tokIn := [] }).handlerEntry 0 ((s.cc.tokIn.map (·.word))[0]?.getD 0)).map
      (fun h => (h.1.getLsbD 63, h.1.toNat / 2 ^ 48 % 2 ^ 15, h.1.toNat % 4))
    (core0 []).cc.tokIn = [] ∧ (tokenState 0x42 0).cc.tokIn = [⟨0x42, 0, 0⟩] ∧ (tokenState 0x42 0).cc.htab = 0 ∧ e (tokenState 0x42 0) = none ∧
    e (tokenState 0x42 0x200) = some (true, 0, 0) ∧ e (tokenState 0x100000000 0x200) = some (true, 0, 2) := by decide +kernel

theorem test_witness_TokenAndCollectiveEvents_collectives :
    let ok := collState 0x10001
    let bad := collState 0x10004
    let all (s : State) : Bool := (s.localDies (s.launch 0)).all (fun e => decide ((s.core e.2).wait = .coll ∧ (s.core e.2).colls = 1))
    State.reset.localDies (State.reset.launch 0) = [] ∧ ((core0 []).core 0).wait ≠ .coll ∧ (0, 0) ∈ (core0 []).localDies ((core0 []).launch 0) ∧
    ok.localDies (ok.launch 0) = [(0, 0), (1, 1)] ∧ ok.isLocal (ok.launch 0) = true ∧ all ok = true ∧ all bad = true ∧
    (ok.parts 0).map (fun p => (p.1, p.2.bad, p.2.loc.toOption.map (fun l => (l.tgt, decide (l.key = sramKey l.die l.ring l.node l.off))))) =
      [(0, false, some (2, true)), (1, false, some (2, true))] ∧ (ok.launch 0).dieCount = 2 ∧
    (ok.parts 0).map (fun p => (p.2.dsc.toNat % 4, p.2.dsc.toNat / 2 ^ 16 % 2 ^ 16)) = [(1, 1), (1, 1)] ∧ ok.poison = [] ∧
    (bad.parts 0).any (fun p => p.2.bad) = true := by decide +kernel

theorem test_witness_StepKeepsMemoryForm : Memory.wf (core0 []).mem = true ∧ (core0 []).mem ≠ [] ∧ Memory.wf State.reset.mem = true := by decide +kernel

theorem test_witness_KModeKeepsPrivilegedState : coreWords (.add 3 4 5 0) ≠ none ∧ coreWords (.trap 5) ≠ none ∧ (core0 []).cc.smode = false ∧
    (ran (.add 3 4 5 0) (core0 [])).isSome = true ∧ (ran (.trap 5) (core0 [])).isSome = true := by decide +kernel

/-- A CARRY that finds no descriptor outgoing, in ring 0 with and without a region; a prefetch that meets a derived region. -/
theorem test_witness_ReconfigurationAndCircuitEvents_refused :
    let s := core0 []
    let m : Tab MnCfg := [(1, { named := true, shelf := [(3, BitVec.ofNat 64 (2 ^ 44 + 2 ^ 43 + 2 ^ 42 + 2 ^ 32))] })]
    let t (b : Bank) : State := s.setDie 0 { s.die 0 with token := some ⟨5, 0⟩, act := b, shd := { mn := m } }
    let y : Derived := newDerived ((declCore (declWords 2 7 4)).cc.getN 16 8) false
    let p := (s.setDeriv 0 0 0 7 (some y)).setLaunch 0 { s.launch 0 with items := [⟨5, 16, .mn 0 1 {}⟩] }
    ((t {}).die 0).shd.carryBad ((t {}).die 0).act = some (1, 3) ∧ (t {}).stepDone 0 5 = true ∧ ((t {}).die 0).act.regionAt (1 / 48) = none ∧
    ((t { rdesc := [(0, some 1)] }).die 0).act.regionAt (1 / 48) = some (0, 1) ∧ ((t { rdesc := [(0, some 1)] }).region 0 0).fstop.isNone = true ∧
    p.overDerived 0 ((p.launch 0).loadItems 5) = some (16, 3) ∧ (p.launch 0).phase ≠ .ended ∧ (p.launch 0).faults = [] := by decide +kernel

/-- A path that allows no atomic, one that waits behind the core's own store, one that meets an uncorrectable error; a waiting
load of that granule. -/
theorem test_witness_AtomicAndWaitvResults_traps :
    let s := stackCore [(9, 15 * 2 ^ 60)]
    let q := after (.st 0 8 7 3 0 0) s
    let bad : State := { s with poison := [(stackKey (linOf 64), true)] }
    let meets (t : State) : Option (Bool × Bool) := (t.locate t.cdie none (t.cc.get 7) .amo t.cc.smode).toOption.map
      (fun loc => (t.inFlight t.cdie (pathOf (t.cc.get 7)) loc 8, good (t.readLoc loc (t.cc.get 7) 8)))
    (s.cc.get 9).toNat % 8 = 0 ∧ good (s.locate s.cdie none (s.cc.get 9) .amo s.cc.smode) = false ∧ (s.cc.get 7).toNat % 8 = 0 ∧
    meets s = some (false, true) ∧ (meets q).map (·.1) = some true ∧ meets bad = some (false, false) ∧
    good (bad.loadBytes bad.cdie (bad.cc.get 7) 8 true) = false ∧ pathOf (bad.cc.get 7) = 6 := by decide +kernel

/-- A DRAIN whose flags are ready while its fence waits for a store. -/
theorem test_witness_DrainAndBarrierResults_late :
    let s := (core0 []).setCc { (core0 []).cc with wait := .drained 0x3F }
    let late := s.setCc { s.cc with stq := [pend], fences := [⟨0xFF, 0xFF, 1, 1, [], [], [], none⟩] }
    s.cc.fences = [] ∧ late.cc.fences ≠ [] ∧ late.cc.wait = .drained 0x3F := by decide +kernel

/-- XSTA whose reads go on after its completion, XLDA with the image of accumulator 0; a passed command, a blocked one, one that
freezes its region. -/
theorem test_witness_MatrixCompletionResults_more :
    let a := inFlight 0x2400020000000000 0 none
    let a := a.setXn 0 0 3 { a.xn 0 0 3 with flight := (a.xn 0 0 3).flight.map (fun f => { f with busy := 5 }) }
    let b := inFlight 0x2800010000000000 0 none
    let cmd (w : Word) (v : Byte) (full : BitVec 8) : State :=
      let t := ({ matrixState with cur := (0, 0, 0) }.setRegion 0 0 {}).setBuf 0 0 1 1 { full }
      t.setXn 0 0 3 { cmds := [(0, w)], v := [(0, v)] }
    let head (t : State) : Option (Word × Bool) := (t.xnHead 0 0 3).map (fun h => (h.2.1, h.2.2.2))
    let cl : Word := 0x0800000000F80000
    let mm : Word := 0x0400010101000000
    (a.xn 0 0 3).flight.map (fun f => (xnInstr f.entry, f.applied, f.left, decide (f.busy ≠ 0))) = [(some (.xsta 0 0 2 0 0), false, 0, true)] ∧
    (b.xn 0 0 3).flight.map (fun f => (xnInstr f.entry, f.left)) = [(some (.xlda 0 0 1 0 0), 0)] ∧
    head (cmd cl 1 1) = some (cl, true) ∧ head (cmd mm 0 1) = some (mm, false) ∧ (cmd mm 0 1).headFrozen 0 0 0 3 = false ∧
    (cmd mm 0 1).headBlocked 0 0 3 = false ∧ (cmd mm 0 0).headBlocked 0 0 3 = true ∧ head (cmd mm 0 0) = some (mm, false) ∧
    ((cmd mm 0 1).setRegion 0 0 { frz := some ⟨3, none, 0, 3, false⟩ }).headFrozen 0 0 0 3 = true := by
  decide +kernel

theorem test_witness_XldaImage (f : XFlight) (y : Xn) : ({ f with dataA := y.image 0 } : XFlight).dataA = y.image 0 := rfl

/-- Start-up without the link; an evicted drawer of the row that a remote read names; a drawer of a save. -/
theorem test_witness_device_inputs :
    let key := stackKey (linOf (1 % 8 * 2 ^ 36 + 0x8000 % 2 ^ 36))
    let row : Drawer := { row := some (key / 2 ^ 14 % 2 ^ 16), evicted := true }
    let slot := 4 * (16 * (key / 2 ^ 30 % 64) + key / 2 ^ 10 % 16) + 2
    let s := State.reset.setStack (key / 2 ^ 36 % 8) { drawers := [(slot, row)] }
    (s.stack (key / 2 ^ 36 % 8)).drawers = [(slot, row)] ∧ row.evicted = true ∧ slot / 4 = 16 * (key / 2 ^ 30 % 64) + key / 2 ^ 10 % 16 ∧
    ({ row with resv := true } : Drawer).resv = true ∧ row.resv = false ∧ (started 6 true).mgmt.linkUp = false := by decide +kernel

/-- A request of another package whose dies a launch of lower priority holds; a launch of each phase that heat ends. -/
theorem test_witness_gang_victims :
    let s := core0 []
    s.fits s.nLaunch [0] (fun _ => 0) [] = false ∧ s.removals s.nLaunch 3 [0] (fun _ => 0) = [[0]] ∧ 0 ∈ s.launches.map (·.1) ∧
    (s.launch 0).phase = .running ∧ ((queuedLaunch).launch 0).phase = .queued := by decide +kernel

/-- WDOG stands in a region whose freeze has cleared; a load that a derived region forbids at the swap; a store in flight to no
node; one that stalls behind an issued instruction. -/
theorem test_witness_fabric_events :
    let f : FStop := ⟨10, 7, 8, 0x0F, 0, 2, 0, 0, 0, 0, [], [], 0⟩
    let w := regionState { frz := some ⟨3, some 5, 0, 2, false⟩, fstop := some f }
    let y : Derived := newDerived ((declCore (declWords 2 7 4)).cc.getN 16 8) false
    let s := core0 []
    let p := ((s.setDeriv 0 0 0 7 (some y)).setLaunch 0 { s.launch 0 with items := [⟨5, 16, .mn 0 1 {}⟩] })
    let p := p.setDie 0 { p.die 0 with token := some ⟨6, 0⟩, shd := { load := 5 } }
    let q := s.setCc { s.cc with stq := [{ pend with loc := { tgt := 0, key := stackKey 0 } }] }
    (w.region 0 0).fstop.map (·.code) = some 0x0F ∧ ((p.die 0).token.map (·.step)) = some 6 ∧ p.launchOf 0 = some 0 ∧
    p.streamOverDerived 0 ((p.launch 0).loadItems (p.die 0).shd.load) = some 16 ∧ (p.launch 0).faults = [] ∧
    s.streamOverDerived 0 ((s.launch 0).loadItems 1) = none ∧ (p.die 0).shd.derivs = [] ∧ (p.die 0).shd.binds = [] ∧
    (q.core 0).stq.map (·.loc.tgt) = [0] := by decide +kernel

/-- A load of the core behind a fence that is not complete, behind a fence of other accesses, and with an atomic that is still to be
performed, which it may not pass. -/
theorem test_witness_StepRunsFetchedInstruction_fences :
    let base := State.reset.withFetchWord 32 0x281A999B
    let f (sset : BitVec 8) : Fence := ⟨2, sset, 1, 1, [], [], [], none⟩
    let g : Deferred := ⟨.amadd 3 3 7 4 0, 0, false, Vector.replicate 64 0, 26, [0], 1, { tgt := 2, key := 0 }, 8⟩
    let at_ (s : State) : State := (turned s).settleFences 0
    let i : Instr := .ld 0 26 38 1 9 11
    let put (c : Core) : State := base.setCore 0 { base.core 0 with fences := c.fences, stq := c.stq, stSeq := c.stSeq, deferred := c.deferred }
    let st : Core := { fences := [f 1], stq := [pend], stSeq := 1 }
    decoded (decodeCore 0x281A999B 0) = some i ∧ (at_ (put st)).held i = true ∧ (at_ (put { st with fences := [f 2] })).held i = false ∧
    ((put { deferred := some g }).core 0).deferred = some g ∧ (at_ (put { deferred := some g })).held i = false ∧
    (at_ (put { deferred := some g })).passes g 0x281A999B i = false ∧ (put { deferred := none }).cc.fences = [] := by decide +kernel

/-- An L form with a set reserved bit; a refused word behind an access that is still to be performed; an MN word that is refused;
XN words refused with a reserved opcode, and with a field when no version holds the entry. -/
theorem test_witness_RefusedWordsRaiseIll_units :
    (let u := turned (State.reset.withFetchWord 64 0x4B80000319050010)
     (u.core 0).running = true ∧ (u.fetchWord 0 (u.core 0).pc).toOption.bind (fun f =>
       (f.2.fetchWord 0 ((u.core 0).pc + 4)).toOption.map (fun h => (f.1, isLong f.1, good (decodeCore f.1 h.1)))) = some (0x19050010, true, false)) ∧
    (let s := State.reset.placeRow 1 (fun b => { b with mn := [(1, { rows := [(0, 0x2C00000000000000)], ncfg := 2, named := true })] })
     let u := turned s
     s.agenda = [.unit 0 0 1] ∧ isMn 1 = true ∧ (u.rowCtx 0 0 1).map (fun c => (good (decodeMn (u.mnEntry c)), (u.region c.d c.reg).fstop.isNone)) =
       some (false, true)) ∧
    (let at_ (w : Word) : State := State.reset.placeRow 3 (fun b => { b with xn := [(3, { rows := [(0, w)], named := true })] })
     let seen (w : Word) : Option (Bool × Nat × Bool) := let u := turned (at_ w)
       u.xnSlot.map (fun c => (good (decodeXn (tget 0 ((u.die 0).act.xnCfg 0 3).rows c.1.idx)) || !c.2, u.entryGap c.1 w, (u.region 0 c.1.reg).fstop.isNone))
     (at_ 0).agenda = [.unit 0 0 3] ∧ isXn 3 = true ∧ 11 ≤ (0x2C00000000000000 : Word).toNat / 2 ^ 58 ∧
     seen 0x2C00000000000000 = some (false, 0, true) ∧ seen 0x0800000000F80001 = some (false, 0, true)) := by decide +kernel

/-- Binding words and records with a reserved bit, off their alignment, with a fabric side of a wrong path or of a page that is no
pinned one, with another side whose path is not allowed; a destination in the declared set of a region that runs. -/
theorem test_witness_BindRefusals :
    let s := core0 ([(8, 0x40), (9, 0x3F), (10, 0x23F), (12, 2 ^ 10)] ++ bindRegs)
    let w (k : Nat) : Nat := (s.cc.get (16 + BitVec.ofNat 6 k)).toNat
    let page (a : Nat) : Bool := match s.xlate s.cdie none (a % 2 ^ 48) with
      | .error _ => true
      | .ok (e, _) => !e.getLsbD 6
    let d := s.setDie 0 { s.die 0 with act := { (s.die 0).act with declared := [⟨0, 1, 0, 0x100, false, true⟩] } }
    s.cc.guard 0 = true ∧ (s.cc.get 8).toNat / 2 ^ 6 % 4 ≠ 0 ∧ 2 ^ 10 ≤ (s.cc.get 12).toNat ∧ 
    (w 5 / 4 % 2 ^ 6 = 0 ∧ w 5 / 2 ^ 13 % 2 ^ 19 = 0 ∧ w 5 < 2 ^ 48 ∧ w 6 / 2 ^ 4 % 2 ^ 4 = 0 ∧ w 6 < 2 ^ 16) ∧
    (w 7 % 32 = 0 ∧ w 0 % 2 ^ (w 5 % 4) = 0 ∧ w 1 % 2 ^ (w 5 % 4) = 0) ∧ page 0 = true ∧
    (s.cc.smode = false ∧ (6 * 2 ^ 60) / 2 ^ 60 = 6 ∧ (10 * 2 ^ 60) / 2 ^ 60 ≥ 10) ∧ (s.cc.get 10).toNat / 2 ^ 9 % 2 = 1 ∧
    (w 6 / 2 % 2 = 0 ∧ 0 < scTotal (d.cc.getN 16 8) ∧
      (d.nodeAddr d.cdie (d.cc.get 17)).map (fun loc => d.declaredHit loc (2 ^ (w 5 % 4))) = some true) := by decide +kernel

/-- DDECL records with a reserved bit, no rows, a stride below the row, a kind's own field, a limit; shadow storage over the base and
another region's; BSCALE in G2; a DWAIT that has asked. -/
theorem test_witness_DeclareRefusals :
    let at_ (w : List Nat) : State := declCore w
    let bad (w : List Nat) : Bool := derivFieldsBad (nodeSize ((at_ w).die 0).g2) ((at_ w).cc.getN 16 8)
    let sh (w : List Nat) : Bool := (at_ w).shadowBad 0 0 0 ((at_ w).cc.getN 16 8)
    let good4 := declWords 2 7 4
    let s := at_ good4
    let free : Bool := (s.deriv 0 0 0 7).isNone && decide ((s.derivsOf 0 0 0).length < 8)
    let y : Derived := { newDerived (s.cc.getN 16 8) false with undo := [⟨0, [(0, 1)], false, false⟩] }
    let u := (s.setDie 0 { s.die 0 with g2 := true }).setDeriv 0 0 0 7 (some y)
    let u := u.setCc { u.cc with wait := .dwait 0 }
    (16 : BitVec 6).toNat % 8 = 0 ∧ s.nodeOf (s.cc.get 16) = some (some (0, 0, 0)) ∧
    [(good4.set 0 (2 ^ 60 + 2 ^ 30)), good4.set 1 4, good4.set 1 (2 ^ 32 + 5), good4.set 3 (7 * 2 ^ 20 + 2 * 2 ^ 16 + 2 ^ 24), good4.set 3 (7 * 2 ^ 20 + 7 * 2 ^ 16),
      (good4.set 2 (2 ^ 15 * 2 ^ 21)).set 1 (2 ^ 32 + 4097)].map bad = [true, true, true, true, true, true] ∧
    bad good4 = false ∧ free = true ∧ sh good4 = false ∧ bad (good4.set 2 (16 * 2 ^ 21)) = false ∧ sh (good4.set 2 (16 * 2 ^ 21)) = true ∧
    bad ((good4.set 3 (7 * 2 ^ 20 + 7 * 2 ^ 16 + 3 * 2 ^ 8)).set 1 (2 ^ 32 + 32) |>.set 2 (128 * 2 ^ 21 + 0x1000)) = false ∧
    (u.cc.wait = .dwait 0 ∧ u.storing u.cdie 0 0 0 = false ∧ u.reflecting 0 0 0 0 = true) ∧ s.reflecting 0 0 0 0 = false := by decide +kernel

/-- Addresses of ROPEN on every path. -/
theorem test_witness_RowAddresses :
    let k := ccapCore []
    let m := k.setCc { k.cc with smode := true }
    let a : Word := 6 * 2 ^ 60 + 2 ^ 39
    let gen (s : State) (sm : Bool) : Option (Option (Bool × Nat)) := ((s.genLoc s.cdie none 0x200000 .ld sm).toOption).map (fun l => l.pte.map (fun p => (p.2.1.getLsbD 5, l.tgt)))
    (pathOf a = 6 ∧ k.cc.smode = false ∧ m.cc.smode = true ∧ a.toNat / 2 ^ 40 % 2 ^ 20 = 0 ∧ a.toNat / 2 ^ 39 % 2 = 1 ∧
      (6 * 2 ^ 60 + 2 ^ 40 : Word).toNat / 2 ^ 40 % 2 ^ 20 ≠ 0) ∧ (pathOf 0x200000 = 0 ∧ gen k k.cc.smode = some (some (true, 0)) ∧ k.cc.smode = false) ∧
    (pathOf 0x40000000 = 0 ∧ good (k.genLoc k.cdie none 0x40000000 .ld k.cc.smode) = false) ∧ pathOf (5 * 2 ^ 60 : Word) = 5 := by decide +kernel

/-- Blocks that are refused: a reserved bit, a code, an alignment, an overlap, a path, a range beyond its region. -/
theorem test_witness_BlockRefusals :
    let b (l : List Nat) : List Word := l.map (BitVec.ofNat 64)
    let s := nbCore []
    let nb := [0x200000, 0x200040, 0x200080, 1]
    let rd := [0x101, 0x200000, 0x200040, 0x40, 0, 0, 0, 0]
    let op := [0x100, 0x200000, 0x200040, 0x200080, 0, 0, 0x004004004, 0, 0, 0, 0, 0, 0, 0, 0, 0]
    [nb.set 3 (2 ^ 38), nb.set 0 0x200001, [0x200000, 0x200000 + 4, 0x200080, 2], nb.set 1 (2 ^ 60), nb].map (fun l => (kindOf (s.nbCheck 0 (b l))).1) =
      [0, 0, 0, 0, 2] ∧
    [rd.set 6 1, rd.set 4 4, rd.set 3 2, (rd.set 0 0x201).set 3 4, (rd.set 0 0x201).set 1 0x200044, rd.set 2 (2 ^ 60), rd].map (fun l => (kindOf (s.rdCheck 0 (b l))).1) =
      [0, 0, 0, 0, 0, 0, 2] ∧
    [op.set 14 1, op.set 4 8, op.set 6 0x004004003, op.set 8 4, op.set 2 (2 ^ 60), op].map (fun l => (kindOf (s.opCheck 0 (b l))).1) = [0, 0, 0, 0, 0, 2] ∧
    (s.opndAt 0 true 0x207FF0 .ld).map (fun o => decide (o.stop < o.lin + 2 ^ 19 * 4)) = some true := by decide +kernel

/-- Values that fit, that are beyond an end of their format and that are below it. -/
theorem test_witness_RoundingResults :
    [roundTo 3 0 (.fin 449), roundTo 3 0 (.fin 465), roundTo 2 1 (.fin (pow2 200)), roundTo 3 0 (.fin (pow2 (-20))), roundTo 8 0 (.fin (5 / 2)),
      roundTo 8 3 (.fin 300)].map (fun x => x.2.toNat) = [0x10, 0x20, 0x14, 0x18, 0x10, 0x20] ∧ (ffmt 3).mag (ffmt 3).maxMag < 465 := by decide +kernel

/-- Values on each side of the conditions of the built-in functions. -/
theorem test_witness_BuiltinBounds :
    let f := ffmt 0
    (0 : Rat) < 3 ∧ f.mag f.maxMag < 1 / pow2 (-149) ∧ 1 / (3 : Rat) ≤ f.mag f.maxMag ∧ pow2 (-149) ≤ 3 ∧ 0 < 1 ∧ 1 ≤ f.maxMag := by decide +kernel

/-- Operations in flight whose cycles are over: sums, and writes with and without a port in that cycle. -/
theorem test_witness_MatrixSums :
    let at_ (i : Instr) (lb : Nat) : State :=
      let s := inFlight (match encode i with
        | .xn w => w
        | _ => 0) 0 none
      let f : XFlight := ⟨match encode i with
        | .xn w => w
        | _ => 0, 0, 0, 0, 32, 0, lb, none, 0, 0, 0, 0, false, [], 0, [⟨true, 30, 31, true, none⟩], [], [], [], 0⟩
      (s.setDie 0 { s.die 0 with act := { (s.die 0).act with maps := [(8 * 3, some 0)] } }).setXn 0 0 3 { s.xn 0 0 3 with flight := [f] }
    let seen (i : Instr) (b : Nat) : Option (Option Instr × Bool × Option Nat × Bool) := (((at_ i b).xn 0 0 3).flight[0]?).map (fun f =>
      (xnInstr f.entry, f.applied, f.writePort.map (·.first), (ran (.xnCompletion 0 0 3 0) (at_ i b)).isSome))
    let ops : List Instr := [.xmm 0 0 1 1 1 0, .xdnd 0 1 1 1 0 0 1, .xdbx 0 1 1 1 0 0 2, .xdbw 0 1 1 1 0 0 3, .xdfin 0 1 0 0 2 1, .xwb 1 0 1 0 3 0 0 0 0, .xtrq 1 2,
      .xsta 0 0 1 0 0]
    ops.all (fun i => decide (seen i 0 = some (some i, false, none, true) ∧ (seen i 2).map (fun x => x.2.2.1) = some (some 30))) = true ∧
    (tget none ((at_ .xnop 0).die 0).act.maps (8 * (48 * 0 + 3) + 0)).isSome = true ∧ (at_ .xnop 0).derivsOf 0 0 1 = [] ∧
    (3 : Byte).toNat ≤ 11 := by decide +kernel

theorem test_witness_tiles : (List.replicate 1056 (0 : Byte)).length = 1056 ∧ 0 + 64 ≤ (List.replicate 64 (0 : Byte)).length := by decide +kernel

/-- The six words after SRC and DST of a record with one element, and a command with them. -/
def record (l : List (BitVec 6 × Nat)) : List Word :=
  (core0 ([(16, 2 ^ 60), (17, 2 ^ 60 + 2 ^ 44), (18, 0x0001000100010001), (22, 0xFF00), (23, 9 * 2 ^ 60)] ++ l)).cc.getN 16 8

/-- Records that are rejected for a field, a path, an alignment, a shelf and a tag; ones that are not. -/
theorem test_witness_StreamRejects :
    let r (l : List (BitVec 6 × Nat)) (sm : Bool) : Option (Nat × Nat) := ((core0 []).streamReject 0 (record l) false false sm).map (fun e => (e.1, e.2.toNat))
    r [] false = none ∧ r [(21, 4)] false = some (0, 0x205) ∧ r [(22, 0x1FF00)] false = some (0, 0x1006) ∧ r [(16, 10 * 2 ^ 60)] false = some (5, 0) ∧
    r [(17, 7 * 2 ^ 60)] false = some (2, 1) ∧ r [(17, 7 * 2 ^ 60)] true = none ∧ r [(23, 3 * 2 ^ 60)] false = some (5, 7) ∧
    r [(21, 3), (17, 2 ^ 60 + 4)] false = some (0, 1) ∧ r [(21, 3), (19, 2 ^ 32)] false = some (0, 0x2003) ∧ r [(23, 9 * 2 ^ 60 + 8)] false = some (0, 7) ∧
    r [(22, 0x300)] false = some (0, 0x106) ∧ r [(22, 0xFF04)] false = some (0, 0x206) ∧ r [(22, 0x4002)] false = some (0, 0x106) ∧
    ((core0 []).nodeAddr 0 ((record [])[1]?.getD 0)).isSome = true := by decide +kernel

/-- Reads of a command by a node, GEN, VIEW, DERIV and REMOTE address: bytes, ECC, shadow storage, no view, no region, no entry. -/
theorem test_witness_StreamReads :
    let c (a : Nat) : SCmd := { cmd0 with words := record [(16, a)], started := true }
    let base := ccapCore []
    let view : List Word := [12 + 256 + 2 * 2 ^ 32, 1, 0x208000, 16, 0x208020, 4, 0, 0]
    let s := (base.setDie 0 { base.die 0 with act := { (base.die 0).act with views := [(0, view)] } }).setStack 0 { act := [(3, (0xC000000000000000, 2))] }
    let y : Derived := newDerived ((declCore (declWords 2 7 4)).cc.getN 16 8) false
    let d := s.setDeriv 0 0 0 7 (some y)
    let bad : State := { s with poison := [(sramKey 0 0 0 0, true), (stackKey (linOf 0), true)] }
    let code (s : State) (a : Nat) : Nat := match s.streamRead 0 0 (c a) 0 with
      | .ok _ => 0
      | .error t => t.code
    s.stale = [] ∧ code s (2 ^ 60) = 0 ∧ code bad (2 ^ 60) = 0x0E ∧ code d (2 ^ 60 + 0x1000) = 0x05 ∧ code s 0x40000000 = 4 ∧ code s 0x208000 = 0 ∧
    code s (3 * 2 ^ 60) = 0 ∧ code s (3 * 2 ^ 60 + 2 ^ 56) = 5 ∧ code s (4 * 2 ^ 60 + 7 * 2 ^ 40) = 5 ∧ code d (4 * 2 ^ 60 + 7 * 2 ^ 40) = 0 ∧
    code s (8 * 2 ^ 60) = 0 ∧ code bad (8 * 2 ^ 60) = 0x0E ∧ code base (8 * 2 ^ 60) = 5 ∧ tget none (s.die 0).vcache (3 * 2 ^ 60 / 64) = none ∧
    good (State.viewElems 0 (some 0) view 2 0 2 s) = true := by decide +kernel

/-- Shelf 3 of node 0 with one buffer. -/
def shelfNode (full : BitVec 8) (tag : BitVec 16) : State :=
  let s := core0 [(16, 2 ^ 60 + 2 ^ 44), (17, 2 ^ 60 + 8), (18, 0x0001000100010001), (21, 3 + 7 * 2 ^ 32), (22, 0x302), (23, 9 * 2 ^ 60), (24, 2 ^ 60 + 8),
    (25, 2 ^ 60 + 2 ^ 44), (26, 0x0001000100010001), (29, 3 + 7 * 2 ^ 32), (30, 0x300), (31, 9 * 2 ^ 60)]
  let s := s.setDie 0 { s.die 0 with
    act := { (s.die 0).act with mn := [(1, { ncfg := 2, named := true, shelf := [(3, BitVec.ofNat 64 (2 ^ 42 + 2 ^ 32 + 0x1000))] })] } }
  s.setBuf 0 0 1 3 { full, tags := [(0, tag)] }

/-- A command that publishes, and an SEVC whose buffer has its tag and one whose has another, each with its claim and due to end. -/
theorem test_witness_StreamElement :
    let run (i : Instr) (s : State) : State := after (.streamCommandStart 0 0 0) (after i s)
    let seen (s : State) : List (Nat × Bool × Option Nat × Bool × Bool × Nat) := (s.engine 0 0).cmds.map (fun c =>
      (c.kind, c.reject.isNone && c.pins.isEmpty && !c.next, c.claim, s.claimLost 0 c, s.mayFinish 0 0 0, scTotal c.words))
    let tag (s : State) : Nat := (tget 0xFFFF (s.buf 0 0 1 3).tags 0).toNat
    let pub := run (.scpy 6 16 7 0) (shelfNode 0 9)
    let sevc := run (.sevc 6 24 7 0) (shelfNode 1 7)
    let other := run (.sevc 6 24 7 0) (shelfNode 1 8)
    decide (seen pub = [(0, true, some 0, false, true, 1)]) = true ∧ decide (seen sevc = [(2, true, some 0, false, true, 1)]) = true ∧ tag sevc = 7 ∧ tag other = 8 ∧
    decide (seen other = [(2, true, some 0, false, true, 1)]) = true ∧ pub.stale = [] ∧ pub.inShadow 0 0 0 0x1008 8 = false ∧ 8 + 8 ≤ shBytes (pub.shelf 0 0 1 3) ∧
    (pub.engine 0 0).cmds.all (fun c => scTag c.words == 7 && bitsOf (scWord c.words 7) 52 12 == 0x900 && bitsOf (scWord c.words 7) 0 5 == 0) = true ∧
    (pub.engine 0 0).cmds.all (fun c => good (pub.streamRead 0 0 c 0)) = true ∧
    (sevc.engine 0 0).cmds.all (fun c => !scPub c.words && ((sevc.nodeAddr 0 (scDst c.words 0)).map (·.tgt)) == some 2) = true := by decide +kernel

/-- A command of one element without PUB: its destination is found, is shadow storage, or translates to no page; one whose source
fails; the second of two elements that fails. -/
theorem test_witness_StreamCopies :
    let run (l : List (BitVec 6 × Nat)) (f : State → State) : State := after (.streamCommandStart 0 0 0) (after (.scpy 6 16 7 0)
      (f (core0 ([(16, 2 ^ 60), (17, 2 ^ 60 + 2 ^ 44), (18, 0x0001000100010001), (21, 3), (22, 0xFF00), (23, 9 * 2 ^ 60)] ++ l))))
    let src (s : State) (l : Nat) : List Bool := (s.engine 0 0).cmds.map (fun c => good (s.streamRead 0 0 c l))
    let dst (s : State) : List (Option Nat) := (s.engine 0 0).cmds.map (fun c => ((s.locate 0 (some 0) (scDst c.words 0) .sdst c.smode).toOption.map (·.tgt)))
    let ok := run [] id
    let two := run [(18, 0x0001000100010002), (19, 8)] (fun s => { s with poison := [(sramKey 0 0 0 8, true)] })
    src ok 0 = [true] ∧ dst ok = [some 2] ∧ dst (run [(17, 0x40000000)] id) = [none] ∧ src (run [(16, 0x40000000)] id) 0 = [false] ∧
    (src two 0, src two 1, two.mayFinish 0 0 0, (two.engine 0 0).cmds.map (fun c => scTotal c.words)) = ([true], [false], true, [2]) ∧
    two.poisoned (sramKey 0 0 0 8) 8 = true ∧ two.inShadow 0 0 0 0 8 = false ∧ two.inShadow 0 0 1 8 8 = false := by decide +kernel

/-- A stack whose beats lapsed before one that came; a remote read that meets an error. -/
theorem test_witness_RefreshAndRemoteEvents_late :
    let s : State := { State.reset.setStack 1 { lapsed := some 10000, lastBeat := 11000 } with cycle := 11500 }
    let p : State := { State.reset with poison := [(stackKey (linOf (1 % 8 * 2 ^ 36 + 0x8000 % 2 ^ 36)), true)] }
    (s.stack 1).takenOver = false ∧ (s.stack 1).lapsed.isSome = true ∧ s.cycle < (s.stack 1).lastBeat + 10000 ∧ s.stale = [] ∧
    p.poisoned (stackKey (linOf (1 % 8 * 2 ^ 36 + 0x8000 % 2 ^ 36))) 64 = true := by decide +kernel

/-- A region that a GO starts again; a swap after the launch's last record; a granule that an engine left for later. -/
theorem test_witness_late_events :
    let s := (core0 []).setLaunch 0 { (core0 []).launch 0 with faults := [⟨3, 0x14, 0, none, 0, 0, 0, 0, none⟩] }
    let c : BCmd := { (⟨0, [0, 0, 0, 17], 0, 0, 1, [(stackKey 0, 0)], 1, 0, [], []⟩ : BCmd) with skipped := [0] }
    c.skipped ≠ [] ∧ (s.launch 0).faults ≠ [] := by decide +kernel

end Sys2Proof.Tests
end

section
/-! SUPPORT. The core's turn: what the fetch of a four-byte instruction gives, and what the turn then comes to. -/

namespace Sys2Proof.Machine

/-! ### What a fetch and the fences leave unchanged -/

@[simp] theorem State.noteXlate_cur (s : State) (d : Nat) (eng : Option Nat) (loc : Loc) : (s.noteXlate d eng loc).cur = s.cur := by
  obtain ⟨t, hreopen⟩ := s.reopenRow_frame loc.key
  unfold State.noteXlate
  rw [hreopen]
  dsimp only
  split <;> split <;> rfl

/-- What an access leaves behind is in a die's TLBs and in the stacks: no core changes. -/
@[simp] theorem State.noteXlate_core (s : State) (d : Nat) (eng : Option Nat) (loc : Loc) (e : Nat) :
    (s.noteXlate d eng loc).core e = s.core e := by
  have tlb : ∀ (t : State) (x : Die) (n : Nat), x.core = t.core d → ({ t.setDie d x with freeCtr := n } : State).core e = t.core e := by
    intro t x n hx
    show (t.setDie d x).core e = t.core e
    by_cases he : e = d
    · rw [he, State.core_setDie, if_pos rfl, hx]
    · rw [State.core_setDie, if_neg he]
  obtain ⟨t, hreopen⟩ := s.reopenRow_frame loc.key
  have reopened : (if loc.tgt = 0 then s.reopenRow loc.key else s).core e = s.core e := by
    rw [hreopen]
    split <;> rfl
  unfold State.noteXlate
  dsimp only
  split
  · exact reopened
  · refine (tlb _ _ _ ?_).trans reopened
    cases eng <;> rfl

/-- Without fences nothing settles. -/
theorem State.settleFences_none (s : State) (d : Nat) (h : (s.core d).fences = []) : s.settleFences d = s := by
  unfold State.settleFences
  rw [h]
  rfl

/-- Without fences nothing is held back. -/
theorem State.held_of_no_fences (s : State) (i : Instr) (h : s.cc.fences = []) : s.held i = false := by
  unfold State.held
  rw [h]
  simp

/-! ### The fetch (R101, R128) -/

/-- A fetch that no trap stops reads the four bytes with the core's own performed stores over them. -/
theorem State.fetchWord_ok {s : State} {d : Nat} {a : Word} {loc : Loc} {l : List Byte} (hpath : pathOf a = 0)
    (halign : a.toNat % 4 = 0) (hloc : s.genLoc d none a .fetch (s.core d).smode = .ok loc) (hread : s.readLoc loc a 4 = .ok l) :
    s.fetchWord d a = .ok (BitVec.ofNat 32 (leNat (overlay (s.core d).stq fetchPath loc l)), s.noteXlate d none loc) := by
  simp [State.fetchWord, hpath, halign, hloc, hread]

/-- A word that is no first word of an L form is the whole instruction. -/
theorem State.fetch_short {s t : State} {d : Nat} {a : Word} {w : BitVec 32} (hword : s.fetchWord d a = .ok (w, t))
    (hshort : isLong w = false) : s.fetch d a = .ok (w, 0, t) := by
  simp [State.fetch, hword, hshort]

/-! ### The turn of a core that issues -/

section Issue

variable {s v : State} {d : Nat} {w y : BitVec 32} {i : Instr}

/-- A core that issues and fetches an instruction of the decoder waits, executes it, lets it pass the deferred access, or performs
that access first. -/
theorem State.coreTurn_decoded (hrun : (s.core d).halted = false) (hmode : (s.core d).running = true ∨ (s.core d).smode = true)
    (hfetch : (({ s with cur := (d, 0, 0) } : State).settleFences d).fetch d (s.core d).pc = .ok (w, y, v))
    (hdec : decodeCore w y = .ok i) :
    (v.held i = true → s.coreTurn d = .done (.next v)) ∧
    (v.held i = false → (s.core d).deferred = none → s.coreTurn d = .run i (v.setCore d ((v.core d).issue i))) ∧
    (v.held i = false → ∀ f, (s.core d).deferred = some f →
      s.coreTurn d = if v.passes f w i then .run i v else .done (.next (v.resolve d))) := by
  have hcore : ({ s with cur := (d, 0, 0) } : State).core d = s.core d := rfl
  have hmode' : ((s.core d).running || (s.core d).smode) = true := Bool.or_eq_true_iff.mpr hmode
  have hgo : ¬((s.core d).halted = true ∨ (!((s.core d).running || (s.core d).smode)) = true) := by
    rw [hrun, hmode']
    decide
  unfold State.coreTurn
  simp only [hcore, if_neg hgo, hfetch, hdec]
  refine ⟨fun hheld => ?_, fun hheld hdef => ?_, fun hheld f hdef => ?_⟩
  · rw [if_pos hheld]
  · rw [hdef, hheld]; rfl
  · rw [hdef, hheld]; rfl

end Issue

/-! ### A step whose turn is a core's -/

section Step

variable {s t : State} {d : Nat} {rest : List Turn} {i : Instr}

theorem step_of_coreTurn_run (h : s.agenda = .core d :: rest) (hturn : ({ s with agenda := rest } : State).coreTurn d = .run i t) :
    step s = exec i t := by
  simp [step, h, State.turn, hturn]

theorem step_of_coreTurn_done {o : Out} (h : s.agenda = .core d :: rest)
    (hturn : ({ s with agenda := rest } : State).coreTurn d = .done o) : step s = o := by
  simp [step, h, State.turn, hturn]

end Step

end Sys2Proof.Machine
end

section
/-! The obligations on the step and on reset. -/

namespace Sys2Proof.Machine

/-- Settles O4: the fetch reads the word at the pc, and the turn of a core that issues does the rest. -/
theorem stepRunsFetchedInstruction : Obligations.StepRunsFetchedInstruction := by
  unfold Obligations.StepRunsFetchedInstruction
  intro s d rest loc l i hagenda u pc v w hrun hmode hpath halign hloc hread hshort hdec
  have hfetch : u.fetch d pc = .ok (w, 0, v) := State.fetch_short (State.fetchWord_ok hpath halign hloc hread) hshort
  obtain ⟨hwait, hexec, hlate⟩ := State.coreTurn_decoded (s := { s with agenda := rest }) hrun hmode hfetch hdec
  refine ⟨fun hheld => ?_, fun hheld hdef => ?_, fun hheld f hdef => ?_, fun hnone => ?_⟩
  · exact step_of_coreTurn_done hagenda (hwait hheld)
  · exact step_of_coreTurn_run hagenda (hexec hheld hdef)
  · have hturn := hlate hheld f hdef
    split
    · next hpass => exact step_of_coreTurn_run hagenda (hturn.trans (if_pos hpass))
    · next hpass => exact step_of_coreTurn_done hagenda (hturn.trans (if_neg hpass))
  · have hu : u = { s with agenda := rest, cur := (d, 0, 0) } := State.settleFences_none _ d hnone
    refine ⟨hu, State.held_of_no_fences v i ?_⟩
    have hcdie : v.cdie = d := by
      show v.cur.1 = d
      rw [State.noteXlate_cur, hu]
    calc v.cc.fences = (v.core d).fences := by rw [State.cc, hcdie]
      _ = (u.core d).fences := by rw [State.noteXlate_core]
      _ = [] := by rw [hu]; exact hnone

/-! ### Reset -/

@[simp] theorem State.queue_reset (q : Nat) : State.reset.queue q = {} := rfl
@[simp] theorem State.stack_reset (k : Nat) : State.reset.stack k = {} := rfl
@[simp] theorem State.die_reset (d : Nat) : State.reset.die d = {} := rfl
@[simp] theorem State.core_reset (d : Nat) : State.reset.core d = {} := rfl
@[simp] theorem State.byte_reset (k : Nat) : State.reset.byte k = 0 := rfl
@[simp] theorem State.keySlot_reset (n : Nat) : State.reset.keySlot n = none := rfl

/-- Every register of a core with its default values is 0. -/
theorem Core.get_default (r : BitVec 6) : ({} : Core).get r = 0 := by
  show (Vector.replicate 64 (0 : Word))[r.toNat]'r.isLt = 0
  simp

/-- Settles O58: every table is empty at reset, so each part has its default value. -/
theorem resetState : Obligations.ResetState := by
  unfold Obligations.ResetState
  refine ⟨inv_reset, rfl, rfl, rfl, rfl, fun q => ?queue, fun st k => ?stack, fun d => ?core, fun k => ?memory⟩
  case queue => rw [State.queue_reset]; exact ⟨rfl, rfl, rfl⟩
  case stack => rw [State.stack_reset]; exact ⟨rfl, rfl⟩
  case core =>
    rw [State.core_reset, State.die_reset]
    exact ⟨rfl, rfl, rfl, rfl, rfl, rfl, rfl, Core.get_default⟩
  case memory => exact ⟨State.byte_reset k, State.keySlot_reset k⟩

end Sys2Proof.Machine
end

section
/-! SUPPORT. The registers that firmware writes, the mesh links and the errors that base-die engines have left (R19, R195, R235). -/

namespace Sys2Proof.Machine

open Sys2Proof Sys2Proof.Claims

/-! ### Registers -/

/-- ALARMP takes the greater of two levels. -/
theorem Mgmt.writeAlarmp_level (m : Mgmt) (v : Word) :
    (m.writeAlarmp v).alarmLevel.toNat = max m.alarmLevel.toNat (v.toNat % 4) := by
  have hbits : bitsOf v 0 2 = v.toNat % 4 := by simp [bitsOf]
  unfold Mgmt.writeAlarmp
  rw [hbits]
  split
  · next hlow => exact (Nat.max_eq_left (Nat.le_of_lt hlow)).symm
  · next hhigh => rw [Nat.max_eq_right (Nat.le_of_not_lt hhigh), BitVec.toNat_setWidth]

theorem Mgmt.writeAlarmp_frame (m : Mgmt) (v : Word) : m.writeAlarmp v = { m with alarmLevel := (m.writeAlarmp v).alarmLevel } := by
  unfold Mgmt.writeAlarmp
  split <;> rfl

theorem Mgmt.clearAlarms_bit (m : Mgmt) (v : Word) {i : Nat} (h : i < 7) :
    (m.clearAlarms v).alarms.getLsbD i = (m.alarms.getLsbD i && !v.getLsbD i) := by
  simp [Mgmt.clearAlarms, h]

/-- HTAB keeps bits 47:9 of what is written. -/
theorem Core.writeHtab_toNat (c : Core) (v : Word) : (c.writeHtab v).htab.toNat = v.toNat / 2 ^ 9 % 2 ^ 39 * 2 ^ 9 := by
  have hmask : maskHtab.toNat = (2 ^ 39 - 1) * 2 ^ 9 := rfl
  show (v &&& maskHtab).toNat = _
  rw [BitVec.toNat_and, hmask]
  apply Nat.eq_of_testBit_eq
  intro i
  rw [Nat.testBit_and, Nat.testBit_mul_two_pow, Nat.testBit_mul_two_pow, Nat.testBit_two_pow_sub_one, Nat.testBit_mod_two_pow,
    Nat.testBit_div_two_pow]
  by_cases hlow : 9 ≤ i
  · rw [Nat.sub_add_cancel hlow]
    simp only [hlow, decide_true, Bool.true_and]
    exact Bool.and_comm _ _
  · simp [hlow]

/-! ### Errors -/

/-- Where no engine has left the granule for later, nothing is caught up. -/
theorem State.catchUpAt_of_none_left (s : State) (k : Nat)
    (h : ∀ e b, e ∈ s.stackTab → (b = e.2.red ∨ b = e.2.opt ∨ ∃ n, (n, b) ∈ e.2.cabs) → b.leftAt k = false) :
    s.catchUpAt k = s := by
  unfold State.catchUpAt
  refine List.foldlRecOn (motive := fun u => u = s) s.stackTab _ rfl ?_
  rintro u rfl e he
  have hred : e.2.red.leftAt k = false := h e _ he (.inl rfl)
  have hopt : e.2.opt.leftAt k = false := h e _ he (.inr (.inl rfl))
  simp only [hred, hopt, Bool.false_eq_true, if_false]
  refine List.foldlRecOn (motive := fun v => v = u) e.2.cabs _ rfl ?_
  rintro v rfl b hb
  have hcab : b.2.leftAt k = false := h e _ he (.inr (.inr ⟨b.1, hb⟩))
  rw [hcab]
  rfl

/-- A granule has 8 bytes in SRAM and 64 elsewhere. -/
theorem granule_eq (k : Nat) : granule k = if k < 2 ^ 60 then k / 8 * 8 else k / 64 * 64 := by
  have hspace : spaceOf k = 0 ↔ k < 2 ^ 60 := by unfold spaceOf; omega
  unfold granule
  simp only [hspace]

/-! ### Mesh links -/

/-- The bit of link `k` is set at place `k` alone. -/
theorem linkBit_getLsbD {k i : Nat} (hi : i < 16) : (1#16 <<< k).getLsbD i = decide (i = k) := by
  rw [BitVec.getLsbD_shiftLeft, BitVec.getLsbD_one]
  simp only [hi, decide_true, Bool.true_and]
  by_cases h : i = k
  · subst h; simp
  · by_cases hlt : i < k
    · simp [h, hlt]
    · have : i - k ≠ 0 := by omega
      simp [h, this]

theorem setLinkBit_getLsbD (x : BitVec 16) {k i : Nat} (hi : i < 16) :
    (x ||| 1#16 <<< k).getLsbD i = (x.getLsbD i || i == k) := by
  have hbeq : (i == k) = decide (i = k) := rfl
  rw [BitVec.getLsbD_or, linkBit_getLsbD hi, hbeq]

theorem clearLinkBit_getLsbD (x : BitVec 16) {k i : Nat} (hi : i < 16) :
    (x &&& ~~~(1#16 <<< k)).getLsbD i = (x.getLsbD i && i != k) := by
  have hbne : (i != k) = !decide (i = k) := rfl
  rw [BitVec.getLsbD_and, BitVec.getLsbD_not, linkBit_getLsbD hi, decide_eq_true hi, Bool.true_and, hbne]

/-- The first fault of a launch that has not ended. -/
theorem State.noteFault_first (s : State) (l : Nat) (f : FaultInfo) (hphase : (s.launch l).phase ≠ .ended)
    (hfaults : (s.launch l).faults = []) : (s.noteFault l f).launch l = { s.launch l with faults := [f] } := by
  simp [State.noteFault, hphase, hfaults]

/-- LINK changes the die of the link as a trap does, and the launches. -/
theorem State.linkFault_frame (s : State) (k : Nat) : ∃ l, s.linkFault k = { s.setDie (linkDie k)
    ((s.die (linkDie k)).trapped 6 tLINK (s.core (linkDie k)).pc (BitVec.ofNat 64 k)) with launches := l } :=
  s.takeTrap_frame (linkDie k) 6 false ⟨tLINK, BitVec.ofNat 64 k⟩ _ none 0 none

/-- A trap that is not of the die's own instruction is the first fault of the launch that holds the die. -/
theorem State.takeTrap_launch_first (s : State) (d src : Nat) (t : Trap) (tpc : Word) (r : Option Nat) (w : Word)
    (u : Option (Nat × Nat)) (a : Word) (l : Nat) (hheld : s.launchOf d = some l) (hphase : (s.launch l).phase ≠ .ended)
    (hfaults : (s.launch l).faults = []) :
    ∃ f, f.code = t.code ∧ (s.takeTrap d src false t tpc r w u a).launch l = { s.launch l with faults := [f] } := by
  unfold State.takeTrap
  simp only [hheld, Bool.and_false, Bool.false_eq_true, if_false]
  exact ⟨_, rfl, State.noteFault_first _ _ _ hphase hfaults⟩

/-- What LINK leaves in the core of its die. -/
theorem State.linkFault_core (s : State) (k : Nat) : (s.linkFault k).core (linkDie k) =
    (s.core (linkDie k)).trapEntry 6 tLINK (s.core (linkDie k)).pc (BitVec.ofNat 64 k) := by
  obtain ⟨l, h⟩ := s.linkFault_frame k
  rw [h]
  exact (State.core_setDie s _ _ _).trans (if_pos rfl)

end Sys2Proof.Machine
end

section
/-! The obligation on firmware's registers, throttling, errors and mesh links. -/

namespace Sys2Proof.Machine

open Sys2Proof Sys2Proof.Claims

/-- The management processor after link `k` has lost lock. -/
def Mgmt.linkLost (m : Mgmt) (k : Nat) : Mgmt :=
  { m with
    meshUp := m.meshUp &&& ~~~(1#16 <<< k)
    meshRetrain := if m.meshUp.getLsbD k then m.meshRetrain ||| 1#16 <<< k else m.meshRetrain }

theorem Mgmt.linkLost_up (m : Mgmt) (k : Nat) {i : Nat} (hi : i < 16) :
    (m.linkLost k).meshUp.getLsbD i = (m.meshUp.getLsbD i && i != k) :=
  clearLinkBit_getLsbD _ hi

theorem Mgmt.linkLost_retrain (m : Mgmt) (k : Nat) {i : Nat} (hi : i < 16) :
    (m.linkLost k).meshRetrain.getLsbD i = (m.meshRetrain.getLsbD i || (i == k && m.meshUp.getLsbD k)) := by
  unfold Mgmt.linkLost
  dsimp only
  split
  · next hup => rw [setLinkBit_getLsbD _ hi, hup, Bool.and_true]
  · next hdown => rw [Bool.not_eq_true] at hdown; rw [hdown, Bool.and_false, Bool.or_false]

/-- LINK_LOSS: the link goes down, and LINK is raised when a launch that holds dies uses it. -/
theorem execLinkLoss_eq (s : State) {k : Nat} (hk : k < 16) :
    let u : State := { s with mgmt := s.mgmt.linkLost k }
    execLinkLoss k s = .next (if s.linkUsers k = [] then u else u.linkFault k) := by
  intro u
  have husers : u.linkUsers k = s.linkUsers k := rfl
  unfold execLinkLoss
  rw [if_neg (Nat.not_le.mpr hk)]
  show Host.Outcome.next (if (u.linkUsers k).isEmpty = true then u else u.linkFault k) = _
  rw [husers]
  simp only [List.isEmpty_iff]

/-- LINK is raised at the core of the link's die, for the launch that uses the link. -/
theorem linkFault_results (s : State) {k : Nat} (hk : k < 16) :
    let t := s.linkFault k
    let d := linkDie k
    SameBytes s t ∧ OnlyDie s t d ∧ (t.core d).trapc.toNat % 2 ^ 12 = 0x60D ∧ (t.core d).trapval.toNat = k ∧
      (t.core d).smode = true ∧ (t.core d).trappc = (s.core d).pc ∧ (t.core d).a = (s.core d).a ∧
      ∀ l, s.launchOf d = some l → (s.launch l).phase ≠ .ended → (s.launch l).faults = [] →
        (t.launch l).faults.map (·.code) = [0x0D] := by
  intro t d
  obtain ⟨ls, hframe⟩ := s.linkFault_frame k
  change t = _ at hframe
  have hcore : t.core d = (s.core d).trapEntry 6 tLINK (s.core d).pc (BitVec.ofNat 64 k) := s.linkFault_core k
  rw [hcore]
  refine ⟨fun _ => by rw [hframe]; rfl, ?dies, ?code, ?val, rfl, rfl, rfl, fun l hheld hphase hfaults => ?launch⟩
  case dies => rw [hframe]; exact onlyDie_setDie s _ _
  case code =>
    have hcode : tLINK = 0x0D := rfl
    simp only [Core.trapEntry, BitVec.toNat_ofNat, hcode]
    split <;> omega
  case val => simp only [Core.trapEntry, BitVec.toNat_ofNat]; omega
  case launch =>
    obtain ⟨f, hcode, hlaunch⟩ := s.takeTrap_launch_first d 6 ⟨tLINK, BitVec.ofNat 64 k⟩ (s.core d).pc none 0 none
      (Trap.faddr ⟨tLINK, BitVec.ofNat 64 k⟩) l hheld hphase hfaults
    show ((State.takeTrap _ _ _ _ _ _ _ _ _ _).launch l).faults.map _ = _
    rw [hlaunch]
    exact congrArg (fun c => [c]) hcode

/-- LINK_RETRAIN of a link that trains again and that no launch uses. -/
theorem execLinkRetrain_ready (s : State) {k : Nat} (n : Nat) (hk : k < 16) (htrain : s.mgmt.meshRetrain.getLsbD k = true)
    (husers : s.linkUsers k = []) : execLinkRetrain k n s = .next { s with mgmt := { s.mgmt with
      meshUp := s.mgmt.meshUp ||| 1#16 <<< k, meshRetrain := s.mgmt.meshRetrain &&& ~~~(1#16 <<< k),
      meshDelay := tset 0 s.mgmt.meshDelay k n } } := by
  simp [execLinkRetrain, hk, htrain, husers]

theorem execLinkRetrain_not_ready (s : State) {k : Nat} (n : Nat)
    (h : 16 ≤ k ∨ s.mgmt.meshRetrain.getLsbD k = false ∨ s.linkUsers k ≠ []) : execLinkRetrain k n s = .next s := by
  unfold execLinkRetrain
  refine if_neg ?_
  rintro ⟨hk, htrain, husers⟩
  rcases h with h | h | h
  · omega
  · rw [h] at htrain; cases htrain
  · exact h (List.isEmpty_iff.mp husers)

/-- ECC_ERROR of an uncorrectable error: what was left is caught up, then the granule is poisoned. -/
theorem execEccError_uncorrected (s : State) {k : Nat} (hspace : spaceOf k ≤ 2) : execEccError k false s =
    .next { s.catchUpAt k with poison := tset false (s.catchUpAt k).poison (granule k) true } := by
  simp [execEccError, Nat.not_lt.mpr hspace]

/-- Settles O48: each event is one of the operations above. -/
theorem firmwareAndLinkEvents : Obligations.FirmwareAndLinkEvents := by
  unfold Obligations.FirmwareAndLinkEvents
  intro s v d k n b
  refine ⟨?alarmp, ?alarms, ?age, ?htab, rfl, rfl, fun hspace => ⟨?fixed, ?poison⟩, fun hk => ?lost, fun hk => ?noLink,
    fun hk htrain husers => ?up, execLinkRetrain_not_ready s n⟩
  case alarmp =>
    refine ⟨_, rfl, ?_, Mgmt.writeAlarmp_level _ _⟩
    exact congrArg (fun m => { s with mgmt := m }) (Mgmt.writeAlarmp_frame s.mgmt v)
  case alarms => exact ⟨_, rfl, rfl, fun i hi => Mgmt.clearAlarms_bit _ _ hi⟩
  case age => exact ⟨_, rfl, rfl, BitVec.toNat_setWidth _ _⟩
  case htab =>
    refine ⟨_, rfl, sameOut_setDie s d _, onlyDie_setDie s d _, ?_, ?_⟩
    · rw [State.core_setCore, if_pos rfl]
      exact State.die_setDie_same s d _
    · rw [State.core_setCore, if_pos rfl]
      exact Core.writeHtab_toNat _ _
  case fixed => exact (if_neg (Nat.not_lt.mpr hspace)).trans (if_pos rfl)
  case poison =>
    rw [← granule_eq]
    refine ⟨_, execEccError_uncorrected s hspace, tget_tset_same _ _ _ _, fun hleft => ?_⟩
    rw [State.catchUpAt_of_none_left s k hleft]
    exact ⟨rfl, fun m => tget_tset _ _ _ _ _⟩
  case lost =>
    refine ⟨_, execLinkLoss_eq s hk, ?_⟩
    by_cases husers : s.linkUsers k = []
    · rw [if_pos husers]
      exact ⟨rfl, fun i hi => ⟨Mgmt.linkLost_up _ _ hi, Mgmt.linkLost_retrain _ _ hi⟩, fun _ => rfl, fun h => absurd husers h⟩
    · rw [if_neg husers]
      obtain ⟨l, hframe⟩ := State.linkFault_frame { s with mgmt := s.mgmt.linkLost k } k
      have hmgmt : (State.linkFault { s with mgmt := s.mgmt.linkLost k } k).mgmt = s.mgmt.linkLost k := by rw [hframe]; rfl
      rw [hmgmt]
      exact ⟨rfl, fun i hi => ⟨Mgmt.linkLost_up _ _ hi, Mgmt.linkLost_retrain _ _ hi⟩, fun h => absurd h husers,
        fun _ => linkFault_results { s with mgmt := s.mgmt.linkLost k } hk⟩
  case noLink => exact if_pos hk
  case up =>
    refine ⟨_, execLinkRetrain_ready s n hk htrain husers, rfl,
      fun i hi => ⟨setLinkBit_getLsbD _ hi, clearLinkBit_getLsbD _ hi⟩, fun i => tget_tset _ _ _ _ _⟩

end Sys2Proof.Machine
end

section
/-! SUPPORT. The submission queues at start-up, and what the host reads and writes (R12, R13, R20). -/

namespace Sys2Proof.Machine

open Sys2Proof Sys2Proof.Claims

/-! ### Every queue in one state (R20) -/

/-- Marking some queues changes the queues alone, and of each marked one its state and code. -/
theorem State.foldl_setQueue_spec (v : BitVec 2) (e : Byte) (l : List Nat) : ∀ s : State, ∃ t : State,
    l.foldl (fun s q => s.setQueue q { s.queue q with qstate := v, booterr := e }) s = t ∧
      t = { s with mgmt := { s.mgmt with queues := t.mgmt.queues } } ∧
      ∀ q, t.queue q = if q ∈ l then { s.queue q with qstate := v, booterr := e } else s.queue q := by
  induction l with
  | nil => exact fun s => ⟨s, rfl, rfl, fun q => (if_neg List.not_mem_nil).symm⟩
  | cons p l ih =>
    intro s
    obtain ⟨t, hfold, hframe, hqueue⟩ := ih (s.setQueue p { s.queue p with qstate := v, booterr := e })
    refine ⟨t, hfold, hframe, fun q => ?_⟩
    rw [hqueue, State.queue_setQueue]
    by_cases hp : q = p
    · subst hp; simp
    · simp [hp]

/-- Putting every queue in one state changes the queues alone. -/
theorem State.allQueues_spec (s : State) (v : BitVec 2) (e : Byte) : ∃ t : State, s.allQueues v e = t ∧
    t = { s with mgmt := { s.mgmt with queues := t.mgmt.queues } } ∧
    ∀ q, q < 16 → t.queue q = { s.queue q with qstate := v, booterr := e } := by
  obtain ⟨t, hfold, hframe, hqueue⟩ := State.foldl_setQueue_spec v e (List.range 16) s
  refine ⟨t, hfold, hframe, fun q hq => ?_⟩
  rw [hqueue, if_pos (List.mem_range.mpr hq)]

/-! ### Where a byte of the HDM range lies (R12) -/

section HdmAt

variable {off : Nat}

theorem hdmAt_stack (h : off < 2 ^ 39) : hdmAt off = .stack (linOf off) := if_pos h

theorem hdmAt_cap (h : 2 ^ 39 ≤ off) (k : off < 2 ^ 39 + 2 ^ 40) : hdmAt off = .cap (off - 2 ^ 39) :=
  (if_neg (Nat.not_lt.mpr h)).trans (if_pos k)

theorem hdmAt_queue (h : 2 ^ 39 + 2 ^ 40 ≤ off) (k : off < 2 ^ 39 + 2 ^ 40 + 2 ^ 18) :
    hdmAt off = .queue (off - 2 ^ 39 - 2 ^ 40) := by
  unfold hdmAt
  rw [if_neg (by omega), if_neg (by omega), if_pos k]

theorem hdmAt_none (h : 2 ^ 39 + 2 ^ 40 + 2 ^ 18 ≤ off) : hdmAt off = .none := by
  unfold hdmAt
  rw [if_neg (by omega), if_neg (by omega), if_neg (by omega)]

end HdmAt

/-! ### Host reads -/

/-- A byte that no uncorrectable error meets reads as key slot 0 gives it. -/
theorem State.hostByteAt_clean (s : State) {k : Nat} (h : s.poisoned k 1 = false) : s.hostByteAt k = s.plainByte k (some 0) := by
  simp [State.hostByteAt, h]

/-- Where every store is performed for the host, a read finds the byte that stands and changes nothing. -/
theorem State.hostLook_none (s : State) (off : Nat) (h : s.stale = []) : s.hostLook off = (s.hostByte off, s) := by
  have look (k : Nat) : s.lookBack none true k (some 0) [s.hostByteAt k] = ([s.hostByteAt k], s) :=
    State.lookBack_none s none true k (some 0) _ h
  unfold State.hostLook State.hostByte
  simp only [look]
  cases hdmAt off <;> rfl

theorem State.hostRead_none (s : State) (h : s.stale = []) (n : Nat) : ∀ off,
    s.hostRead off n = ((List.range' off n).map s.hostByte, s) := by
  induction n with
  | zero => exact fun off => rfl
  | succ n ih =>
    intro off
    unfold State.hostRead
    rw [State.hostLook_none s off h]
    dsimp only
    rw [ih]
    rfl

/-! ### Host writes -/

/-- A host write within one granule. -/
def State.hostPut (s : State) (off : Nat) (b : List Byte) : State :=
  match hdmAt off with
  | .stack a => (s.reopenRow (stackKey a)).store (stackKey a) (some 0) b
  | .cap o => s.store (capKey o) (some 0) b
  | .queue o => s.mmioStore o b
  | .none => s

/-- A host write of some bytes of one granule is one store. -/
theorem State.hostWrite_granule (s : State) (off : Nat) (b : List Byte) (hb : 0 < b.length) (hfits : off % 64 + b.length ≤ 64) :
    s.hostWrite off b.length b = s.hostPut off b := by
  obtain ⟨n, hn⟩ : ∃ n, b.length = n + 1 := ⟨b.length - 1, by omega⟩
  have hne : b.isEmpty = false := by cases b <;> simp_all
  have hmin : min b.length (64 - off % 64) = b.length := by omega
  have hdone (t : State) (o fuel : Nat) : t.hostWrite o fuel [] = t := by cases fuel <;> rfl
  rw [hn]
  unfold State.hostWrite
  rw [hne, hmin]
  dsimp only
  rw [if_neg Bool.false_ne_true, List.take_length, List.drop_length, hdone]
  rfl

/-- HOST_ACCESS that writes some bytes of one granule. -/
theorem execHostAccess_write (s : State) (off : Nat) (b : List Byte) (hup : s.mgmt.linkUp = true) (hb : 0 < b.length)
    (hfits : off % 64 + b.length ≤ 64) : execHostAccess true off b.length b s = .next (s.hostPut off b) := by
  unfold execHostAccess
  rw [hup, List.take_length, State.hostWrite_granule s off b hb hfits]
  rfl

theorem State.mmioStore_frame (l : List Byte) : ∀ (s : State) (o : Nat), ∃ m, s.mmioStore o l = { s with mem := m } := by
  induction l with
  | nil => exact fun s o => ⟨s.mem, rfl⟩
  | cons b l ih =>
    intro s o
    unfold State.mmioStore
    split
    · obtain ⟨m, h⟩ := ih (s.setByte (mmioKey o) b) (o + 1)
      exact ⟨m, h⟩
    · exact ih s (o + 1)

/-- A write to the apertures keeps the bytes of record slots and no other. -/
theorem State.byte_mmioStore (l : List Byte) : ∀ (s : State) (o m : Nat), (s.mmioStore o l).byte m =
    if mmioKey o ≤ m ∧ m < mmioKey o + l.length ∧ (m - mmioKey 0) % 0x4000 < 0x2000 then (l[m - mmioKey o]?).getD 0 else s.byte m := by
  have hkey (o : Nat) : mmioKey o = mmioKey 0 + o := rfl
  induction l with
  | nil =>
    intro s o m
    rw [if_neg (by simp only [List.length_nil]; omega)]
    rfl
  | cons b l ih =>
    intro s o m
    unfold State.mmioStore
    rw [ih, List.length_cons, hkey o, hkey (o + 1)]
    by_cases hm : m = mmioKey 0 + o
    · subst hm
      rw [if_neg (by omega), Nat.add_sub_cancel_left, Nat.sub_self]
      by_cases hslot : o % 0x4000 < 0x2000
      · rw [if_pos hslot, if_pos ⟨Nat.le_refl _, by omega, hslot⟩, State.byte_setByte, if_pos rfl]
        rfl
      · rw [if_neg hslot, if_neg (fun h => hslot h.2.2)]
    · have hother : (if o % 0x4000 < 0x2000 then s.setByte (mmioKey 0 + o) b else s).byte m = s.byte m := by
        split
        · rw [State.byte_setByte, if_neg hm]
        · rfl
      rw [hother]
      by_cases hin : mmioKey 0 + (o + 1) ≤ m ∧ m < mmioKey 0 + (o + 1) + l.length ∧ (m - mmioKey 0) % 0x4000 < 0x2000
      · rw [if_pos hin, if_pos (by omega), show m - (mmioKey 0 + o) = m - (mmioKey 0 + (o + 1)) + 1 by omega,
          List.getElem?_cons_succ]
      · rw [if_neg hin, if_neg (by omega)]

end Sys2Proof.Machine
end

section
/-! The obligation on start-up and host accesses. -/

namespace Sys2Proof.Machine

open Sys2Proof Sys2Proof.Claims

/-! ### Start-up (R20) -/

/-- BOOTERR holds the code of the failing step, where R20 has one. -/
theorem bootCode_eq (fail : Nat) (noLink : Bool) :
    bootCode fail noLink = if fail < 6 ∨ (fail = 6 ∧ noLink = false) then BitVec.ofNat 8 fail else 0 := by
  simp [bootCode]

theorem execStartUp_done (u : BootInput) (s : State) (h : s.starting = false ∨ s.mgmt.powered = false) :
    execStartUp u s = .next s := by
  unfold execStartUp
  rcases h with h | h <;> simp [h]

/-- A start-up in which a step, or the link, fails closes the queues and changes the link besides. -/
theorem execStartUp_fails (u : BootInput) (s : State) (hstart : s.starting = true) (hpower : s.mgmt.powered = true)
    (hfail : ¬(u.fail = 0 ∧ u.noLink = false)) : ∃ t, execStartUp u s = .next t ∧
      t = { s with mgmt := { s.mgmt with linkUp := !u.noLink && decide (u.fail < 7), queues := t.mgmt.queues } } ∧
      ∀ q, q < 16 → t.queue q = { s.queue q with qstate := 2, booterr := bootCode u.fail u.noLink } := by
  obtain ⟨t, hall, hframe, hqueue⟩ := State.allQueues_spec ({ s with mgmt := { s.mgmt with
    linkUp := !u.noLink && decide (u.fail < 7) } } : State) 2 (bootCode u.fail u.noLink)
  refine ⟨t, ?_, hframe, hqueue⟩
  unfold execStartUp
  rw [if_neg (by simp [hstart, hpower]), if_neg (by simpa using hfail), hall]

/-- A start-up without a failure opens the queues, with slot 0 loaded, and takes the inputs for the mesh and the key hashes. -/
theorem execStartUp_succeeds (u : BootInput) (s : State) (hstart : s.starting = true) (hpower : s.mgmt.powered = true)
    (hfail : u.fail = 0) (hlink : u.noLink = false) : ∃ t key up delay, execStartUp u s = .next t ∧
      t = { s with
        freeCtr := s.freeCtr + 18, keys := tset none s.keys 0 (some ⟨0, key⟩)
        mgmt := { s.mgmt with
          linkUp := true, meshUp := up, meshDelay := delay, pkgX := u.px, pkgY := u.py, meshW := max u.mw (u.px + 1)
          meshH := max u.mh (u.py + 1), enrolled := u.hashes.take 16, queues := t.mgmt.queues } } ∧
      ∀ q, q < 16 → t.queue q = { s.queue q with qstate := 1, booterr := 0 } := by
  unfold execStartUp
  rw [if_neg (by simp [hstart, hpower]), if_pos (by simp [hfail, hlink])]
  dsimp only
  obtain ⟨t, hall, hframe, hqueue⟩ := State.allQueues_spec _ 1 0
  exact ⟨t, _, _, _, congrArg _ hall, hframe, hqueue⟩

/-- What both outcomes of a start-up change and leave unchanged. -/
theorem startUp_results (u : BootInput) (s : State) (hstart : s.starting = true) (hpower : s.mgmt.powered = true) :
    ∃ t, execStartUp u s = .next t ∧ SameBytes s t ∧ t.dies = s.dies ∧ t.launches = s.launches ∧
      t.mgmt.linkUp = (!u.noLink && decide (u.fail < 7)) ∧ (∀ j, j ≠ 0 → t.keySlot j = s.keySlot j) ∧
      (u.fail = 0 → u.noLink = false → (∃ k, t.keySlot 0 = some ⟨0, k⟩) ∧
        (∀ q, q < 16 → t.queue q = { s.queue q with qstate := 1, booterr := 0 }) ∧ t.mgmt.pkgX = u.px ∧ t.mgmt.pkgY = u.py ∧
        u.px < t.mgmt.meshW ∧ u.mw ≤ t.mgmt.meshW ∧ u.py < t.mgmt.meshH ∧ u.mh ≤ t.mgmt.meshH ∧
        t.mgmt.enrolled.length ≤ 16 ∧ ∀ h, h ∈ t.mgmt.enrolled → h ∈ u.hashes) ∧
      ((u.fail ≠ 0 ∨ u.noLink = true) → t.keys = s.keys ∧
        t.mgmt = { s.mgmt with linkUp := t.mgmt.linkUp, queues := t.mgmt.queues } ∧
        ∀ q, q < 16 → t.queue q = { s.queue q with qstate := 2, booterr :=
          if u.fail < 6 ∨ (u.fail = 6 ∧ u.noLink = false) then BitVec.ofNat 8 u.fail else 0 }) := by
  by_cases hfail : u.fail = 0 ∧ u.noLink = false
  · obtain ⟨hcode, hlink⟩ := hfail
    obtain ⟨t, key, up, delay, hexec, hframe, hqueue⟩ := execStartUp_succeeds u s hstart hpower hcode hlink
    have hkeys : t.keys = tset none s.keys 0 (some ⟨0, key⟩) := by rw [hframe]
    refine ⟨t, hexec, fun _ => by rw [hframe]; rfl, by rw [hframe], by rw [hframe], by rw [hframe, hcode, hlink]; rfl, fun j hj => ?keys,
      fun _ _ => ⟨⟨key, ?key⟩, hqueue, ?mesh⟩, fun h => absurd h (by simp [hcode, hlink])⟩
    case keys => unfold State.keySlot; rw [hkeys, tget_tset_ne _ _ _ hj]
    case key => unfold State.keySlot; rw [hkeys, tget_tset_same]
    case mesh =>
      rw [hframe]
      exact ⟨rfl, rfl, Nat.le_max_right _ _, Nat.le_max_left _ _, Nat.le_max_right _ _, Nat.le_max_left _ _,
        List.length_take_le _ _, fun h => List.mem_of_mem_take⟩
  · obtain ⟨t, hexec, hframe, hqueue⟩ := execStartUp_fails u s hstart hpower hfail
    rw [bootCode_eq] at hqueue
    refine ⟨t, hexec, fun _ => by rw [hframe]; rfl, by rw [hframe], by rw [hframe], by rw [hframe], fun _ _ => by rw [hframe]; rfl,
      fun hcode hlink => absurd ⟨hcode, hlink⟩ hfail, fun _ => ⟨by rw [hframe], by rw [hframe], hqueue⟩⟩

/-! ### Host accesses (R12) -/

/-- A byte as the host reads it, by where it lies. -/
theorem State.hostByte_results (s : State) (off : Nat) :
    (off < 2 ^ 39 → s.poisoned (stackKey (linOf off)) 1 = false →
      s.hostByte off = s.plainByte (stackKey (linOf off)) (some 0)) ∧
    (2 ^ 39 ≤ off → off < 2 ^ 39 + 2 ^ 40 → s.poisoned (capKey (off - 2 ^ 39)) 1 = false →
      s.hostByte off = s.plainByte (capKey (off - 2 ^ 39)) (some 0)) ∧
    (2 ^ 39 + 2 ^ 40 ≤ off → off < 2 ^ 39 + 2 ^ 40 + 2 ^ 18 → s.hostByte off = s.mmioByte (off - 2 ^ 39 - 2 ^ 40)) ∧
    (2 ^ 39 + 2 ^ 40 + 2 ^ 18 ≤ off → s.hostByte off = 0) := by
  unfold State.hostByte
  refine ⟨fun h hclean => ?_, fun h k hclean => ?_, fun h k => ?_, fun h => ?_⟩
  · rw [hdmAt_stack h]; exact s.hostByteAt_clean hclean
  · rw [hdmAt_cap h k]; exact s.hostByteAt_clean hclean
  · rw [hdmAt_queue h k]
  · rw [hdmAt_none h]

/-- HOST_ACCESS that reads, where every store is performed for the host. -/
theorem execHostAccess_read (s : State) (off n : Nat) (data : List Byte) (hup : s.mgmt.linkUp = true) (hstale : s.stale = []) :
    execHostAccess false off n data s = .next { s.hostReopen off n with
      hostData := (List.range' off n).map s.hostByte, freeCtr := s.freeCtr + 1 } := by
  unfold execHostAccess
  rw [hup, State.hostRead_none s hstale]
  rfl

/-- A host write to the apertures changes the bytes of record slots alone. -/
theorem mmioStore_results (s : State) (o : Nat) (b : List Byte) :
    let t := s.mmioStore o b
    SameSystem s t ∧ t.dies = s.dies ∧ SameBytesOutside s t (mmioKey o) b.length ∧ ∀ i, i < b.length →
      t.byte (mmioKey (o + i)) = if (o + i) % 0x4000 < 0x2000 then (b[i]?).getD 0 else s.byte (mmioKey (o + i)) := by
  intro t
  have hbyte : ∀ m, t.byte m = _ := State.byte_mmioStore b s o
  obtain ⟨m, hframe⟩ := State.mmioStore_frame b s o
  change t = _ at hframe
  refine ⟨by rw [hframe]; exact ⟨rfl, rfl, rfl, rfl, rfl, rfl, rfl⟩, by rw [hframe], fun k hk => ?_, fun i hi => ?_⟩
  · rw [hbyte, if_neg (fun h => hk ⟨h.1, h.2.1⟩)]
  · have hplace : mmioKey (o + i) = mmioKey o + i := (Nat.add_assoc _ _ _).symm
    have hslot : mmioKey o + i - mmioKey 0 = o + i := by unfold mmioKey; omega
    rw [hbyte, hplace, hslot, Nat.add_sub_cancel_left]
    simp only [Nat.le_add_right, Nat.add_lt_add_iff_left, hi, true_and]

/-- Settles O51: the start-up's two outcomes, and host reads and writes by where their bytes lie. -/
theorem startUpAndHostAccess : Obligations.StartUpAndHostAccess := by
  unfold Obligations.StartUpAndHostAccess
  intro s fail px py mw mh off n noLink hashes data start
  refine ⟨startUp_results ⟨fail, noLink, px, py, mw, mh, hashes⟩ s, execStartUp_done _ s, fun w hdown => ?down,
    fun hup hstale => ⟨_, execHostAccess_read s off n data hup hstale, rfl, ?length, fun i hi => ⟨s.hostByte (off + i), ?byte,
      s.hostByte_results (off + i)⟩⟩, fun hup hlen hpos hfits => ?write⟩
  case down =>
    show execHostAccess w off n data s = _
    unfold execHostAccess
    rw [hdown]
    rfl
  case length => exact (List.length_map _).trans List.length_range'
  case byte =>
    show ((List.range' off n).map s.hostByte)[i]? = _
    rw [List.getElem?_map, List.getElem?_range' hi, Nat.one_mul]
    rfl
  case write =>
    subst hlen
    have hexec : exec (.hostAccess true off data.length data) s = .next (s.hostPut off data) :=
      execHostAccess_write s off data hup hpos hfits
    rw [hexec]
    unfold State.hostPut
    refine ⟨fun h => ?_, fun h k => ?_, fun h k => ?_, fun h => ?_⟩
    · rw [hdmAt_stack h]
    · rw [hdmAt_cap h k]
    · rw [hdmAt_queue h k]
      exact ⟨_, rfl, mmioStore_results s _ data⟩
    · rw [hdmAt_none h]

end Sys2Proof.Machine
end

section
/-! SUPPORT. What the operations of the launch scheduler change: records, queues, rectangles, passes, gangs (R14, R42 to R47). -/

namespace Sys2Proof.Machine

open Sys2Proof Sys2Proof.Claims

/-! ### Words of a record (R14) -/

theorem chunks_getElem? (m : Nat) : ∀ (k n : Nat) (l : List Byte), n < k → (chunks m k l)[n]? = some ((l.drop (m * n)).take m) := by
  intro k
  induction k with
  | zero => exact fun n l h => absurd h (Nat.not_lt_zero n)
  | succ k ih =>
    intro n l h
    cases n with
    | zero => rfl
    | succ n =>
      show (chunks m k (l.drop m))[n]? = _
      rw [ih n _ (by omega), List.drop_drop, Nat.mul_succ, Nat.add_comm]

/-- A piece of some consecutive bytes is the bytes from there. -/
theorem State.bytes_piece (s : State) (k : Nat) {i m n : Nat} (h : i + m ≤ n) : ((s.bytes k n).drop i).take m = s.bytes (k + i) m := by
  apply List.ext_getElem?
  intro j
  rw [List.getElem?_take, List.getElem?_drop, State.bytes_getElem?, State.bytes_getElem?, Nat.add_assoc]
  by_cases hj : j < m
  · rw [if_pos hj, if_pos (by omega), if_pos hj]
  · rw [if_neg hj, if_neg hj]

theorem State.recordAt_word (s : State) (q k : Nat) {n : Nat} (h : n < 16) :
    (s.recordAt q k)[n]? = some (leWord (s.bytes (mmioKey (q * 0x4000 + k * 0x80 + 8 * n)) 8)) := by
  have hkey (o : Nat) : mmioKey o + 8 * n = mmioKey (o + 8 * n) := Nat.add_assoc _ _ _
  unfold State.recordAt bytesWords
  rw [List.getElem?_map, chunks_getElem? 8 16 n _ h, Option.map_some, State.bytes_piece _ _ (by omega), hkey]

/-! ### The completion record (R17) -/

theorem State.bytes_congr {s t : State} (h : SameBytes s t) (k n : Nat) : t.bytes k n = s.bytes k n := by
  apply List.ext_getElem?
  intro i
  rw [State.bytes_getElem?, State.bytes_getElem?, h]

theorem wordsBytes_append (a b : List Word) : wordsBytes (a ++ b) = wordsBytes a ++ wordsBytes b := by
  simp [wordsBytes]

/-- A word of some words put is read back. -/
theorem State.bytes_putWords (s : State) (k : Nat) (a b : List Word) (w : Word) :
    (s.putBytes k (wordsBytes (a ++ w :: b))).bytes (k + 8 * a.length) 8 = leBytes 8 w.toNat := by
  have hlen : (wordsBytes (a ++ w :: b)).length = 8 * a.length + 8 + 8 * b.length := by
    rw [wordsBytes_length, List.length_append, List.length_cons]
    omega
  have hword : wordsBytes (w :: b) = leBytes 8 w.toNat ++ wordsBytes b := rfl
  rw [← State.bytes_piece _ k (n := (wordsBytes (a ++ w :: b)).length) (by omega), State.bytes_putBytes, wordsBytes_append, hword,
    List.drop_left' (wordsBytes_length a), List.take_left' (leBytes_length 8 _)]

/-- The completion record is the only thing in memory that the end of a launch writes; a message may be signalled besides. -/
theorem State.writeCompletion_frame (s : State) (l : Nat) (ran : Bool) : ∃ v, s.writeCompletion l ran =
    { s.putBytes (crecKey ((s.launch l).word 5)) (wordsBytes ((s.launch l).crecWords ran)) with
      mgmt := { s.mgmt with msix := v } } := by
  obtain ⟨m, hput⟩ := State.putBytes_frame (wordsBytes ((s.launch l).crecWords ran)) s (crecKey ((s.launch l).word 5))
  unfold State.writeCompletion
  dsimp only
  rw [hput]
  split
  · exact ⟨_, rfl⟩
  · exact ⟨s.mgmt.msix, rfl⟩

/-- A launch after its end. -/
def Launch.over (x : Launch) (status trap : Nat) (frec : Word) : Launch :=
  { x with phase := .ended, status, trap, frec, saved := none, grants := [] }

/-- The end of a launch that never ran and holds no die. -/
theorem State.endLaunch_unheld (s : State) (l status trap : Nat) (frec : Word) (h : (s.launch l).phase.holds = false) :
    let x := s.launch l
    let t := s.endLaunch l status trap frec false
    t.dies = s.dies ∧ t.launch l = x.over status trap frec ∧ t.mgmt.passDue = true ∧
      (t.queue x.queue).items = (s.queue x.queue).items.filter (fun k => k != l) ∧
      SameBytes (s.putBytes (crecKey (x.word 5)) (wordsBytes ((x.over status trap frec).crecWords false))) t := by
  intro x t
  let u := (s.setLaunch l (x.over status trap frec)).setQueue x.queue
    { s.queue x.queue with items := (s.queue x.queue).items.filter (fun k => k != l) }
  have hend : t = { u.writeCompletion l false with mgmt := { (u.writeCompletion l false).mgmt with passDue := true } } := by
    show s.endLaunch l status trap frec false = _
    unfold State.endLaunch
    simp only [h, Bool.false_eq_true, if_false]
    rfl
  have hlaunch : u.launch l = x.over status trap frec := (State.launch_setLaunch s l l _).trans (if_pos rfl)
  obtain ⟨v, hrecord⟩ := u.writeCompletion_frame l false
  rw [hlaunch] at hrecord
  obtain ⟨m, hput⟩ := State.putBytes_frame (wordsBytes ((x.over status trap frec).crecWords false)) u
    (crecKey ((x.over status trap frec).word 5))
  rw [hput] at hrecord
  rw [hrecord] at hend
  refine ⟨by rw [hend]; rfl, by rw [hend]; exact hlaunch, by rw [hend], ?_, fun k => ?_⟩
  · rw [hend]
    exact congrArg Queue.items ((State.queue_setQueue _ _ _ _).trans (if_pos rfl))
  · calc t.byte k = ({ u with mem := m } : State).byte k := by rw [hend]; rfl
      _ = _ := by rw [← hput, State.byte_putBytes, State.byte_putBytes]; rfl

/-! ### Frames of the scheduler (R42) -/

/-- What a scheduler pass may change: the launches, the queues, the round robin and the dies of other packages' launches, and the
counter of free values. -/
def SchedFrame (s t : State) : Prop :=
  ∃ ls c qs rr g p, t = { s with
    launches := ls, freeCtr := c, mgmt := { s.mgmt with queues := qs, rr := rr, granted := g, pending := p } }

theorem schedFrame_refl (s : State) : SchedFrame s s := ⟨_, _, _, _, _, _, rfl⟩

theorem schedFrame_trans {s t u : State} (h : SchedFrame s t) (k : SchedFrame t u) : SchedFrame s u := by
  obtain ⟨_, _, _, _, _, _, rfl⟩ := h
  obtain ⟨_, _, _, _, _, _, rfl⟩ := k
  exact ⟨_, _, _, _, _, _, rfl⟩

theorem schedFrame_setLaunch (s : State) (l : Nat) (x : Launch) : SchedFrame s (s.setLaunch l x) := ⟨_, _, _, _, _, _, rfl⟩

theorem schedFrame_setQueue (s : State) (q : Nat) (x : Queue) : SchedFrame s (s.setQueue q x) := ⟨_, _, _, _, _, _, rfl⟩

theorem schedFrame_served (s : State) (l : Nat) : SchedFrame s (s.served l) := ⟨_, _, _, _, _, _, rfl⟩

theorem schedFrame_grantPending (s : State) : SchedFrame s s.grantPending := ⟨_, _, _, _, _, _, rfl⟩

/-- A fold changes no more than its steps do. -/
theorem schedFrame_foldl {α : Type} (f : State → α → State) (h : ∀ s a, SchedFrame s (f s a)) (l : List α) (s : State) :
    SchedFrame s (l.foldl f s) :=
  List.foldlRecOn (motive := SchedFrame s) l f (schedFrame_refl s) (fun t ht a _ => schedFrame_trans ht (h t a))

theorem schedFrame_takeRect (s : State) (l : Nat) (o : Nat × Nat) : SchedFrame s (s.takeRect l o) := by
  unfold State.takeRect
  dsimp only
  split
  · exact schedFrame_trans (schedFrame_trans (schedFrame_served s l) (schedFrame_setLaunch _ _ _)) (schedFrame_setQueue _ _ _)
  · exact schedFrame_trans (schedFrame_served s l) (schedFrame_setLaunch _ _ _)

theorem schedFrame_settleReserved (s : State) : SchedFrame s s.settleReserved := by
  unfold State.settleReserved
  refine schedFrame_trans (schedFrame_grantPending s) (schedFrame_foldl _ (fun u e => ?_) _ _)
  dsimp only
  split
  · exact schedFrame_takeRect _ _ _
  · exact schedFrame_refl _

theorem schedFrame_stopVictims (s : State) (r : List Nat) (b : Option Nat) : SchedFrame s (s.stopVictims r b) :=
  schedFrame_foldl _ (fun _ _ => schedFrame_setLaunch _ _ _) _ _

theorem schedFrame_tryHead {s t : State} {l : Nat} (h : s.tryHead l = some t) : SchedFrame s t := by
  unfold State.tryHead at h
  dsimp only at h
  split at h
  · cases h
    exact schedFrame_trans (schedFrame_served s l) (schedFrame_takeRect _ _ _)
  · split at h
    · cases h
    · cases h
      exact schedFrame_trans (schedFrame_trans (schedFrame_served s l) ⟨_, _, _, _, _, _, rfl⟩) (schedFrame_stopVictims _ _ _)

theorem schedFrame_passRound {s t : State} (h : s.passRound = some t) : SchedFrame s t := by
  obtain ⟨l, -, hl⟩ := List.exists_of_findSome?_eq_some h
  exact schedFrame_tryHead hl

theorem schedFrame_passFrom (n : Nat) : ∀ s : State, SchedFrame s (s.passFrom n) := by
  induction n with
  | zero => exact schedFrame_refl
  | succ n ih =>
    intro s
    unfold State.passFrom
    split
    · next t h => exact schedFrame_trans (schedFrame_passRound h) (ih t)
    · exact schedFrame_refl s

/-! ### A pass that admits one head (R42, R44) -/

/-- The state in which a pass begins. -/
def State.passStart (s : State) : State := { s with mgmt := { s.mgmt with passDue := false, ageInUse := s.mgmt.ageLimit } }

/-- Without a rectangle reserved, only requests of other packages are settled. -/
theorem State.settleReserved_of_no_resv (s : State) (h : ∀ e, e ∈ s.launches → (s.launch e.1).resv = false) :
    s.settleReserved = s.grantPending := by
  unfold State.settleReserved
  refine List.foldlRecOn (motive := fun u => u = s.grantPending) s.grantPending.launches _ rfl ?_
  rintro u rfl e he
  have hresv : (s.grantPending.launch e.1).resv = false := h e he
  simp only [hresv, Bool.false_and, Bool.false_eq_true, if_false]

/-- A request is granted or stays pending. -/
theorem State.grantPending_lists (s : State) : ∃ free : Nat × List Nat → Bool,
    s.grantPending.mgmt.granted =
      s.mgmt.granted ++ (s.mgmt.pending.filter free).flatMap (fun e => e.2.map (fun d => (e.1, d))) ∧
    s.grantPending.mgmt.pending = s.mgmt.pending.filter (fun e => !free e) := by
  unfold State.grantPending
  simp only [List.partition_eq_filter_filter]
  exact ⟨_, rfl, rfl⟩

/-- What holds of some members of a list, whether they have a property or not. -/
theorem mem_flatMap_filter_or_not {α β : Type} (p : α → Bool) (f : α → List β) (l : List α) (b : β) :
    (b ∈ (l.filter p).flatMap f ∨ b ∈ (l.filter (fun a => !p a)).flatMap f) ↔ b ∈ l.flatMap f := by
  simp only [List.mem_flatMap, List.mem_filter]
  constructor
  · rintro (⟨a, ⟨ha, -⟩, hb⟩ | ⟨a, ⟨ha, -⟩, hb⟩) <;> exact ⟨a, ha, hb⟩
  · rintro ⟨a, ha, hb⟩
    cases hp : p a with
    | true => exact .inl ⟨a, ⟨ha, hp⟩, hb⟩
    | false => exact .inr ⟨a, ⟨ha, by rw [hp]; rfl⟩, hb⟩

/-- Granting a request takes no die and frees none. -/
theorem State.mem_takenDies_grantPending (s : State) (self : Nat) (removed : List Nat) (d : Nat) :
    d ∈ s.grantPending.takenDies self removed ↔ d ∈ s.takenDies self removed := by
  obtain ⟨free, hgranted, hpending⟩ := s.grantPending_lists
  have hlaunches : s.grantPending.launches = s.launches := rfl
  have hlocal (x : Launch) : s.grantPending.localDies x = s.localDies x := rfl
  have hdies : ((s.mgmt.pending.filter free).flatMap (fun e => e.2.map (fun d => (e.1, d)))).map (·.2) =
      (s.mgmt.pending.filter free).flatMap (·.2) := by
    simp [List.map_flatMap, Function.comp_def]
  unfold State.takenDies
  simp only [hlaunches, hlocal, hgranted, hpending, List.map_append, hdies, List.mem_append, or_assoc, mem_flatMap_filter_or_not]

theorem State.firstFit_grantPending (s : State) (l : Nat) : s.grantPending.firstFit l = s.firstFit l := by
  have hfits (dies : List Nat) (drw : Nat → Nat) : s.grantPending.fits l dies drw [] = s.fits l dies drw [] := by
    have hfree (d : Nat) : (s.grantPending.takenDies l []).contains d = (s.takenDies l []).contains d := by
      rw [Bool.eq_iff_iff, List.contains_iff_mem, List.contains_iff_mem]
      exact s.mem_takenDies_grantPending l [] d
    unfold State.fits
    simp only [hfree]
    rfl
  unfold State.firstFit
  simp only [hfits]
  rfl

/-- A function that has a value at one number alone has that one value over a range with the number. -/
theorem filterMap_range_single {β : Type} (f : Nat → Option β) (a : Nat) (b : β) (n : Nat)
    (h : ∀ k, k < n → f k = if k = a then some b else none) :
    (List.range n).filterMap f = if a < n then [b] else [] := by
  induction n with
  | zero => rfl
  | succ n ih =>
    rw [List.range_succ, List.filterMap_append, ih (fun k hk => h k (Nat.lt_succ_of_lt hk)), List.filterMap_cons,
      List.filterMap_nil, h n (Nat.lt_succ_self n)]
    by_cases hn : n = a
    · rw [if_pos hn, if_neg (by omega), if_pos (by omega)]
      rfl
    · rw [if_neg hn]
      by_cases ha : a < n
      · rw [if_pos ha, if_pos (by omega)]
        rfl
      · rw [if_neg ha, if_neg (by omega)]
        rfl

/-- Where one queue alone has a launch, and that launch may be admitted, it is the only head. -/
theorem State.heads_single (s : State) {q l : Nat} (hq : q < 16) (hitems : (s.queue q).items = [l])
    (hothers : ∀ p, p ≠ q → (s.queue p).items = []) (hphase : (s.launch l).phase = .queued) (hresv : (s.launch l).resv = false) :
    s.heads = [l] := by
  have hturn (k : Nat) (hk : k < 16) : (s.mgmt.rr + k) % 16 = q ↔ k = (q + 16 - s.mgmt.rr % 16) % 16 := by omega
  unfold State.heads
  refine (filterMap_range_single _ ((q + 16 - s.mgmt.rr % 16) % 16) l 16 fun k hk => ?_).trans
    (if_pos (Nat.mod_lt _ (by omega)))
  by_cases hmine : (s.mgmt.rr + k) % 16 = q
  · rw [if_pos ((hturn k hk).mp hmine), hmine, hitems]
    dsimp only
    rw [if_pos ⟨.inl hphase, by rw [hresv]; rfl⟩]
  · rw [if_neg (mt (hturn k hk).mpr hmine), hothers _ hmine]

theorem State.heads_nil (s : State) (h : ∀ q, (s.queue q).items = []) : s.heads = [] := by
  unfold State.heads
  simp [h]

theorem State.passRound_nil (s : State) (h : s.heads = []) : s.passRound = none := by
  simp [State.passRound, h]

/-- A round over one head tries it. -/
theorem State.passRound_single (s : State) {l : Nat} (h : s.heads = [l]) (hprio : (s.launch l).prio ≤ 3) :
    s.passRound = s.tryHead l := by
  have hlist : [3, 2, 1, 0].flatMap (fun p => s.heads.filter (fun l => (s.launch l).prio == p)) = [l] := by
    rw [h]
    obtain hp | hp | hp | hp : (s.launch l).prio = 0 ∨ (s.launch l).prio = 1 ∨ (s.launch l).prio = 2 ∨ (s.launch l).prio = 3 := by
      omega
    all_goals simp [hp]
  unfold State.passRound
  rw [hlist, List.findSome?_cons]
  cases s.tryHead l <;> rfl

/-- The state after a launch has taken a rectangle of this package: it is admitted, leaves its queue, and the round robin goes on. -/
def State.admitAt (s : State) (l : Nat) (o : Nat × Nat) : State :=
  let x := s.launch l
  ((s.served l).setLaunch l { x with gx := o.1, gy := o.2, resv := false, grants := [], phase := .admitted }).setQueue x.queue
    { s.queue x.queue with items := (s.queue x.queue).items.filter (fun k => k != l) }

/-- A head that fits takes its rectangle. -/
theorem State.tryHead_local (s : State) {l : Nat} {o : Nat × Nat} (hfit : s.firstFit l = some o)
    (hlocal : s.isLocal { s.launch l with gx := o.1, gy := o.2 } = true) : s.tryHead l = some (s.admitAt l o) := by
  have hfit' : (s.served l).firstFit l = some o := hfit
  have htake : (s.served l).takeRect l o = s.admitAt l o := if_pos hlocal
  unfold State.tryHead
  simp only [hfit']
  exact congrArg some htake

/-- A round that comes to a state in which no queue has a launch is the last. -/
theorem State.passFrom_last (s t : State) (n : Nat) (h : s.passRound = some t) (hempty : ∀ q, (t.queue q).items = []) :
    s.passFrom (n + 1) = t := by
  have hstop : t.passFrom n = t := by
    cases n with
    | zero => rfl
    | succ n => simp only [State.passFrom, t.passRound_nil (t.heads_nil hempty)]
  simp only [State.passFrom, h, hstop]

/-! ### Gangs (R46, R47) -/

theorem keyLess_iff (a b : Nat × Nat × Nat) : keyLess a b = true ↔
    a.1 < b.1 ∨ (a.1 = b.1 ∧ (a.2.1 < b.2.1 ∨ (a.2.1 = b.2.1 ∧ a.2.2 < b.2.2))) := decide_eq_true_iff

theorem keyLess_irrefl (a : Nat × Nat × Nat) : keyLess a a = false := by
  rw [Bool.eq_false_iff, ne_eq, keyLess_iff]
  omega

/-- What is not before `b` is not before what is before `b`. -/
theorem keyLess_of_less {a b c : Nat × Nat × Nat} (h : keyLess a b = true) (k : keyLess c b = false) : keyLess c a = false := by
  rw [Bool.eq_false_iff, ne_eq, keyLess_iff] at k ⊢
  rw [keyLess_iff] at h
  omega

/-- Among some candidates there is one that none is before. -/
theorem exists_least_key {α : Type} (l : List ((Nat × Nat × Nat) × α)) (h : l ≠ []) :
    ∃ e ∈ l, ∀ f ∈ l, keyLess f.1 e.1 = false := by
  induction l with
  | nil => exact absurd rfl h
  | cons e l ih =>
    by_cases hl : l = []
    · subst hl
      refine ⟨e, List.mem_cons_self, fun f hf => ?_⟩
      rw [List.mem_singleton.mp hf]
      exact keyLess_irrefl e.1
    · obtain ⟨m, hm, hleast⟩ := ih hl
      cases hem : keyLess e.1 m.1 with
      | true =>
        refine ⟨e, List.mem_cons_self, fun f hf => ?_⟩
        rcases List.mem_cons.mp hf with rfl | hf
        · exact keyLess_irrefl f.1
        · exact keyLess_of_less hem (hleast f hf)
      | false =>
        refine ⟨m, List.mem_cons_of_mem e hm, fun f hf => ?_⟩
        rcases List.mem_cons.mp hf with rfl | hf
        · exact hem
        · exact hleast f hf

/-- Among some candidates there is a best one. -/
theorem bestOf_mem {α : Type} (n : Nat) (l : List ((Nat × Nat × Nat) × α)) (h : l ≠ []) :
    ∃ x, bestOf n l = some x ∧ ∃ k, (k, x) ∈ l := by
  unfold bestOf
  dsimp only
  generalize htop : l.filter (fun e => l.all (fun f => !keyLess f.1 e.1)) = top
  have hpos : 0 < top.length := by
    obtain ⟨e, he, hleast⟩ := exists_least_key l h
    refine List.length_pos_of_mem (a := e) ?_
    rw [← htop, List.mem_filter, List.all_eq_true]
    exact ⟨he, fun f hf => by rw [hleast f hf]; rfl⟩
  have hplace : n % max top.length 1 < top.length := by
    rw [Nat.max_eq_left hpos]
    exact Nat.mod_lt _ hpos
  have hsub : ∀ e ∈ top, e ∈ l := by
    subst htop
    exact fun e he => (List.mem_filter.mp he).1
  rw [List.getElem?_eq_getElem hplace]
  exact ⟨_, rfl, _, hsub _ (List.getElem_mem hplace)⟩

/-- Victims stop; no other launch changes. -/
theorem State.launch_stopVictims (b : Option Nat) (r : List Nat) : ∀ (s : State) (m : Nat), (s.stopVictims r b).launch m =
    if m ∈ r then { s.launch m with phase := .stopping, preemptor := b } else s.launch m := by
  induction r with
  | nil => exact fun s m => (if_neg List.not_mem_nil).symm
  | cons v r ih =>
    intro s m
    show (State.stopVictims (s.setLaunch v { s.launch v with phase := .stopping, preemptor := b }) r b).launch m = _
    rw [ih, State.launch_setLaunch]
    by_cases hv : m = v
    · subst hv; simp
    · simp [hv]

theorem State.stopVictims_frame (r : List Nat) (b : Option Nat) : ∀ s : State,
    ∃ ls, s.stopVictims r b = { s with launches := ls } := by
  induction r with
  | nil => exact fun s => ⟨s.launches, rfl⟩
  | cons v r ih =>
    intro s
    obtain ⟨ls, h⟩ := ih (s.setLaunch v { s.launch v with phase := .stopping, preemptor := b })
    exact ⟨ls, h⟩

/-- The answers that a launch has once package `pkg` has granted. -/
def Launch.grantsWith (x : Launch) (pkg : Nat) : List (Nat × Bool) := x.grants.filter (fun e => e.1 != pkg) ++ [(pkg, true)]

theorem Launch.mem_grantsWith (x : Launch) (pkg : Nat) : (pkg, true) ∈ x.grantsWith pkg := by simp [Launch.grantsWith]

/-- A package has answered if it is the one that grants now or had answered before. -/
theorem Launch.answered_grantsWith (x : Launch) (pkg p : Nat) :
    (x.grantsWith pkg).any (fun e => e.1 == p) = true ↔ p = pkg ∨ ∃ b, (p, b) ∈ x.grants := by
  simp only [Launch.grantsWith, List.any_eq_true, List.mem_append, List.mem_filter, List.mem_singleton]
  constructor
  · rintro ⟨e, ⟨he, -⟩ | rfl, hp⟩
    · rw [← eq_of_beq hp]; exact .inr ⟨e.2, he⟩
    · exact .inl (eq_of_beq hp).symm
  · rintro (rfl | ⟨b, hb⟩)
    · exact ⟨(p, true), .inr rfl, beq_self_eq_true _⟩
    · by_cases hp : p = pkg
      · exact ⟨(pkg, true), .inr rfl, by rw [hp]; exact beq_self_eq_true _⟩
      · exact ⟨(p, b), .inl ⟨hb, by simpa using hp⟩, beq_self_eq_true _⟩

end Sys2Proof.Machine
end

section
/-! The obligation on records, passes, ageing and gangs. -/

namespace Sys2Proof.Machine

open Sys2Proof Sys2Proof.Claims

/-! ### Records (R14, R16) -/

/-- LAUNCH_RECORD_ACCEPTANCE of a record that may be accepted. -/
theorem launchRecordAcceptance_results (s : State) {q : Nat} {w : List Word}
    (hw : s.recordAt q ((s.queue q).nextseq.toNat % 64) = w)
    (hmay : q < 16 ∧ (s.queue q).qstate = 1 ∧ (s.queue q).nextseq ≠ 0 ∧ w[15]? = some (s.queue q).nextseq) :
    ∃ t, execLaunchRecordAcceptance q s = .next t ∧ SameBytes s t ∧ t.dies = s.dies ∧ t.nLaunch = s.nLaunch + 1 ∧
      t.mgmt.passDue = true ∧ t.queue q = { s.queue q with
        nextseq := (s.queue q).nextseq + 1, consumed := (s.queue q).consumed + 1, items := (s.queue q).items ++ [s.nLaunch] } ∧
      (∀ p, p ≠ q → t.queue p = s.queue p) ∧ (∀ m, m ≠ s.nLaunch → t.launch m = s.launch m) ∧
      (t.launch s.nLaunch).words = w ∧ (t.launch s.nLaunch).queue = q ∧ (t.launch s.nLaunch).phase = .accepted ∧
      (t.launch s.nLaunch).since = s.cycle ∧ (t.launch s.nLaunch).prio = ((w[0]?).getD 0).toNat / 2 ^ 8 % 4 := by
  subst hw
  let x : Launch :=
    let w := s.recordAt q ((s.queue q).nextseq.toNat % 64)
    { words := w, queue := q, prio := bitsOf ((w[0]?).getD 0) 8 2, since := s.cycle, w := bitsOf ((w[0]?).getD 0) 16 8
      h := bitsOf ((w[0]?).getD 0) 24 8 }
  have hnew (u : State) : (u.setLaunch s.nLaunch x).launch s.nLaunch = x := (State.launch_setLaunch _ _ _ _).trans (if_pos rfl)
  refine ⟨_, if_pos hmay, fun _ => rfl, rfl, rfl, rfl, ?_, fun p hp => ?_, fun m hm => ?_, congrArg Launch.words (hnew _),
    congrArg Launch.queue (hnew _), congrArg Launch.phase (hnew _), congrArg Launch.since (hnew _), congrArg Launch.prio (hnew _)⟩
  · exact (State.queue_setQueue _ _ _ _).trans (if_pos rfl)
  · exact (State.queue_setQueue _ _ _ _).trans (if_neg hp)
  · exact (State.launch_setLaunch _ _ _ _).trans (if_neg hm)

/-- The first failing check of a record gives the status. -/
theorem State.recordStatus_eq (s : State) (l : Nat) : s.recordStatus l =
    if (s.launch l).formBad = true then some 2
    else if s.origins (s.launch l) = [] then some 3
    else if 2097152 < ((s.launch l).word 4).toNat % 2 ^ 24 then some 4
    else if s.imageOk (s.launch l) = true then none else some 5 := by
  have hbits : bitsOf ((s.launch l).word 4) 0 24 = ((s.launch l).word 4).toNat % 2 ^ 24 := by simp [bitsOf]
  unfold State.recordStatus
  simp only [List.isEmpty_iff, hbits]
  cases s.imageOk (s.launch l) <;> rfl

theorem State.recordStatus_range {s : State} {l n : Nat} (h : s.recordStatus l = some n) : 2 ≤ n ∧ n ≤ 5 := by
  rw [State.recordStatus_eq] at h
  split at h
  · cases h; omega
  · split at h
    · cases h; omega
    · split at h
      · cases h; omega
      · split at h
        · cases h
        · cases h; omega

theorem execLaunchRecordCheck_other (s : State) (l : Nat) (h : (s.launch l).phase ≠ .accepted ∨ s.nLaunch ≤ l) :
    execLaunchRecordCheck l s = .next s := by
  refine if_neg ?_
  rintro ⟨hphase, hl⟩
  rcases h with h | h
  · exact h hphase
  · omega

/-- LAUNCH_RECORD_CHECK of a record without a failing check. -/
theorem execLaunchRecordCheck_good (s : State) (l : Nat) (hphase : (s.launch l).phase = .accepted) (hl : l < s.nLaunch)
    (h : s.recordStatus l = none) : execLaunchRecordCheck l s =
      .next { s.setLaunch l { s.launch l with phase := .queued } with mgmt := { s.mgmt with passDue := true } } := by
  simp [execLaunchRecordCheck, hphase, hl, h]

/-- LAUNCH_RECORD_CHECK of a record with a failing check ends the launch, which has never run, with its status. -/
theorem launchRecordCheck_bad (s : State) (l n : Nat) (hphase : (s.launch l).phase = .accepted) (hl : l < s.nLaunch)
    (h : s.recordStatus l = some n) :
    let x := s.launch l
    ∃ t, execLaunchRecordCheck l s = .next t ∧ t.dies = s.dies ∧ (t.launch l).phase = .ended ∧ (t.launch l).status = n ∧
      t.mgmt.passDue = true ∧ l ∉ (t.queue x.queue).items ∧ SameBytesOutside s t (crecKey (x.word 5)) 64 ∧
      t.bytes (crecKey (x.word 5)) 8 = leBytes 8 (2 ^ 63 + n) ∧
      t.bytes (crecKey (x.word 5) + 8) 8 = leBytes 8 (x.word 15).toNat := by
  intro x
  have hexec : execLaunchRecordCheck l s = .next (s.endLaunch l n 0 0 false) := by
    simp [execLaunchRecordCheck, hphase, hl, h]
  obtain ⟨hdies, hlaunch, hpass, hitems, hbytes⟩ := s.endLaunch_unheld l n 0 0 (by rw [hphase]; rfl)
  change SameBytes (s.putBytes (crecKey (x.word 5)) (wordsBytes ((x.over n 0 0).crecWords false))) _ at hbytes
  have hsmall : n ≤ 5 := (State.recordStatus_range h).2
  obtain ⟨tail, hwords, htail⟩ : ∃ tail, (x.over n 0 0).crecWords false = BitVec.ofNat 64 (2 ^ 63 + n) :: x.word 15 :: tail ∧
      tail.length = 6 := by
    have hfirst : 2 ^ 63 + 0 % 256 * 2 ^ 16 + 0 * 2 ^ 8 + n % 256 = 2 ^ 63 + n := by omega
    exact ⟨_, congrArg (fun v => BitVec.ofNat 64 v :: _) hfirst, rfl⟩
  rw [hwords] at hbytes
  refine ⟨_, hexec, hdies, by rw [hlaunch]; rfl, by rw [hlaunch]; rfl, hpass, ?items, fun k hk => ?outside, ?first, ?second⟩
  case items => rw [hitems]; simp
  case outside =>
    rw [hbytes k, sameBytesOutside_putBytes s _ _ k]
    rw [wordsBytes_length, List.length_cons, List.length_cons, htail]
    exact hk
  case first =>
    rw [State.bytes_congr hbytes]
    have hread := s.bytes_putWords (crecKey (x.word 5)) [] (x.word 15 :: tail) (BitVec.ofNat 64 (2 ^ 63 + n))
    rwa [BitVec.toNat_ofNat, Nat.mod_eq_of_lt (by omega)] at hread
  case second =>
    rw [State.bytes_congr hbytes]
    exact s.bytes_putWords (crecKey (x.word 5)) [BitVec.ofNat 64 (2 ^ 63 + n)] tail (x.word 15)

/-! ### Ageing (R43) -/

theorem Launch.mayAge_iff (x : Launch) (now limit : Nat) : x.mayAge now limit = true ↔
    (x.phase = .queued ∨ x.phase = .saved ∨ x.phase = .asking ∨ x.phase = .accepted) ∧ x.aged = false ∧ x.since + limit ≤ now := by
  simp [Launch.mayAge, or_assoc, and_assoc]

/-! ### Passes (R42, R44) -/

theorem execSchedulerPass_not_due (s : State) (h : s.mgmt.passDue = false ∨ s.mgmt.powered = false) :
    execSchedulerPass s = .next s := by
  unfold execSchedulerPass
  rcases h with h | h <;> simp [h]

/-- The state after a pass. -/
def State.afterPass (s : State) : State :=
  let t := s.passStart.settleReserved.passFrom 64
  { t with freeCtr := t.freeCtr + 4096 }

theorem execSchedulerPass_due (s : State) (hdue : s.mgmt.passDue = true) (hpower : s.mgmt.powered = true) :
    execSchedulerPass s = .next s.afterPass := if_pos ⟨hdue, hpower⟩

theorem State.schedFrame_afterPass (s : State) : SchedFrame s.passStart s.afterPass :=
  schedFrame_trans (schedFrame_trans (schedFrame_settleReserved _) (schedFrame_passFrom 64 _)) ⟨_, _, _, _, _, _, rfl⟩

/-- A pass over one head that fits in this package admits it and nothing else. -/
theorem State.afterPass_single (s : State) {q l : Nat} {o : Nat × Nat} (hq : q < 16) (hqueue : (s.launch l).queue = q)
    (hitems : (s.queue q).items = [l]) (hothers : ∀ p, p ≠ q → (s.queue p).items = [])
    (hnone : ∀ e, e ∈ s.launches → (s.launch e.1).resv = false) (hphase : (s.launch l).phase = .queued)
    (hresv : (s.launch l).resv = false) (hprio : (s.launch l).prio ≤ 3) (hfit : s.firstFit l = some o)
    (hlocal : s.isLocal { s.launch l with gx := o.1, gy := o.2 } = true) :
    let t := s.afterPass
    t.launch l = { s.launch l with phase := .admitted, gx := o.1, gy := o.2, grants := [] } ∧ (t.queue q).items = [] ∧
      t.mgmt.rr = (q + 1) % 16 ∧ ∀ m, m ≠ l → t.launch m = s.launch m := by
  intro t
  let u := s.passStart.grantPending
  have hsettled : s.passStart.settleReserved = u := s.passStart.settleReserved_of_no_resv hnone
  have hhead : u.tryHead l = some (u.admitAt l o) := u.tryHead_local ((s.passStart.firstFit_grantPending l).trans hfit) hlocal
  have hround : u.passRound = some (u.admitAt l o) :=
    (u.passRound_single (u.heads_single hq hitems hothers hphase hresv) hprio).trans hhead
  have hadmitted (p : Nat) : (u.admitAt l o).queue p =
      if p = q then { s.queue q with items := (s.queue q).items.filter (fun k => k != l) } else s.queue p := by
    subst hqueue
    exact State.queue_setQueue _ _ _ _
  have hmine : ((u.admitAt l o).queue q).items = [] := by rw [hadmitted, if_pos rfl, hitems]; simp
  have hempty (p : Nat) : ((u.admitAt l o).queue p).items = [] := by
    by_cases hp : p = q
    · rw [hp]; exact hmine
    · rw [hadmitted, if_neg hp]; exact hothers p hp
  have hpass : t = { u.admitAt l o with freeCtr := (u.admitAt l o).freeCtr + 4096 } := by
    show s.afterPass = _
    unfold State.afterPass
    rw [hsettled, State.passFrom_last u _ 63 hround hempty]
  have hlaunch (m : Nat) : t.launch m =
      if m = l then { s.launch l with gx := o.1, gy := o.2, resv := false, grants := [], phase := .admitted } else s.launch m := by
    rw [hpass]
    exact State.launch_setLaunch _ _ _ _
  refine ⟨?_, by rw [hpass]; exact hmine, by rw [hpass, ← hqueue]; rfl, fun m hm => by rw [hlaunch, if_neg hm]⟩
  rw [hlaunch, if_pos rfl, ← hresv]

/-! ### Gangs (R46, R47) -/

/-- The physical dies of a rectangle that another package asks for. -/
def askedDies (px py wd ht : Nat) : List Nat :=
  (List.range ht).flatMap (fun j => (List.range wd).map (fun i => 2 * (py + j) + px + i))

/-- GANG_DIE_REQUEST of dies that are free grants them. -/
theorem execGangDieRequest_free (s : State) (pkg prio px py wd ht : Nat) (hwd : wd ≠ 0) (hht : ht ≠ 0) (hx : px + wd ≤ 2)
    (hy : py + ht ≤ 4) (hfree : s.fits s.nLaunch (askedDies px py wd ht) (fun _ => 0) [] = true) :
    execGangDieRequest pkg prio px py wd ht s = .next { s with mgmt := { s.mgmt with
      granted := s.mgmt.granted ++ (askedDies px py wd ht).map (fun d => (pkg, d)) } } := by
  unfold execGangDieRequest
  rw [if_neg (by omega), if_neg (by omega)]
  exact if_pos hfree

/-- GANG_DIE_REQUEST of dies that are not free and that no removal of launches frees is refused. -/
theorem execGangDieRequest_refused (s : State) (pkg prio px py wd ht : Nat) (hwd : wd ≠ 0) (hht : ht ≠ 0)
    (hx : px + wd ≤ 2) (hy : py + ht ≤ 4) (htaken : s.fits s.nLaunch (askedDies px py wd ht) (fun _ => 0) [] = false)
    (hnone : s.removals s.nLaunch prio (askedDies px py wd ht) (fun _ => 0) = []) :
    execGangDieRequest pkg prio px py wd ht s = .next s := by
  unfold askedDies at htaken hnone
  unfold execGangDieRequest
  rw [if_neg (by omega), if_neg (by omega)]
  simp only [htaken, hnone]
  rfl

/-- GANG_DIE_REQUEST of dies that a removal frees reserves them, and the launches of one such removal stop. -/
theorem gangDieRequest_reserved (s : State) (pkg prio px py wd ht : Nat) (hwd : wd ≠ 0) (hht : ht ≠ 0)
    (hx : px + wd ≤ 2) (hy : py + ht ≤ 4) (htaken : s.fits s.nLaunch (askedDies px py wd ht) (fun _ => 0) [] = false)
    (hsome : s.removals s.nLaunch prio (askedDies px py wd ht) (fun _ => 0) ≠ []) :
    ∃ t r, execGangDieRequest pkg prio px py wd ht s = .next t ∧
      r ∈ s.removals s.nLaunch prio (askedDies px py wd ht) (fun _ => 0) ∧ SameBytes s t ∧ t.dies = s.dies ∧
      t.mgmt = { s.mgmt with pending := s.mgmt.pending ++ [(pkg, askedDies px py wd ht)] } ∧ ∀ m, t.launch m =
        if m ∈ r then { s.launch m with phase := .stopping, preemptor := none } else s.launch m := by
  obtain ⟨r, hbest, key, hr⟩ := bestOf_mem (Config.freeNat s.freeCtr)
    ((s.removals s.nLaunch prio (askedDies px py wd ht) (fun _ => 0)).map (fun r => (s.removalKey 0 r, r)))
    (fun h => hsome (List.map_eq_nil_iff.mp h))
  have hmem : r ∈ s.removals s.nLaunch prio (askedDies px py wd ht) (fun _ => 0) := by
    obtain ⟨r', hr', heq⟩ := List.mem_map.mp hr
    rwa [← (Prod.mk.inj heq).2]
  have hexec : execGangDieRequest pkg prio px py wd ht s =
      let v := State.stopVictims { s with freeCtr := s.freeCtr + 1 } r none
      .next { v with mgmt := { v.mgmt with pending := v.mgmt.pending ++ [(pkg, askedDies px py wd ht)] } } := by
    unfold askedDies at htaken hbest
    unfold execGangDieRequest
    rw [if_neg (by omega), if_neg (by omega)]
    simp only [htaken, hbest]
    rfl
  obtain ⟨ls, hframe⟩ := State.stopVictims_frame r none { s with freeCtr := s.freeCtr + 1 }
  have hlaunch := State.launch_stopVictims none r { s with freeCtr := s.freeCtr + 1 }
  rw [hframe] at hexec hlaunch
  exact ⟨_, r, hexec, hmem, fun _ => rfl, rfl, rfl, hlaunch⟩

theorem execGangGrant_not_asked (s : State) (l pkg : Nat) (ok : Bool)
    (h : ¬((s.launch l).phase = .asking ∧ pkg ∈ s.otherPackages (s.launch l))) : execGangGrant l pkg ok s = .next s :=
  if_neg (by rwa [List.contains_iff_mem])

/-- GANG_GRANT of a package that refuses. -/
theorem execGangGrant_refused (s : State) (l pkg : Nat) (h : (s.launch l).phase = .asking ∧ pkg ∈ s.otherPackages (s.launch l)) :
    execGangGrant l pkg false s = .next (s.setLaunch l { s.launch l with
      phase := if (s.launch l).saved.isSome then .saved else .queued, grants := [] }) := by
  unfold execGangGrant
  rw [if_pos (by rwa [List.contains_iff_mem])]
  rfl

/-- GANG_GRANT of the last package to answer admits the launch, which leaves its queue; that of another is noted. -/
theorem gangGrant_results (s : State) (l pkg : Nat) (h : (s.launch l).phase = .asking ∧ pkg ∈ s.otherPackages (s.launch l)) :
    let x := s.launch l
    ∃ t, execGangGrant l pkg true s = .next t ∧ SameBytes s t ∧ t.dies = s.dies ∧
      (∀ m, m ≠ l → t.launch m = s.launch m) ∧ (pkg, true) ∈ (t.launch l).grants ∧
      ((∀ p, p ∈ s.otherPackages x → p = pkg ∨ ∃ b, (p, b) ∈ x.grants) →
        (t.launch l).phase = .admitted ∧ l ∉ (t.queue x.queue).items) ∧
      ((∃ p, p ∈ s.otherPackages x ∧ p ≠ pkg ∧ ∀ b, (p, b) ∉ x.grants) → (t.launch l).phase = .asking) := by
  intro x
  have hexec : execGangGrant l pkg true s =
      if (s.otherPackages x).all (fun p => (x.grantsWith pkg).any (fun e => e.1 == p)) = true then
        .next (((s.served l).setLaunch l { x with phase := .admitted, grants := x.grantsWith pkg }).setQueue x.queue
          { s.queue x.queue with items := (s.queue x.queue).items.filter (fun k => k != l) })
      else .next (s.setLaunch l { x with grants := x.grantsWith pkg }) :=
    if_pos (by rwa [List.contains_iff_mem])
  have hall : (s.otherPackages x).all (fun p => (x.grantsWith pkg).any (fun e => e.1 == p)) = true ↔
      ∀ p, p ∈ s.otherPackages x → p = pkg ∨ ∃ b, (p, b) ∈ x.grants := by
    simp only [List.all_eq_true, Launch.answered_grantsWith]
  have hset (y : Launch) (u : State) (m : Nat) : (u.setLaunch l y).launch m = if m = l then y else u.launch m :=
    State.launch_setLaunch u l m y
  by_cases hlast : ∀ p, p ∈ s.otherPackages x → p = pkg ∨ ∃ b, (p, b) ∈ x.grants
  · rw [if_pos (hall.mpr hlast)] at hexec
    have hmine := (hset { x with phase := .admitted, grants := x.grantsWith pkg } (s.served l) l).trans (if_pos rfl)
    refine ⟨_, hexec, fun _ => rfl, rfl, fun m hm => (hset _ _ m).trans (if_neg hm), ?_, fun _ => ⟨congrArg Launch.phase hmine, ?_⟩,
      fun ⟨p, hp, hne, hno⟩ => ?_⟩
    · rw [State.launch_setQueue, hmine]
      exact x.mem_grantsWith pkg
    · rw [State.queue_setQueue, if_pos rfl]
      simp
    · rcases hlast p hp with heq | ⟨b, hb⟩
      · exact absurd heq hne
      · exact absurd hb (hno b)
  · rw [if_neg (mt hall.mp hlast)] at hexec
    have hmine := (hset { x with grants := x.grantsWith pkg } s l).trans (if_pos rfl)
    refine ⟨_, hexec, fun _ => rfl, rfl, fun m hm => (hset _ _ m).trans (if_neg hm), ?_, fun h => absurd h hlast, fun _ => ?_⟩
    · rw [hmine]
      exact x.mem_grantsWith pkg
    · rw [hmine]
      exact h.1

/-- Settles O52: records, ageing, a pass and gangs, each by what its operation does. -/
theorem queueAndSchedulerEvents : Obligations.QueueAndSchedulerEvents := by
  unfold Obligations.QueueAndSchedulerEvents
  intro s q l pkg prio px py wd ht ok x w
  refine ⟨fun k n hn => s.recordAt_word q k hn, ⟨launchRecordAcceptance_results s rfl, fun h => if_neg h⟩,
    fun hphase hl => ⟨execLaunchRecordCheck_good s l hphase hl,
      fun n hn => ⟨(State.recordStatus_range hn).1, (State.recordStatus_range hn).2, launchRecordCheck_bad s l n hphase hl hn⟩,
      ?form, ?origins, ?pages, ?image⟩, execLaunchRecordCheck_other s l, ⟨?ages, ?waits⟩, execSchedulerPass_not_due s,
    fun hdue hpower => ⟨_, execSchedulerPass_due s hdue hpower, ?pass⟩, ⟨?empty, ?outside, fun hwd hht hx hy =>
      ⟨execGangDieRequest_free s pkg prio px py wd ht hwd hht hx hy, execGangDieRequest_refused s pkg prio px py wd ht hwd hht hx hy,
        gangDieRequest_reserved s pkg prio px py wd ht hwd hht hx hy⟩⟩,
    ⟨execGangGrant_not_asked s l pkg ok, execGangGrant_refused s l pkg, gangGrant_results s l pkg⟩⟩
  case form => intro h; rw [State.recordStatus_eq, if_pos h]
  case origins => intro h h'; rw [State.recordStatus_eq, if_neg (by rw [h]; decide), if_pos h']
  case pages => intro h h' h''; rw [State.recordStatus_eq, if_neg (by rw [h]; decide), if_neg h', if_pos h'']
  case image =>
    intro h h' h''
    rw [State.recordStatus_eq, if_neg (by rw [h]; decide), if_neg h', if_neg (Nat.not_lt.mpr h'')]
  case ages =>
    rintro ⟨hl, hphase, haged, hsince⟩
    exact if_pos ⟨(x.mayAge_iff _ _).mpr ⟨hphase, haged, hsince⟩, hl⟩
  case waits =>
    intro h
    refine if_neg fun ⟨hmay, hl⟩ => h ⟨hl, ?_⟩
    exact (x.mayAge_iff _ _).mp hmay
  case pass =>
    refine ⟨?_, ?_, ?_, ?_, fun o hq hqueue hitems hothers hnone hphase hresv hprio hfit hlocal =>
      s.afterPass_single hq hqueue hitems hothers hnone hphase hresv hprio hfit hlocal⟩
    all_goals
      obtain ⟨_, _, _, _, _, _, h⟩ := s.schedFrame_afterPass
      rw [h]
    · exact fun _ => rfl
    · rfl
    · rfl
    · rfl
  case empty => exact fun h => if_pos h
  case outside =>
    intro hwd hht h
    show execGangDieRequest pkg prio px py wd ht s = _
    unfold execGangDieRequest
    rw [if_neg (by omega), if_pos h]

end Sys2Proof.Machine
end
